-- ==== Sys2Proof/Word.lean ====
section
/-! DEFINITION. Sys2Proof/Word.lean: the word types of the block. Register contents are 64-bit words (a 32-bit
register uses the low half); memory is bytes. Ports, lanes, tiles, domains and the like are finite index types,
so that an operand can name only what the manual's numbering has. -/
namespace Sys2Proof

/-- A register's contents, or a 64-bit value. -/
abbrev Word := BitVec 64

/-- A byte of memory. -/
abbrev Byte := BitVec 8

/-- Port number 16t + lane offset (names and terms of 00_scope). -/
abbrev Port := Fin 1024

/-- Lane number; lane l is lane l mod 16 of tile l / 16 (R13). -/
abbrev Lane := Fin 1024

/-- Tile number (R13). -/
abbrev Tile := Fin 64

/-- Domain number, D0 to D4095 (R8). -/
abbrev Dom := Fin 4096

/-- Virtual channel of a Zitch port. -/
abbrev VC := Fin 8

/-- Slot channel: 0 to 63 are SPC0 to SPC63, 64 to 71 are PPC0 to PPC7 (R34). -/
abbrev Chan := Fin 72

/-- Switch-core plane (R14). -/
abbrev Plane := Fin 4

/-- Hedgerow (coherence group), 0 to 3. -/
abbrev Hedge := Fin 4

/-- Sequencer thread: core number times 8 plus the thread's number in its core (R14). -/
abbrev Thr := Fin 256

end Sys2Proof
end

