-- ==== Sys2Proof/Machine/Map.lean ====
section
/-! DEFINITION. Sys2Proof/Machine/Map.lean: sparse tables in one canonical form, and byte memories as one of them.
A table is a list of (key, value) pairs with strictly rising keys and no entry equal to the value that an unlisted key
reads as, so that equal tables are equal lists. -/
namespace Sys2Proof.Machine

/-- A sparse table: keys strictly rising. -/
abbrev SMap (α : Type) := List (Nat × α)

/-- The value listed for a key. -/
def SMap.find {α : Type} : SMap α → Nat → Option α
  | [], _ => none
  | (k, v) :: t, x => if k = x then some v else SMap.find t x

/-- The value at a key; an unlisted key reads as d. -/
def SMap.get {α : Type} (d : α) (m : SMap α) (x : Nat) : α := (SMap.find m x).getD d

/-- List a value at a key, keeping the keys rising. -/
def SMap.ins {α : Type} : SMap α → Nat → α → SMap α
  | [], k, v => [(k, v)]
  | (k', v') :: t, k, v =>
    if k < k' then (k, v) :: (k', v') :: t
    else if k = k' then (k, v) :: t
    else (k', v') :: SMap.ins t k v

/-- Take a key off the list. -/
def SMap.del {α : Type} (m : SMap α) (k : Nat) : SMap α := m.filter fun e => e.1 != k

/-- Write a key of a table whose unlisted keys read as d: writing d takes the key off the list. -/
def SMap.set {α : Type} [DecidableEq α] (d : α) (m : SMap α) (k : Nat) (v : α) : SMap α :=
  if v = d then SMap.del m k else SMap.ins m k v

/-- Take every key of a range off the list. -/
def SMap.drop {α : Type} (m : SMap α) (lo hi : Nat) : SMap α := m.filter fun e => !(lo ≤ e.1 && e.1 < hi)

/-- Keys strictly rising, each above a bound. -/
def SMap.rising {α : Type} : Option Nat → SMap α → Bool
  | _, [] => true
  | b, (k, _) :: t => (match b with | none => true | some x => decide (x < k)) && SMap.rising (some k) t

/-- The canonical form: keys strictly rising, and no entry equal to what an unlisted key reads as. -/
def SMap.wf {α : Type} [DecidableEq α] (d : Nat → α) (m : SMap α) : Bool :=
  SMap.rising none m && m.all fun e => decide (e.2 ≠ d e.1)

/-- A byte memory of the block (a core's local scratch, local DDR5, table space); an unlisted address reads 0. -/
abbrev Mem := List Host.Cell

/-- What a byte that nothing has written reads as (assumption log 3). -/
def Mem.unwritten : Byte := 0

/-- One byte of a memory. -/
def Mem.byte (m : Mem) (a : Nat) : Byte := SMap.get Mem.unwritten m a

/-- Write one byte. -/
def Mem.setByte (m : Mem) (a : Nat) (b : Byte) : Mem := SMap.set Mem.unwritten m a b

/-- Read n bytes, least significant at the lowest address. -/
def Mem.read (m : Mem) (a : Nat) : Nat → Nat
  | 0 => 0
  | n + 1 => (Mem.byte m a).toNat + 256 * Mem.read m (a + 1) n

/-- Write the low n bytes of a value, least significant at the lowest address. -/
def Mem.write (m : Mem) (a : Nat) : Nat → Nat → Mem
  | 0, _ => m
  | n + 1, v => Mem.write (Mem.setByte m a (BitVec.ofNat 8 v)) (a + 1) n (v / 256)

/-- Write a list of bytes. -/
def Mem.writeBytes (m : Mem) (a : Nat) : List Byte → Mem
  | [] => m
  | b :: t => Mem.writeBytes (Mem.setByte m a b) (a + 1) t

/-- Read n bytes as a list. -/
def Mem.readBytes (m : Mem) (a : Nat) : Nat → List Byte
  | 0 => []
  | n + 1 => Mem.byte m a :: Mem.readBytes m (a + 1) n

/-- Copy n bytes of one memory, from an address on, to another memory. -/
def Mem.blit (dst : Mem) (dest n : Nat) (src : Mem) (from_ : Nat) : Mem :=
  (src.filter fun c => from_ ≤ c.1 && c.1 < from_ + n).foldr (fun c d => SMap.ins d (c.1 - from_ + dest) c.2) (SMap.drop dst dest (dest + n))

/-- The canonical form of a memory. -/
abbrev Mem.wf (m : Mem) : Bool := SMap.wf (fun _ => Mem.unwritten) m

end Sys2Proof.Machine
end

