-- ==== Sys2Proof/Machine/Types.lean ====
section
/-! DEFINITION. Sys2Proof/Machine/Types.lean: the records and messages that the state holds and the commands carry,
chapter by chapter. They are plain data; the fields' meanings are the manual's tables. -/
namespace Sys2Proof.Machine

/-! ### Staged start, boot and reset (02, 03) -/

/-- A switched rail (R41). -/
inductive Rail where
  | vcore | vddq | vlane
deriving DecidableEq, Repr

/-- A slot pointer record copy (R77). -/
structure PtrRec where
  magicOk : Bool := false
  crcOk : Bool := false
  seq : Nat := 0
  active : Nat := 0
deriving DecidableEq, Repr

/-- A fuse request section's content (R79, R80): customer key hashes, revoke bits to blow, minimum security version. -/
structure FuseReq where
  key2 : Option Nat := none
  key3 : Option Nat := none
  revoke : Nat := 0
  minSec : Nat := 0
deriving DecidableEq, Repr

/-- One entry of an image's SECTIONS (R78); whether its SHA-384 digest matches its bytes is part of the record. -/
structure Section where
  offset : Nat
  size : Nat
  typ : Nat
  digestOk : Bool
deriving DecidableEq, Repr

/-- A boot slot's image, as the header checks of R79 read it. The results of SHA-384 and ECDSA over its bytes are
part of the record (assumption log 6). -/
structure Image where
  magicOk : Bool := false
  hdrVersion : Nat := 0
  mode : Nat := 0
  personalities : Nat := 0
  imageSize : Nat := 0
  fwVersion : Nat := 0
  secVersion : Nat := 0
  keyIndex : Nat := 0
  keyHash : Nat := 0
  sigOk : Bool := false
  sections : List Section := []
  sectionCount : Nat := 0
  fuseReq : Option FuseReq := none
deriving DecidableEq, Repr

/-- A policy block copy (R77, R554, R176, R198, R453, R601): the register values it holds, by BAR0 offset, and the
settings that are no register. -/
structure Policy where
  magicOk : Bool := false
  crcOk : Bool := false
  seq : Nat := 0
  regs : List (Nat × Word) := []
  chanMask : Nat := 0
  vfShare : List (Nat × Nat) := []
  perstLow : Word := 0
  kfunc : Bool := false
  dmMiB : Nat := 16
  subsysVendor : Nat := 0
  subsysId : Nat := 0
deriving DecidableEq, Repr

/-- What identifies a DIMM's training results (R84). -/
structure DimmId where
  serial : Nat
  part : Nat
  population : Nat
  alg : Nat
deriving DecidableEq, Repr

/-- A training cache copy (R77, R84): per channel, the identity its results were taken for. -/
structure TrainCopy where
  magicOk : Bool := false
  crcOk : Bool := false
  seq : Nat := 0
  chans : SMap DimmId := []
deriving DecidableEq, Repr

/-- A port of a TF-256 configuration (R594, R609, R614): the TF-256 port, its width code as `TILE_PORTMAP` has it, whether it is an upstream
port, the slot channel bound to it and whether that is privileged, and its binding: VCS, vPPB, LD. -/
structure TfPort where
  k : Nat
  width : Nat
  up : Bool := false
  slot : Option (Nat × Bool) := none
  bind : Option (Nat × Nat × Nat) := none
deriving DecidableEq, Repr

/-- A TF-256 configuration copy (R596): its bytes, whether its checksum holds, and the
ports that they spell in the TF-256's layout. -/
structure TfCopy where
  present : Bool := false
  sumOk : Bool := false
  bytes : Mem := []
  ports : List TfPort := []
deriving DecidableEq, Repr

/-- The boot flash (R76). -/
structure Flash where
  ptr0 : PtrRec := {}
  ptr1 : PtrRec := {}
  pol0 : Policy := {}
  pol1 : Policy := {}
  tc0 : TrainCopy := {}
  tc1 : TrainCopy := {}
  tf : SMap TfCopy := []
  slotA : Image := {}
  slotB : Image := {}
deriving DecidableEq, Repr

/-- The fuses (R79, R80). -/
structure Fuses where
  key0 : Nat := 0
  key1 : Nat := 0
  key2 : Nat := 0
  key3 : Nat := 0
  revoke : Nat := 0
  minSec : Nat := 0
deriving DecidableEq, Repr

/-- The pins of R50 and R41, as the switch takes them after the glitch filter. -/
structure Pins where
  auxResetN : Bool := true
  warmResetN : Bool := false
  sysPwrgd : Bool := false
  wakeN : Bool := true
  mgPerstN : Bool := false
  vcoreEn : Bool := false
  vlaneEn : Bool := false
  vddqEn : Bool := false
  vcorePg : Bool := false
  vlanePg : Bool := false
  vddqPg : Bool := false
  thermtripN : Bool := true
  /-- Bit t: the level of PORT_PERST_N[t]. -/
  portPerstN : Word := 0
deriving DecidableEq, Repr

/-- The management endpoint's link as R66 and R71 give it: stage-W identity (Gen1, 0x0A1F), in Detect, or stages C
and F (up to Gen5, 0x0A10). -/
inductive MgLink where
  | stageW | detect | native
deriving DecidableEq, Repr

/-- Progress of the staged start beyond what `WKT_BOOT_STATUS` shows. -/
structure Boot where
  /-- AUX good has been reached since the last cold reset (R39). -/
  auxGood : Bool := false
  /-- The reset that started this boot was a cold one (R81). -/
  cold : Bool := true
  /-- Slot under verification: false A, true B. -/
  trying : Option Bool := none
  /-- The other slot has already been tried or skipped in this slot choice. -/
  lastTry : Bool := false
  /-- A verified slot was refused for its mode in this slot choice (R6). -/
  modeRefused : Bool := false
  /-- Slot chosen by R81 for this boot. -/
  booted : Option Bool := none
  /-- Enables still to be deasserted, 100 µs apart (R43). -/
  dropVlane : Bool := false
  dropVddq : Bool := false
  dropVcore : Bool := false
  pllLock : Bool := false
  loaderUp : Bool := false
  /-- Sections loaded so far in this stage C, the loader included (R83). -/
  loaded : Nat := 0
  /-- Channels A to H that have finished training in this stage C, and those disabled under R86. -/
  trained : Nat := 0
  disabled : Nat := 0
  /-- Every channel trained so far used the training cache. -/
  allCached : Bool := true
  mgLink : MgLink := .stageW
  /-- An orderly core reset is running (R89), with the cause it will record. -/
  orderly : Option Nat := none
  /-- Step reached of the running orderly reset: false draining, true flushed. -/
  drained : Bool := false
  /-- The policy block in force since the last cold reset (R98). -/
  policy : Policy := {}
  /-- No stage F has been reached since the cold reset that latched native mode after TF-256 (R614). -/
  importTf : Bool := false
deriving DecidableEq, Repr

/-- States of the PLDM firmware update (R97, R98). -/
inductive PldmState where
  | idle | learnComponents | readyXfer | download | verify | apply
deriving DecidableEq, Repr

/-- The firmware-update agent (R97, R98). -/
structure Pldm where
  st : PldmState := .idle
  /-- Components passed by PassComponentTable. -/
  table : List Nat := []
  /-- Component under transfer: 1 the Briop image, 2 the policy block. -/
  comp : Nat := 0
  /-- Bytes written so far. -/
  got : Nat := 0
  /-- Size announced for the component. -/
  size : Nat := 0
  /-- The component as its bytes spell it, once transferred. -/
  image : Image := {}
  policy : Policy := {}
  verified : Bool := false
  /-- The component was applied and waits for ActivateFirmware. -/
  readyImage : Bool := false
  readyPolicy : Bool := false
deriving DecidableEq, Repr

/-! ### Errors and the journal (21) -/

/-- Error classes of R574. -/
inductive ErrClass where
  | corrected | contained | portFatal | deviceFatal
deriving DecidableEq, Repr

/-- The code of R574. -/
def ErrClass.code : ErrClass → Nat
  | .corrected => 0 | .contained => 1 | .portFatal => 2 | .deviceFatal => 3

/-- What an error record says (R588): class, BLOCK and CODE, the port and domain concerned where there is one, an
address, LOCATION, SYNDROME and INFO. -/
structure ErrRec where
  cls : ErrClass
  block : Nat
  code : Nat
  port : Option Nat := none
  dom : Option Nat := none
  addr : Nat := 0
  loc : Nat := 0
  synd : Nat := 0
  info : List Byte := []
deriving DecidableEq, Repr

/-- A corrected error waiting for the end of its coalescing window (R589). -/
structure Merging where
  e : ErrRec
  time : Nat
  gen : Nat
  count : Nat
deriving DecidableEq, Repr

/-- A domain's first-error record (R591). -/
structure FErr where
  addr : Nat := 0
  time : Nat := 0
  port : Nat := 0
  block : Nat := 0
  valid : Bool := false
  code : Nat := 0
  gen : Nat := 0
  count : Nat := 0
  seq : Nat := 0
deriving DecidableEq, Repr

/-- A domain's violation record (R341). -/
structure Viol where
  addr : Nat := 0
  time : Nat := 0
  source : Nat := 0
  kind : Nat := 0
  cause : Nat := 0
  access : Nat := 0
  valid : Bool := false
  gen : Nat := 0
  count : Nat := 0
  slot : Nat := 0
deriving DecidableEq, Repr

/-! ### Domains, Casements, interleave sets and mirror pairs (11) -/

/-- Domain states of R324. -/
inductive DomState where
  | free | active | disabled | resetting | destroying | frozen
deriving DecidableEq, Repr

/-- The code of `DOM_REC0.STATE`. -/
def DomState.code : DomState → Nat
  | .free => 0 | .active => 1 | .disabled => 2 | .resetting => 3 | .destroying => 4 | .frozen => 5

/-- `DOM_REC0.KIND`. -/
inductive DomKind where
  | d0 | host | func
deriving DecidableEq, Repr

/-- The code of `DOM_REC0.KIND`. -/
def DomKind.code : DomKind → Nat
  | .d0 => 0 | .host => 1 | .func => 2

/-- A valid Casement (R325): BASE and the size 2^k, ATTR, TARGET, OFFSET and COH_BASE. VALID is that the slot lists it
and OWNER that the domain's record does. -/
structure Casement where
  base : Nat
  k : Nat
  r : Bool
  w : Bool
  a : Bool
  spec : Bool
  coh : Bool
  hedge : Nat
  privOnly : Bool
  ilv : Bool
  mirror : Bool
  target : Nat
  offset : Nat
  cohBase : Nat
deriving DecidableEq, Repr

/-- A Casement record as SET_CASEMENT carries it (R325), fields as its 32 bytes spell them. -/
structure CasBody where
  base : Nat
  attr : Nat
  owner : Nat
  target : Nat
  offset : Nat
  cohBase : Nat
deriving DecidableEq, Repr

/-- A domain record (R324, R341, R348, R591). -/
structure DomRec where
  state : DomState := .free
  kind : DomKind := .host
  parent : Nat := 0
  qclass : Nat := 0
  cntAccess : Bool := false
  gen : Nat := 0
  vf : Option Nat := none
  ruleEpoch : Nat := 0
  viol : Viol := {}
  ferr : FErr := {}
  cas : SMap Casement := []
  /-- The running DOMAIN_RESET carried the DISABLE flag (R351). -/
  thenDisable : Bool := false
deriving DecidableEq, Repr

/-- A pooled port or LD as an interleave set or a mirror pair names it. -/
structure Member where
  port : Nat := 0
  ld : Nat := 0
  mld : Bool := false
  dpaBase : Nat := 0
deriving DecidableEq, Repr

/-- An interleave set (R332): WAYS and GRAN as `CSM_ILV_HDR` codes them. -/
structure IlvSet where
  ways : Nat := 0
  gran : Nat := 0
  members : SMap Member := []
deriving DecidableEq, Repr

/-- The state of a mirror member: `CSM_MIR_CTRL` codes them 0, 1, 2. -/
inductive MirState where
  | inSync | failed | resync
deriving DecidableEq, Repr

def MirState.code : MirState → Nat
  | .inSync => 0 | .failed => 1 | .resync => 2

/-- A mirror pair (R333); both members read as failed at reset. -/
structure MirPair where
  st0 : MirState := .failed
  st1 : MirState := .failed
  readSel : Bool := false
  m0 : Member := {}
  m1 : Member := {}
  size : Nat := 0
  cursor : Nat := 0
deriving DecidableEq, Repr

/-- The queue entry that a piece of work belongs to: the queue's domain, its queue number in that domain, the entry's
index. -/
structure EntryRef where
  dom : Nat
  q : Nat
  idx : Nat
deriving DecidableEq, Repr

/-- An accepted change that waits for its commit point (R343), in the order the switch started them. -/
inductive CasChange where
  /-- Slot of a domain takes a Casement, or is freed. -/
  | slot (dom slot : Nat) (new : Option Casement)
  /-- Every Casement of a destroyed domain is freed (R353). -/
  | freeAll (dom : Nat)
  /-- `DOM_FABRIC` of a fabric ID takes a domain, or none (R347). -/
  | fabric (fid : Nat) (dom : Option Nat)
  /-- Several slots of a domain change at one commit point (R598), for an HDM decoder that is uncommitted, where one is named. -/
  | slots (dom : Nat) (new : List (Nat × Option Casement)) (dec : Option Nat)
deriving DecidableEq, Repr

/-- A pending change, whether it takes coverage from a COH Casement and still waits for its walk (R346), and the queue
entry that it answers. -/
structure PendChange where
  change : CasChange
  needWalk : Bool
  /-- Lines that the walk of R346 evicts, once it has started. -/
  walk : Option (List Nat) := none
  entry : Option EntryRef
deriving DecidableEq, Repr

/-- A rule fence in progress (R347): who waits, and the epoch taken for each domain it names. -/
structure RuleFence where
  entry : Option EntryRef
  thread : Option Nat
  epochs : SMap Nat
  /-- The HDM decoder whose Committed waits for it (R598). -/
  hdm : Option Nat := none
deriving DecidableEq, Repr

/-- What an access asks for (R330). -/
structure Need where
  rd : Bool := false
  wr : Bool := false
  atomic : Bool := false
  caching : Bool := false
deriving DecidableEq, Repr

/-- Where an allowed access goes (R331): the device port, its LD, the DPA; the coherence address and hedgerow of a COH
Casement; SPEC; the mirror pair and member of a mirror target. -/
structure Xlat where
  port : Nat
  ld : Option Nat := none
  dpa : Nat
  coh : Option Nat := none
  hedge : Nat := 0
  spec : Bool := false
  pair : Option Nat := none
  member : Nat := 0
deriving DecidableEq, Repr

/-- The verdict of an access check (R339): allowed, with the translation of its first byte; or refused, with the first
disallowed byte, the CAUSE of R341 and the Casement slot matched. -/
inductive Verdict where
  | allow (x : Xlat)
  | refuse (addr cause slot : Nat)
deriving DecidableEq, Repr

/-- A register write of an interleave set or a mirror pair (R332, R356). -/
inductive CsmWrite where
  | ilvHdr (v : BitVec 32)
  | ilvMember (i : Fin 16) (v : BitVec 64)
  | mirMember (i : Fin 2) (v : BitVec 64)
  | mirSize (v : BitVec 64)
  | mirCursor (v : BitVec 64)
deriving DecidableEq, Repr

/-! ### Ports, hosts' view, FM API, IDE, slots of ports (06) -/

/-- What a port holds beyond its registers. -/
structure PortX where
  /-- The switch contained the port as port-fatal, and its link must not retrain on its own (R636). -/
  held : Bool := false
  /-- A port-down flush is running (R225): nothing is admitted from the port. -/
  flushing : Bool := false
  /-- A device is present (R193). -/
  present : Bool := false
  /-- The device is type-3 multi-logical with this many LDs (R179). -/
  lds : Nat := 0
  /-- IDE streams secure (R191). -/
  secure : Bool := false
  /-- Power good has been reached and PVPERL runs (R195). -/
  pvperl : Bool := false
  /-- The port requests power of its slot channel (R195, R548). -/
  powerReq : Bool := false
  /-- PERST# has been asserted for a power-off, and the channel follows at least 100 µs later (R195). -/
  offPending : Bool := false
  /-- The device is held in reset by Physical Port Control (R188). -/
  fmPerst : Bool := false
  /-- AER and CXL RAS records of the upstream switch port function (R199), oldest first. -/
  aer : List Nat := []
  /-- Viral_Status of the port function's CXL RAS capability (R585). -/
  viral : Bool := false
  /-- Service PF of an upstream port: NumVFs, and the VFs enabled by VF Enable (R176). -/
  numVfs : Nat := 0
  vfsOn : Nat := 0
  /-- The port status register of TF-256 mode shows the link up (R611). -/
  e7Up : Bool := false
  /-- `TF_IDENT_REVEAL.REVEAL` in effect for the switch functions of an upstream port (R602). -/
  revealed : Bool := false
deriving DecidableEq, Repr

/-- A binding of a port or LD (R178): the upstream port that heads the VCS, and the vPPB. -/
structure Bind where
  up : Nat
  vppb : Nat
deriving DecidableEq, Repr

/-- Slot status, DPC and AER of a vPPB (R195, R199, R200). -/
structure Vppb where
  attention : Bool := false
  powerOff : Bool := false
  powerFault : Bool := false
  presenceChanged : Bool := false
  dllChanged : Bool := false
  dpcEn : Bool := false
  dpcTrig : Bool := false
  aer : List Nat := []
deriving DecidableEq, Repr

/-- Where an FM API command came from (R187). -/
inductive FmSrc where
  | sb0 | mgmt | mailbox (up : Port)
deriving DecidableEq, Repr

/-- Unbind options of R190. -/
inductive UnbindOpt where
  | waitLinkDown | managedRemove | surpriseRemove
deriving DecidableEq, Repr

/-- A background operation of the FM API (R189). -/
inductive BgOp where
  | bind (port : Nat) (ld : Option Nat) (up vppb : Nat)
  | unbind (up vppb : Nat) (opt : UnbindOpt)
deriving DecidableEq, Repr

/-- FM API return codes of R188, R189. -/
inductive FmCode where
  | success | background | busy | unsupported | invalidInput
deriving DecidableEq, Repr

/-- The FM API agent. -/
structure Fm where
  bg : Option BgOp := none
  /-- A managed hot-remove that waits for Power Controller Control off or 10 s (R190). -/
  removing : Bool := false
  lastOp : Nat := 0
  lastCode : FmCode := .success
  /-- Response message limit in bytes (R188). -/
  limit : Nat := 8192
  /-- D0's event records, oldest first: BLOCK and CODE, and port. -/
  events : List (Nat × Nat × Nat) := []
deriving DecidableEq, Repr

/-! ### Requests, trackers, cells (01, 07) -/

/-- What a request asks for, as the flows of R246 name it. -/
inductive ReqKind where
  | readShared | readOwn | upgrade | ncRead | cleanEvict
  | ncWrite (full : Bool)
  /-- A write-back to I or to S. -/
  | writeBack (toS : Bool)
  | biConflict
  | memSpecRd
  /-- A CXL.cache message between a bound device and its host (R181). -/
  | cacheMsg (expectsData : Bool)
  | ioRead | ioWrite
  /-- An atomic of R310: its code, its size in bytes, its operands. -/
  | atomic (op size a b : Nat)
  /-- Any other M2S message to a shared line (R243). -/
  | otherM2S (expectsData : Bool)
deriving DecidableEq, Repr

/-- Where a request comes from (R16, R322). -/
inductive ReqSrc where
  | port (p : Nat)
  | fabric (p fid : Nat)
  /-- A copy channel, through the agent port of a tile (R432). -/
  | copy (chan tile : Nat)
  | thread (th : Nat)
  | queue (e : EntryRef)
  | hinge (e : EntryRef)
  | privet
deriving DecidableEq, Repr

/-- A request as it arrives: its address, bytes and data, its host tag, its virtual channel, whether its data carries
Poison, whether the host expects an NDR beside the DRS, the destination PBR ID, and whether it speaks Zitch. -/
structure Req where
  src : ReqSrc
  kind : ReqKind
  addr : Nat
  len : Nat := 64
  data : Nat := 0
  /-- Bytes of a partial write (R241). -/
  mask : Nat := 2 ^ 64 - 1
  poison : Bool := false
  tag : Nat := 0
  vc : Nat := 1
  bothRsp : Bool := false
  pbr : Option Nat := none
  zitch : Bool := false
  /-- Opcode as received; the egress port that the VCS decoders give; the LD-ID (R457). -/
  opcode : Nat := 0
  egress : Option Nat := none
  ldId : Nat := 0
  /-- VC2 messages that its port had received before it (R271). -/
  stamp : Nat := 0
deriving DecidableEq, Repr

/-- How a request is answered. -/
inductive Rsp where
  /-- Data, with Poison set or not; the coherence state it grants: 0 none, 1 S, 2 E or M. -/
  | data (v : Nat) (poison : Bool) (grant : Nat)
  /-- NDR Cmp, with the state it grants. -/
  | cmp (grant : Nat)
  | biConflictAck
  /-- CXL.io completion with Unsupported Request or Completer Abort status. -/
  | ur | ca
  /-- Zitch response with POISON set. -/
  | zPoison
deriving DecidableEq, Repr

/-- A message inside the switch: toward a device (a tracker entry's request) or toward a requester (its response). -/
structure Pkt where
  port : Nat
  vc : Nat
  tc : Nat
  slots : Nat
  /-- Port whose ingress buffer holds its slots, and their VC. -/
  srcPort : Nat
  srcVc : Nat
  /-- Posted stamp of R222, and whether the message is itself a posted request. -/
  stamp : Option Nat := none
  posted : Bool := false
  entry : Option Nat := none
  /-- For a request: what the device is asked, its target, its data, Poison, and whether it is a speculative read. -/
  kind : ReqKind := .ncRead
  dst : Option (Nat × Option Nat × Nat) := none
  data : Nat := 0
  mask : Nat := 2 ^ 64 - 1
  poison : Bool := false
  spec : Bool := false
  rsp : Option Rsp := none
  tag : Nat := 0
  /-- Colour of R377 (0 green, 1 yellow, 2 red), the Louvre entry whose bucket shapes it (R379), and the times of its
  tracker allocation and egress admission (R386). -/
  colour : Nat := 0
  shaped : Option Nat := none
  t0 : Nat := 0
  t1 : Nat := 0
deriving DecidableEq, Repr

/-- A cell of R210: sequence number, plane it last used, its message where it is the message's last cell. -/
structure Cell where
  seq : Nat
  plane : Nat
  srcPort : Nat
  srcVc : Nat
  slots : Nat
  last : Option Pkt := none
deriving DecidableEq, Repr

/-- The sending side of a (source tile, destination tile, traffic class) (R207, R214, R216). -/
structure Voq where
  q : List Pkt := []
  nextSeq : Nat := 0
  retained : List Cell := []
deriving DecidableEq, Repr

/-- A resequencing context (R214): E and the stored cells. -/
structure Reseq where
  e : Nat := 0
  stored : SMap (Option Pkt) := []
deriving DecidableEq, Repr

/-- A class record of R223: the class of the last message admitted, the number of that class's messages not yet
transmitted, and the messages that wait behind a change of class. -/
structure ClassRec where
  tc : Nat := 0
  untx : Nat := 0
  fence : List Pkt := []
deriving DecidableEq, Repr

/-- Where a tracker entry stands. -/
inductive TrkPhase where
  /-- Waits to present its Privet lookup (R385). -/
  | wantLookup
  /-- Lookup presented, not ended. -/
  | lookup
  /-- In Privet: it waits in its line's queue, or is its line's flow. -/
  | privet
  /-- Waits in its tile slice for a busy-line entry (R244). -/
  | wantBusy
  /-- Outstanding at its target. -/
  | atTarget
  /-- Answered; kept until its memory writes complete (R29, R245). -/
  | writing
  /-- Finished; kept until its discarded speculative read returns (R182, R303). -/
  | draining
deriving DecidableEq, Repr

/-- The gate of speculatively read data (R302 to R305). -/
inductive SpecGate where
  | none | closed | opened | discarded
deriving DecidableEq, Repr

/-- A tracker entry (R208, R212, R25): the request, its domain, generation and rule epoch, its quota class, its
translation and traffic class, its line buffer. -/
structure Trk where
  req : Req
  dom : Nat
  gen : Nat
  epoch : Nat
  qclass : Nat
  x : Xlat
  tc : Nat
  phase : TrkPhase
  /-- Order in which the tile's entries were taken, and the time. -/
  seq : Nat := 0
  t0 : Nat := 0
  nospec : Bool := false
  scavenger : Bool := false
  /-- The requester has its answer (R273, R581). -/
  answered : Bool := false
  /-- Its completion timer has fired; it is kept for late responses (R582). -/
  late : Bool := false
  /-- Its slots are in its port's ingress buffer, and no cell carries them yet (R206). -/
  held : Bool := false
  /-- Device tag of the speculative read, while it is outstanding (R182, R300). -/
  specTag : Option Nat := none
  /-- Ports at which a request of the entry is outstanding or on its way, one each, the speculative read apart. -/
  outs : List Nat := []
  /-- Responses of memory that the line buffer has not taken up yet, oldest first. -/
  arrived : List Rsp := []
  /-- Line buffer: data, and its Poison (R18). -/
  buf : Option (Nat × Bool) := none
  /-- The data in the buffer was synthesised by the switch (R225, R581), so that it grants no state. -/
  synth : Bool := false
  gate : SpecGate := .none
  /-- The read would have been speculated (R306); flow-start count and time at presentation (R301). -/
  eligible : Bool := false
  cnt0 : Nat := 0
  time0 : Nat := 0
  escalated : Bool := false
  losses : Nat := 0
  /-- The requester's port is down: the response is discarded (R225). -/
  orphan : Bool := false
  /-- Mirror: reissued to the other member already, with the member that returned poison, where one did (R225, R335). -/
  reissued : Bool := false
  badMember : Option Nat := none
  /-- A rule of removal carries this caching request out as non-caching (R346). -/
  demoted : Bool := false
deriving DecidableEq, Repr

/-- A request that has passed its route program and waits for a tracker entry (R208). -/
structure Waiting where
  req : Req
  dom : Nat
  epoch : Nat
  x : Xlat
  tc : Nat
  nospec : Bool := false
  scavenger : Bool := false
  /-- A caching request into a part whose coverage is being removed (R346). -/
  demoted : Bool := false
deriving DecidableEq, Repr

/-- What a CXL or PCIe link negotiates with (R172): the partner's highest rate code and width code (`TILE_PORT_STATUS.WIDTH`);
whether it speaks CXL, 256-byte flits (PCIe flit mode without CXL), the latency-optimised form; the CXL protocols; its LDs
where it is a multi-logical device; the link credits it advertises by VC. -/
structure LinkOffer where
  rate : Nat
  width : Nat
  cxl : Bool
  flit256 : Bool
  lowLat : Bool
  io : Bool := true
  mem : Bool := false
  cache : Bool := false
  lds : Nat := 0
  credits : List (Nat × Nat) := []
deriving DecidableEq, Repr

/-- How an internal agent's request ended: with a real response, at a lost device (R225), or at its completion timeout
(R581). -/
inductive EndWhy where
  | real | lost | timeout
  /-- Refused under R340, with CAUSE. -/
  | refused (cause : Nat)
deriving DecidableEq, Repr

/-- A finished request of an internal agent, waiting for the agent to take it up. -/
structure AgentDone where
  src : ReqSrc
  addr : Nat
  rsp : Rsp
  why : EndWhy
deriving DecidableEq, Repr

/-! ### Louvre (13) -/

/-- A Louvre entry (R374) with its buckets, in units of 1/8000 byte, as of a time, and its counts (R376, R379). -/
structure LvrEnt where
  dom : Nat
  port : Nat
  polEn : Bool
  aware : Bool
  shpEn : Bool
  cir : Nat
  pir : Nat
  cbs : Nat
  pbs : Nat
  shpRate : Nat
  shpBurst : Nat
  tc : Int
  tp : Int
  shp : Int
  last : Nat
  red : Nat := 0
  yellow : Nat := 0
deriving DecidableEq, Repr

/-- A sampler's histograms and values (R388). -/
structure Hist where
  dbin : SMap Nat := []
  qbin : SMap Nat := []
  dmax : Nat := 0
  dmaxTime : Nat := 0
  qmax : Nat := 0
  n : Nat := 0
  first : Nat := 0
  last : Nat := 0
deriving DecidableEq, Repr

/-- A sampler (R386 to R389): `LVR_SMP_CFG` and `LVR_SMP_TGT` as written, the live set and the snapshot. -/
structure Sampler where
  kind : Nat := 0
  k : Nat := 10
  dscale : Nat := 0
  qscale : Nat := 0
  target : Nat := 0
  live : Hist := {}
  snap : Hist := {}
  /-- The last sampling instant taken (R525). -/
  taken : Option Nat := none
deriving DecidableEq, Repr

/-! ### Privet (08 to 10) -/

/-- An entry of tier 1 or tier 2 (R254, R257): its line as hedgerow × 2^48 + coherence address [53:6], STATE (M or S),
PRESENCE, and AGE in tier 1. -/
structure PvtEnt where
  key : Nat
  m : Bool
  pres : Nat
  age : Nat := 0
deriving DecidableEq, Repr

/-- Where a snoop stands: it waits for a tenure (R278), it waits for the member's link (R289), it is outstanding. -/
inductive SnoopSt where
  | tenure | down | sent
deriving DecidableEq, Repr

/-- A snoop: BISnpInv or BISnpData. -/
structure Snoop where
  inv : Bool
  st : SnoopSt
deriving DecidableEq, Repr

/-- Who runs a line's flow: a tracker entry, or an eviction (R260). -/
inductive FlowBy where
  | entry (k : Nat) | evict
deriving DecidableEq, Repr

/-- A busy-line entry (R244): the line's flow and its queue. -/
structure Line where
  by_ : FlowBy
  /-- The flow runs: its row has been carried out. -/
  started : Bool := false
  /-- What the flow's request is carried out as (R237, R246). -/
  kind : ReqKind := .ncRead
  /-- Snoops awaited, by member; members that stay Shared by their answer (R246). -/
  snoops : SMap Snoop := []
  kept : Nat := 0
  /-- The line was found in M. -/
  wasM : Bool := false
  /-- The flow needs the line's data; a memory read is issued; the data it goes on with, and its Poison. -/
  needData : Bool := false
  reading : Bool := false
  data : Option (Nat × Bool) := none
  /-- The write-back whose data is the data of record (R274): the member and its tracker entry. -/
  wb : Option (Nat × Nat) := none
  /-- The flow waits for its own requester's write-back (R248). -/
  ownerWait : Bool := false
  /-- The snoops under way are those of a lost bucket, before the flow itself (R577). -/
  prelude_ : Bool := false
  /-- The response has been queued. -/
  done : Bool := false
  /-- The line's entry while it is in neither tier: taken out of tier 2, or waiting for a tier-1 way (R250, R255). -/
  held : Option PvtEnt := none
  /-- Atomic hold (R315): the line buffer stays with the first atomic's entry. -/
  hold : Bool := false
  /-- Requests waiting for the line, as tracker entries in arrival order (R244, R270). -/
  queue : List Nat := []
deriving DecidableEq, Repr

/-- A record of the change ring (R292). -/
inductive RingRec where
  | changed (set : Nat)
  | alloc (key : Nat)
  | victim (key : Nat)
deriving DecidableEq, Repr

/-- A snoop response that waits for earlier write-backs of its port (R271): hedgerow, member, line, whether it is BIRspS,
its stamp. -/
structure BiRsp where
  hr : Nat
  member : Nat
  key : Nat
  s : Bool
  stamp : Nat
deriving DecidableEq, Repr

/-- The counts of a domain's speculation window (R306). -/
structure SpecWin where
  eligible : Nat := 0
  conflicts : Nat := 0
deriving DecidableEq, Repr

/-- A member declared dead whose walk is under way (R285): whether the walk has passed every line. -/
structure DeadWalk where
  hr : Nat
  member : Nat
  passed : Bool := false
deriving DecidableEq, Repr

/-- A write to a mirror pair that waits for the cursor to pass its chunk (R336). -/
structure MirWait where
  key : Nat
  kind : ReqKind
  data : Nat
  mask : Nat
  poison : Bool
deriving DecidableEq, Repr

/-! ### Lanes (04) -/

/-- What a lane holds beyond its registers: the generator and the checker run (R116, R117); bits of an injection that is
still to land (R119). -/
structure LaneX where
  gen : Bool := false
  chk : Bool := false
  flip : Nat := 0
deriving DecidableEq, Repr

/-! ### The Zitch link and the die-to-die links (05) -/

/-- Ordered sets of R133. -/
inductive ZSetId where
  | zts1 | zts2 | zeq | zwc | zaln | zeos | zsds
deriving DecidableEq, Repr

/-- What an ordered set received on a port says (R133): the logical lanes on which it arrived without error, whether it
carries lane numbers, WIDTH, RATES, FEC_OFF_OK, EQ_DONE, the nonce. -/
structure ZSet where
  lanes : Nat := 0xFFFF
  numbered : Bool := false
  width : Nat := 4
  rates : Nat := 15
  fecOffOk : Bool := false
  eqDone : Bool := false
  nonce : Nat := 0
deriving DecidableEq, Repr

/-- A message of a received flit (R141): its VC, LEN and opcode. -/
structure ZMsgHdr where
  vc : Nat
  len : Nat
  opcode : Nat
deriving DecidableEq, Repr

/-- A received flit that passed FEC and CRC (R135, R136): SEQ, ACK, TYPE, credit pairs, the messages of its slots. -/
structure ZFlit where
  seq : Nat
  ack : Nat
  typ : Nat
  credits : List (Nat × Nat) := []
  msgs : List ZMsgHdr := []
deriving DecidableEq, Repr

/-- One VC of an audit record (R151). -/
structure ZAuditVc where
  sent : Nat
  retRcvd : Nat
  avail : Nat
  accepted : Nat
  consumed : Nat
  occupied : Nat
  init : Nat
deriving DecidableEq, Repr

/-- Why a port asks for a link operation (R153, R157, R164, R166). -/
inductive ZCause where
  | software | audit | degrade | narrow | power
deriving DecidableEq, Repr

/-- A link operation (R155): 1 full retrain, 2 width change, 3 Z.LP entry. -/
structure ZOp where
  kind : Nat
  mask : Nat := 0
  cause : ZCause := .software
deriving DecidableEq, Repr

/-- What a drain leads to (R156, R166). -/
inductive ZDrain where
  | retrain | lp | disable
deriving DecidableEq, Repr

/-- A Zitch port beyond its registers. -/
structure Zx where
  /-- Consecutive training sets received, ZTS1 with lane numbers, ZTS2 received and sent in the running state. -/
  rx : Nat := 0
  numbered : Nat := 0
  rx2 : Nat := 0
  tx2 : Nat := 0
  /-- What the partner's sets offered last; lanes that arrived. -/
  partner : ZSet := {}
  /-- Rates marked unusable until the next Z.DETECT; logical lanes marked failed until the next full training. -/
  badRates : Nat := 0
  failed : Nat := 0
  /-- The rate under Z.EQ. -/
  eqRate : Nat := 0
  /-- Flits of the partner are taken (after its ZSDS). -/
  rxOn : Bool := false
  /-- The training under way is a full one, and not a recovery retrain. -/
  full : Bool := true
  /-- Sequenced flits: the next to send, the next expected, those not acknowledged (R143, R144). -/
  txSeq : Nat := 0
  next : Nat := 0
  buf : List (Nat × Nat) := []
  /-- Sequenced flits are discarded until NEXT arrives (R145); failed flits in a row (R149). -/
  discarding : Bool := false
  fails : Nat := 0
  /-- The flit at which the last replay started, and how many in a row started there (R147). -/
  replayAt : Option Nat := none
  replays : Nat := 0
  /-- Per VC: credits returned to this end as last seen modulo 8,192; slots sent, returned to this end, accepted, consumed,
  advertised as initial (R149 to R151). -/
  lastCount : SMap Nat := []
  sent : SMap Nat := []
  retRcvd : SMap Nat := []
  accepted : SMap Nat := []
  init : SMap Nat := []
  audits : Nat := 0
  /-- The partner's initial credits have been received (R150). -/
  initSeen : Bool := false
  /-- Own request not answered yet; requests that wait (R153); a request abandoned to the leader (R157). -/
  op : Option ZOp := none
  waiting : List ZOp := []
  abandoned : Option ZOp := none
  /-- The operation under way, and the drain it waits for. -/
  doing : Option ZOp := none
  drain : Option ZDrain := none
  /-- ZALN received in the running operation. -/
  aligned : Nat := 0
  /-- A full retrain is scheduled for the next quiet point (R152). -/
  scheduled : Bool := false
deriving DecidableEq, Repr

/-- What a Zitch port sends beside messages: an ordered set, a sequenced flit by its TYPE and SEQ, a NAK with its ACK, the
flits of a replay, a link-operation message (R133, R136, R146, R155). -/
inductive ZOut where
  | set (id : ZSetId)
  | flit (typ seq : Nat)
  | nak (ack : Nat)
  | replay (seqs : List Nat)
  | ctrl (msg kind mask : Nat)
  | audit (no : Nat) (vcs : List ZAuditVc)
deriving DecidableEq, Repr

/-- A D2D module (R159 to R163): errors of each lane in the running window, lanes retired, whether a spare still proves
itself; the next unit expected, the units not acknowledged; whether it discards until a replay. -/
structure D2d where
  errs : SMap Nat := []
  retired : List Nat := []
  switching : Bool := false
  txUnit : Nat := 0
  unacked : Nat := 0
  discarding : Bool := false
deriving DecidableEq, Repr

/-! ### Slot power and ORing (19) -/

/-- A slot channel beyond its registers. Energies are in picojoules, the i²t accumulator in units of 10^-8 A²·ms. -/
structure SlotX where
  /-- Samples since the fault timer started; samples in a row with LIMITING clear (R537). -/
  timer : Nat := 0
  clear : Nat := 0
  /-- i²t accumulator (R534). -/
  i2t : Nat := 0
  /-- Energy delivered below one microjoule; energy of the insertion under way, from the start of its ramp to power good
  (R543); fault energy (R544). -/
  frac : Nat := 0
  ins : Option Nat := none
  fault : Nat := 0
  /-- The last sample of the running qualification interval met both conditions of R540. -/
  qual : Bool := false
deriving DecidableEq, Repr

/-- A feed beyond its registers: its VIN has been valid for 1 ms since it was last off (R549); its energy below one
microjoule. -/
structure FeedX where
  ready : Bool := false
  frac : Nat := 0
deriving DecidableEq, Repr

/-- One sample of R528: a channel's (the current that its load would draw without a limit, in 10 mA; VOUT and the bus in
mV), or a feed's (current in 10 mA; VIN and the bus in mV). -/
inductive PowerSample where
  | chan (c : Chan) (want vout bus : Nat)
  | feed (b : Bool) (i vin bus : Nat)
deriving DecidableEq, Repr

/-! ### Route programs (16) -/

/-- Who executes a Briop instruction: a sequencer thread, or the route pipe that holds the oldest request of a port. -/
inductive Who where
  | thread (th : Thr)
  | pipe (p : Port)
deriving DecidableEq, Repr

/-- The route word (R459). -/
structure RouteWord where
  port : Nat
  tc : Nat
  action : Nat
deriving DecidableEq, Repr

/-- A request in a route pipe (R456 to R459): its domain, its program (none: the default program), the next instruction,
registers, predicates; XLATE's verdict; what HDR set. -/
structure Pipe where
  req : Req
  dom : Option Nat
  prog : List (BitVec 32) := []
  pc : Nat := 0
  g : SMap Word := []
  pred : Nat := 0
  xl : Option Verdict := none
  /-- Rule epoch of its domain at XLATE (R344). -/
  epoch : Nat := 0
  pbr : Option Nat := none
  nospec : Bool := false
  scav : Bool := false
  /-- TB_NS at link receipt (R457). -/
  time : Nat := 0
deriving DecidableEq, Repr

/-! ### Work queues (14) -/

/-- A CQ entry before its PHASE is set (R407), and the generation of its domain when it was written (R350). -/
structure CqEnt where
  tag : Nat
  status : Nat
  sub : Nat
  sqHead : Nat
  gen : Nat
  sqId : Nat
deriving DecidableEq, Repr

/-- How an entry ended (R406): STATUS, SUB, RESULT, and what its opcode writes into its body, by offset in the entry. -/
structure EntRes where
  status : Nat := 0
  sub : Nat := 0
  result : Nat := 0
  writes : List (Nat × List Byte) := []
deriving DecidableEq, Repr

/-- What reads of one SQ's queue memory return while a command is carried out (R394): the tail shadow, read by read, and
the entries at the fetch point onward, each whole; none is a read that fails (R395). -/
structure QMem where
  tails : List (Option Nat) := []
  entries : List (Option (List Byte)) := []
deriving DecidableEq, Repr

/-- What an entry's operation still has to do. -/
inductive Work where
  /-- Started; its opcode's row has not been carried out. -/
  | fresh
  /-- The copy engine, a thread, a rule change or a rule fence works on it. -/
  | busy
  /-- ATOMIC: the next element, the CAS elements that succeeded, whether an element is outstanding, old values (R419). -/
  | atomic (next cas : Nat) (asked : Bool) (olds : List (Nat × List Byte))
  /-- DESTROY_SQ, or RESET_QUEUE of an SQ with its new index, and the first unstarted index (R423). -/
  | stopSq (dom q : Nat) (reset : Option Nat) (first : Nat)
  /-- RESET_QUEUE of a CQ, with its new index (R423). -/
  | stopCq (dom q index : Nat)
  /-- DOMAIN_RESET or DOMAIN_DESTROY (R351, R353). -/
  | domain (dom : Nat) (destroy : Bool)
  /-- HINGE_FREEZE (R361). -/
  | freeze (dom : Nat)
  /-- HINGE_SAVE: the image's address and size; the write of FLAGS with VALID 1 has been issued (R367). -/
  | save (dom addr size : Nat) (flag : Bool)
  | finished (r : EntRes)
deriving DecidableEq, Repr

/-- An entry in the entry cache (R403): its free-running index, its bytes, its domain's generation at the fetch. -/
structure Cached where
  idx : Nat
  bytes : List Byte
  gen : Nat
deriving DecidableEq, Repr

/-- A started entry (R401) until HEAD has passed it. -/
structure Run where
  idx : Nat
  bytes : List Byte
  gen : Nat
  work : Work := .fresh
  /-- It will post to the CQ that its SQ is bound to (R408, R412). -/
  posts : Bool
  /-- Its completion has been written in place. -/
  done : Bool := false
  /-- Its SQ has been reset under it, so that HEAD does not follow it. -/
  detached : Bool := false
deriving DecidableEq, Repr

/-- A submission queue (R391 to R404). Indices are free-running counts of 32-byte units modulo 2^32. -/
structure Sq where
  /-- Device-wide number (R391). -/
  num : Nat
  log2 : Nat
  ring : Nat
  tailSh : Nat
  headSh : Nat
  cq : Option Nat
  fetch : Nat := 0
  head : Nat := 0
  /-- A scan waits for room in the entry cache: the tail that it read (R400). -/
  scan : Option Nat := none
  rescan : Bool := false
  cache : List Cached := []
  run : List Run := []
  error : Bool := false
  errSub : Nat := 0
  errIndex : Nat := 0
  pendingDb : Bool := false
  invalIgnored : Bool := false
  /-- It is being destroyed or reset (R423). -/
  closing : Bool := false
  /-- Tails that doorbells covered, with the times of the doorbells (R386, KIND 5). -/
  bells : List (Nat × Nat) := []
deriving DecidableEq, Repr

/-- A completion queue (R407 to R412). -/
structure Cq where
  num : Nat
  log2 : Nat
  ring : Nat
  headSh : Nat
  irq : Bool
  coalN : Nat
  coalT : Nat
  /-- Index of the next entry in the ring; HEAD as last read; the time of the last reread of a CQ that seemed full. -/
  idx : Nat := 0
  head : Nat := 0
  reread : Option Nat := none
  /-- The overflow area, oldest first (R412). -/
  ovf : List CqEnt := []
  overflow : Bool := false
  /-- Entries posted since the last message (R409). -/
  since : Nat := 0
  error : Bool := false
  /-- A RESET_QUEUE holds its bound SQs (R423). -/
  held : Bool := false
deriving DecidableEq, Repr

/-- The admin registers of a domain's queue interface (R425). -/
structure QIface where
  sqBase : Nat := 0
  cqBase : Nat := 0
  sqTsh : Nat := 0
  sqHsh : Nat := 0
  cqHsh : Nat := 0
  /-- `WQ_ADM_CFG`. -/
  cfg : Nat := 0x2C0C
  ready : Bool := false
  cfgErr : Bool := false
  inval : Nat := 0
  /-- ENABLE was cleared: every queue of the domain is being destroyed. -/
  closing : Bool := false
deriving DecidableEq, Repr

/-! ### Copy engine (15) -/

/-- A chunk in flight (R428, R432): its offset in the destination range, its length; its lines read, by offset, with
Poison; reads and writes not completed; whether its writes have been issued. -/
structure Chunk where
  off : Nat
  len : Nat
  lines : SMap (Nat × Bool) := []
  lines2 : SMap (Nat × Bool) := []
  reading : Nat := 0
  writing : Nat := 0
  written : Bool := false
  /-- A request of it was refused or lost: it is not written, or its bytes do not count. -/
  bad : Bool := false
  /-- Ports that the chunk's requests go to (R384). -/
  ports : List Nat := []
deriving DecidableEq, Repr

/-- The part of a range within one Casement, or within the default map where it names none (R431). -/
structure CopyPiece where
  start : Nat
  len : Nat
  cas : Option Casement
deriving DecidableEq, Repr

/-- What ends a descriptor early (R438). -/
inductive CopyEnd where
  | refused | lost | differs (off : Nat) | generation
deriving DecidableEq, Repr

/-- A copy channel with its descriptor (R426, R427). -/
structure CopyChan where
  entry : EntryRef
  sq : Nat
  gen : Nat
  /-- 0 COPY, 1 FILL, 2 VERIFY. -/
  kind : Nat := 0
  a : Nat := 0
  b : Nat := 0
  len : Nat := 0
  dflags : Nat := 0
  pattern : Nat := 0
  /-- The descriptor has been taken up; its up-front checks run (R431); they have passed. -/
  loaded : Bool := false
  checking : Bool := false
  active : Bool := false
  /-- 0 ascending, 1 descending, 2 verify pass (R434); chunks of the descriptor overlap. -/
  order : Nat := 0
  overlap : Bool := false
  /-- The pieces of both ranges as the checks found them (R438). -/
  piecesA : List CopyPiece := []
  piecesB : List CopyPiece := []
  /-- Bytes of the range, in processing order, whose chunks have been issued. -/
  issued : Nat := 0
  flight : List Chunk := []
  /-- Completed chunks: offset to length; bytes in them (`CPE_CH_DONE`). -/
  completed : SMap Nat := []
  done : Nat := 0
  /-- CRC of each completed chunk by offset (R437). -/
  crcs : SMap Nat := []
  /-- Offset of the lowest poisoned line (R439). -/
  poison : Option Nat := none
  ending : Option CopyEnd := none
deriving DecidableEq, Repr

/-! ### Sequencer (16, 17) -/

/-- A trap record (R469). -/
structure TrapRec where
  addr : Nat := 0
  time : Nat := 0
  pc : Nat := 0
  instr : Nat := 0
  cause : Nat := 0
  thread : Nat := 0
  dom : Nat := 0
  gen : Nat := 0
  space : Nat := 0
  manager : Bool := false
  valid : Bool := false
deriving DecidableEq, Repr

/-- How an FM access fails on completion (R468, causes 7 to 9). -/
inductive FmFail where
  | poison | lost | timeout
deriving DecidableEq, Repr

/-- What holds a thread (R483): a DM or FM access, a fence, HALT, a WAIT. -/
inductive Hold where
  /-- LD of n bytes from DM or FM into Gd. -/
  | ld (fm : Bool) (rd n addr : Nat)
  /-- FLD of n bytes into local scratch. -/
  | fld (fm : Bool) (ls n addr : Nat)
  | fat (rd size addr : Nat)
  /-- FENCE MEM, or ALL with the rule fence still to come (its domain, none for all). -/
  | fence (next : Option (Option Nat))
  /-- The rule fence of CFENCE or FENCE ALL. -/
  | rule
  | halt
  | wait (mask rd : Nat)
deriving DecidableEq, Repr

/-- A message of an inbox (R467, R501): two values, the sender's number, whether it ran in manager mode. -/
structure BMsg where
  a : Word
  b : Word
  sender : Nat
  mgr : Bool
deriving DecidableEq, Repr

/-- A sequencer thread that is assigned or runs (R444, R446, R449). -/
structure Thread where
  manager : Bool
  /-- The tenant's domain, and its domain's generation at RUN; D0 for a manager thread. -/
  dom : Nat := 0
  gen : Nat := 0
  local_ : Nat := 0
  entry : Option EntryRef := none
  /-- The window is loaded and the thread runs. -/
  running : Bool := false
  g : SMap Word := []
  /-- Bit n holds Pn for n from 1 to 7. -/
  pred : Nat := 0
  pc : Nat := 0
  origin : Nat := 0
  /-- Window: its first byte in the core's scratch and its size in bytes; the whole scratch in manager mode. -/
  base : Nat := 0
  win : Nat := 0
  /-- SCRATCH of the RUN entry, in KiB. -/
  scratch : Nat := 0
  hold : Option Hold := none
  /-- Finished FM accesses of the held instruction. -/
  got : List AgentDone := []
  inbox : List BMsg := []
  tvec : Nat := 0
  /-- `SELF_TIMER` as written, and the time of the write. -/
  timer : Nat := 0
  timerAt : Nat := 0
  selfDom : Nat := 0
  trec : TrapRec := {}
  /-- Run time before the thread was placed, and the time of its placing (R472). -/
  runNs : Nat := 0
  since : Nat := 0
  /-- CQ of the last QFETCH: domain × 64 + ID. -/
  watch : Option Nat := none
  /-- FM writes outstanding, by address; writes that failed since the last report: address and cause (R484, R488). -/
  outW : List Nat := []
  fails : List (Nat × Nat) := []
  pps : Bool := false
deriving DecidableEq, Repr

/-- A frozen thread, whose context stands in its domain's DM slice (R472): its RUN entry and whether it waits to be placed
again. -/
structure FrozenThr where
  entry : Option EntryRef
  gen : Nat
  resume : Bool := false
deriving DecidableEq, Repr

/-- `SEQ_DOM_DM`, `SEQ_DOM_RUN` and `SEQ_DOM_TRAPS` of a domain (R453, R446, R469); BASE and SIZE in MiB. -/
structure SeqDom where
  base : Nat := 0
  size : Nat := 0
  maxThreads : Nat := 8
  runLimit : Nat := 0
  traps : Nat := 0
deriving DecidableEq, Repr

/-- How a thread comes to run: its RUN entry's window is loaded (R447); a saved thread of a domain is placed again (R472);
the manager firmware starts it on a manager core at a PC, with register values and with bytes that it put into the core's
scratch (R445). -/
inductive StartBy where
  | run (d : Dom) (q : Fin 64) (idx : BitVec 32)
  | thaw (d : Dom) (ix : Fin 64)
  | firmware (th : Thr) (pc : Fin 1048576) (g : List (Nat × Word)) (ls : List (Nat × List Byte))
deriving DecidableEq, Repr

/-! ### Hinge (12) -/

/-- A Hinge operation that runs on a domain (R358): 1 freeze, 2 save, 3 restore, 4 thaw; what the freeze still has to do. -/
structure HingeOp where
  op : Nat
  draining : Bool := false
  /-- Hedgerow and member that the sweep names. -/
  sweep : Option (Nat × Nat) := none
  sweeping : Bool := false
  /-- Requests that the completion timeout ended, lines swept (R361). -/
  timeouts : Nat := 0
  lines : Nat := 0
  /-- Lines of the sweep, once it has passed the tiers. -/
  todo : Option (List Nat) := none
deriving DecidableEq, Repr


/-! ### TF-256 mode (22) -/

/-- An HDM decoder as a host commits it (R598): range, interleave ways as `CSM_ILV_HDR` codes them (0 none) and granularity, the TF-256 ports
and LDs that it names, the DPA at its base. -/
structure HdmBody where
  base : Nat
  size : Nat
  ways : Nat := 0
  gran : Nat := 0
  targets : List (Nat × Option Nat)
  dpa : Nat := 0
deriving DecidableEq, Repr

/-- What a decoder of a VCS holds once its host has set Commit: the Casements and the interleave set that cover it, Error Not Committed, and
whether its Commit has been cleared. -/
structure HdmDec where
  slots : List Nat := []
  set : Option Nat := none
  err : Bool := false
  clearing : Bool := false
deriving DecidableEq, Repr

/-- An event that a programmable counter of a personality selects (R606), by its class. -/
inductive TfEvent where
  | rx (k : Fin 32) | tx (k : Fin 32) | stall (k : Fin 32) | replay (k : Fin 32)
  | routed (v : Fin 16) | timeouts (v : Fin 16)
  /-- Crossbar arbitration stalls. -/
  | xbar
  | none
deriving DecidableEq, Repr

/-- A programmable counter of a personality: its event, what its native source had counted when it was last read out, EN, its value, its
OVF. -/
structure TfCnt where
  sel : TfEvent := .none
  seen : Nat := 0
  en : Bool := false
  count : Nat := 0
  ovf : Bool := false
deriving DecidableEq, Repr

/-- The counters of a personality (R606): the cycle counter and CYC_EN, the programmable counters, CHAIN, FREEZE. -/
structure TfCtr where
  cyc : Nat := 0
  cycEn : Bool := true
  cnt : SMap TfCnt := []
  chain : Nat := 0
  freeze : Bool := false
deriving DecidableEq, Repr

/-- A firmware-assisted access of a TF-256 BAR0 (R603), as the manager firmware carries it out: a sensor, an access of a register of TF-256
lane l by its LANE_ offset, error injection or the test region. -/
inductive FwaOp where
  | sensor
  | lane (l : Fin 256) (off : Fin 2048) (write : Option (BitVec 32))
  | other (write : Bool)
deriving DecidableEq, Repr

/-! ### Power states (20) -/

/-- The DORMANT entry and the wake (R562 to R570): the commit point has been passed; its 80 ns window runs; wake sources that have been taken,
one bit each. -/
structure PowerX where
  committed : Bool := false
  window : Bool := false
  pend : Nat := 0
deriving DecidableEq, Repr

/-! ### Faults of the switch's own memories (21) -/

/-- What an error record is about, where its code does something to it (R584, R590): a tracker entry, a chunk of a copy channel, an entry in a
CQ's overflow area. -/
inductive FaultAt where
  | nothing
  | entry (key : Nat)
  | chunk (ch off : Nat)
  | cqEntry (dom cq i : Nat)
deriving DecidableEq, Repr

/-- What the patrol scrub reads (R578): a tier-2 bucket, or a 64-byte line of local DDR5 elsewhere. -/
inductive ScrubAt where
  | bucket (b : Nat)
  | line (ch : Fin 8) (l : Nat)
deriving DecidableEq, Repr

/-- What a scrubbed location holds: good data, an error that the ECC corrects, or more. -/
inductive ScrubFind where
  | good | corrected | uncorrectable
deriving DecidableEq, Repr

/-- What is reloaded from its copy (R579). -/
inductive ReloadKind where
  | casement | domain | ilvSet | mirPair | louvre | table | program
deriving DecidableEq, Repr

/-! ### Register access (04, 23) -/

/-- A source of register accesses, with a latch of its own (R125): a function of the management endpoint, a sequencer thread, or the
accesses over MCTP taken together. -/
inductive BarSrc where
  | fn (f : Fin 8)
  | thread (th : Thr)
  | mctp
deriving DecidableEq, Repr

/-- What a source's accesses have latched or held: the high dword of a 64-bit register, with the register's offset (R125); a record of four
words, with its first register's offset (R356); `TB_FRAC` (R519); low dwords written and held, by block, with
their registers' offsets (R617). -/
structure SrcLatch where
  high : Option (Nat × Nat) := none
  recd : Option (Nat × List Nat) := none
  frac : Option Nat := none
  held : SMap (Nat × Nat) := []
deriving DecidableEq, Repr

/-- A write of a personality's counter registers (R606): what the TF-256's layout makes of it. -/
inductive TfCtrWrite where
  | cycle (v : Word)
  | count (n : Fin 8) (v : BitVec 32)
  | select (n : Fin 8) (e : TfEvent)
  | enable (mask : BitVec 8)
  | control (chain : BitVec 4) (freeze cycEn : Bool)
  | clearOvf (mask : BitVec 8)
deriving DecidableEq, Repr

/-- Where a register access goes: BAR0 of the management endpoint, from a source; the BAR of a service function (R630), the port of a PF or
1024 + VF. -/
inductive BarAt where
  | bar0 (src : BarSrc) (off : Fin 268435456)
  | fn (f : Fin 5119) (off : Fin 65536)
deriving DecidableEq, Repr

/-- What a register write is addressed to: a register, or the counter registers of a personality (R606). -/
inductive BarTgt where
  | reg (a : BarAt)
  | tf (p : Fin 4) (w : TfCtrWrite)
deriving DecidableEq, Repr

/-! ### What the block sends -/

/-- Something the block sent on a link, a bus or a pin while it carried out a command. -/
inductive Msg where
  /-- MSI-X vector of the management endpoint (R627). -/
  | msix (v : Nat)
  /-- MSI-X vector of a service function (R409): the port of a service PF, or 1024 + VF; 5120 is the management endpoint,
  for D0. -/
  | fnMsix (fn v : Nat)
  /-- A posted write of the function that owns a domain's queues, to queue memory (R394, R406). -/
  | qWrite (dom addr : Nat) (bytes : List Byte)
  /-- What a BAR0 read returns to its source (R616); Completer Abort for a read that is too long (R618). -/
  | barData (src : BarSrc) (value : Word)
  | barAbort (src : BarSrc)
  /-- What a read of a service function's BAR returns (R630). -/
  | fnData (f : Nat) (value : Word)
  /-- An MCTP register response (R629): CMD, CODE, TAG, OFFSET, DATA. -/
  | mctp (cmd code tag off data : Nat)
  /-- Configuration Request Retry Status for a configuration request (R73). -/
  | crs (port tag : Nat)
  /-- Device Readiness Status on an upstream port (R73). -/
  | drs (port : Nat)
  /-- A PLDM response: command name's number in R97's order, completion code, and values (R97). -/
  | pldm (cmd : Nat) (ok : Bool) (vals : List Nat)
  /-- A request transmitted to a device: its port and LD, device tag, kind, DPA, length, data and Poison (R182). -/
  | devReq (port : Nat) (ld : Option Nat) (tag : Nat) (kind : ReqKind) (dpa len data mask : Nat) (poison : Bool)
  /-- A back-invalidate snoop: hedgerow, member, HPA, BISnpInv or BISnpData (R241, R236). -/
  | biSnp (hr member hpa : Nat) (inv : Bool)
  /-- A poison write of a lost line to a device (R286). -/
  | poisonWrite (port : Nat) (ld : Option Nat) (dpa : Nat)
  /-- A response transmitted to a requester on a port: host tag, response, DevLoad (R383). -/
  | hostRsp (port tag : Nat) (r : Rsp) (load : Nat)
  /-- A partner's coefficient request rejected on a lane (R114). -/
  | coefReject (lane : Nat)
  /-- Viral signalled on an upstream port's link (R585). -/
  | viral (port : Nat)
  /-- What a Zitch port's link layer sends. -/
  | zitch (port : Nat) (x : ZOut)
  /-- A D2D module's NAK or replay (R161): tile, module, whether it is the replay. -/
  | d2d (tile module : Nat) (replay : Bool)
  /-- An FM API response: opcode, return code, values (R188). -/
  | fm (src : FmSrc) (op : Nat) (code : FmCode) (vals : List Nat)
  /-- A configuration, memory or management request that the FM API sends to a device (R188): opcode, port, LD, payload. -/
  | fmDevice (op port : Nat) (ld : Option Nat) (payload : List Byte)
  /-- An IDE_KM response: port, and whether K_SET_GO succeeded (R191). -/
  | ide (port : Nat) (ok : Bool)
  /-- A request handed to the manager firmware by ACTION 1 (R459). -/
  | firmware (port addr data : Nat)
  /-- Good data written to the mirror member that returned poison (R335). -/
  | repairWrite (port : Nat) (ld : Option Nat) (dpa data : Nat)
  /-- Link credits returned to a partner for slots that left the ingress buffer (R206). -/
  | credit (port vc slots : Nat)
  /-- A resequencing NAK that names E (R215), and a retransmitted cell with its plane. -/
  | reseqNak (dst src tc e : Nat)
  /-- Completion of a TF-256 BAR0 access of a personality (R603), and the link-up interrupt of one of its ports (R611). -/
  | tfDone (p : Nat) (value : Nat)
  | tfLinkUp (port : Nat)
  | cellAgain (src dst tc seq plane : Nat)
deriving DecidableEq, Repr

end Sys2Proof.Machine
end

