-- ==== Sys2Proof/Syntax.lean ====
section
/-! DEFINITION. Sys2Proof/Syntax.lean: the commands and events of the block, one constructor per row of
spec/opcode_table.json, in the table's order. The table gives no row any bits, so no operand is a bit field: an operand
is what the row's rule says the event brings with it (a port, a written value, a received message). -/
namespace Sys2Proof
open Machine

/-- One command or event of the block: one constructor per row of the table. -/
inductive Instr where
  /-- VAUX_POWER_ON (R634): VAUX rises after falling below 2.0 V; this starts a cold reset and returns the fields defined at VAUX power-on to their reset values. -/
  | vauxPowerOn
  /-- AUX_RESET_N_ASSERT (R51): AUX_RESET_N goes low (after the glitch filter): a cold reset that holds every enable, PORT_PERST_N and slot channel off. -/
  | auxResetNAssert
  /-- SUPPLY_UNDERVOLTAGE (R40): VAUX below 2.95 V or V1P8 below 1.65 V for 4 AON cycles causes a cold reset with cause 0x0F. -/
  | supplyUndervoltage
  /-- AUX_GOOD (R39): VAUX, V1P8 and AUX_RESET_N have held good for 1 ms; stage W begins. -/
  | auxGood
  /-- BOOT_SLOT_CHOICE (R81): The switch chooses a boot slot from the pointer record, the ATTEMPTS count and the BAD bits, and starts verifying it. -/
  | bootSlotChoice
  /-- SLOT_VERIFY_DONE (R79): Header verification of a slot completes; the slot is then either taken or skipped for the other slot. -/
  | slotVerifyDone
  /-- SYS_PWRGD_WAIT_TIMEOUT (R70): The image has verified but SYS_PWRGD has stayed low for 1 s; HALT_CODE is set to 6. -/
  | sysPwrgdWaitTimeout
  /-- UPSTREAM_PERST_RELEASE (R69): Stage C starts at the first AON cycle in which a header has verified and SYS_PWRGD and WARM_RESET_N are high. -/
  | upstreamPerstRelease
  /-- MGMT_ENDPOINT_RETRAIN (R71): After 1 ms in Detect at stage-C start, the management endpoint retrains at up to Gen5 with Device ID 0x0A10. -/
  | mgmtEndpointRetrain
  /-- ENABLE_ASSERT (R43): The switch asserts a rail enable once its power-good input has been low for 10 ms and the order allows it. -/
  | enableAssert (r : Rail)
  /-- POWER_GOOD_RISE (R41): A rail power-good input rises; the stage-C or wake sequence moves to its next step. -/
  | powerGoodRise (r : Rail)
  /-- POWER_GOOD_DEADLINE_MISS (R72): A power-good input misses its deadline; the enables are deasserted in reverse order and the start halts in stage W. -/
  | powerGoodDeadlineMiss (r : Rail)
  /-- RAIL_POWER_GOOD_LOSS (R45): VCORE_PG, VLANE_PG or VDDQ_PG stays low while its enable is asserted; this causes a disorderly core reset, and DDR5 contents are lost on a VDDQ loss. -/
  | railPowerGoodLoss (r : Rail)
  /-- SYS_PWRGD_LOSS (R46): SYS_PWRGD stays low while VCORE_EN is asserted; this acts as a VCORE_PG loss and turns every slot channel off within 1 µs. -/
  | sysPwrgdLoss
  /-- CORE_PLL_LOCK (R72): The core PLL locks and SQC0/SQC1 are released into the boot ROM in lockstep. -/
  | corePllLock
  /-- LOADER_VERIFIED (R72): The stage-C loader section has been verified and is running. -/
  | loaderVerified
  /-- SECTION_LOADED (R83): The boot ROM or loader finishes loading one section and checks its digest before using it. -/
  | sectionLoaded (i : Nat)
  /-- DDR5_TRAINING_DONE (R84): A DDR5 channel finishes cache-loaded or full training; a new training-cache copy is written after full training. -/
  | ddr5TrainingDone (ch : Fin 8) (id : DimmId) (marginOk fullOk : Bool)
  /-- STAGE_F_REACHED (R74): mems: what the scans of the SQs read, by domain × 64 + SQ. -/
  | stageFReached (mems : List (Nat × QMem))
  /-- BOOT_WATCHDOG (R74): Stage F has not been reached 10 s after the upstream PERST release; a disorderly core reset follows and ATTEMPTS is incremented. -/
  | bootWatchdog
  /-- CONFIG_REQUEST_RETRY (R73): A configuration request received before stage F completes with Configuration Request Retry Status. -/
  | configRequestRetry (p : Port) (tag : Nat)
  /-- WARM_RESET_N_FALL (R87): WARM_RESET_N falls; this is an orderly core reset in stage F, a disorderly one in stage C, DORMANT or WAKING, and otherwise only holds stage C back. -/
  | warmResetNFall
  /-- ORDERLY_CORE_RESET (R89): Credits are withheld, trackers drain, tier 1 is flushed, state is written to DDR5, DDR5 enters self-refresh and the dies reset. -/
  | orderlyCoreReset
  /-- ORDERLY_DRAIN_TIMEOUT (R89): After 10 ms of draining, the remaining tracker entries are flushed as for a port-down flush. -/
  | orderlyDrainTimeout
  /-- ORDERLY_RESET_DEADLINE (R89): Step 6 has not begun 20 ms after the trigger; the reset becomes disorderly with cause 0x04. -/
  | orderlyResetDeadline
  /-- DISORDERLY_CORE_RESET (R90): The core and lane dies reset at once, with DDR5 placed in self-refresh within 2 µs. -/
  | disorderlyCoreReset (cause : Nat)
  /-- RESET_CTRL_ORDERLY_CORE (R87): A write to WKT_RESET_CTRL with TYPE 1 and the key starts an orderly core reset. -/
  | resetCtrlOrderlyCore (key : BitVec 16)
  /-- RESET_CTRL_IMMEDIATE_CORE (R87): A write to WKT_RESET_CTRL with TYPE 2 and the key starts a disorderly core reset. -/
  | resetCtrlImmediateCore (key : BitVec 16)
  /-- RESET_CTRL_COLD (R87): A write to WKT_RESET_CTRL with TYPE 3 and the key starts a cold reset. -/
  | resetCtrlCold (key : BitVec 16)
  /-- RESET_CTRL_TILE (R100): A write to WKT_RESET_CTRL with TYPE 4 and the key resets one tile: its links go down, its entries are flushed and the tile retrains. -/
  | resetCtrlTile (t : Tile) (key : BitVec 16)
  /-- THERMAL_SAMPLE (R63): The 1 ms sensor sample compares every sensor with WARN_C and sets WARN, records 0x9,2 and asserts ALERT_N when exceeded. -/
  | thermalSample (temps : List Byte)
  /-- THERMAL_TRIP (R64): A sensor reaches 125 °C; THERMTRIP_N is asserted, the rails are deasserted and the switch is held in stage W with HALT_CODE 7. -/
  | thermalTrip (k : Fin 40)
  /-- DEVICE_FATAL_ERROR (R586): A device-fatal error signals Viral, writes the journal and starts a disorderly core reset within 10 µs with cause 0x0C. -/
  | deviceFatalError (block code : Nat)
  /-- MG_PERST_N_DEASSERT (R602): The management endpoint leaves fundamental reset, and a pending identity REVEAL takes effect. -/
  | mgPerstNDeassert
  /-- QUERY_DEVICE_IDENTIFIERS (R97): The PLDM QueryDeviceIdentifiers command returns the device identifiers. -/
  | queryDeviceIdentifiers
  /-- GET_FIRMWARE_PARAMETERS (R97): The PLDM GetFirmwareParameters command returns the firmware parameters. -/
  | getFirmwareParameters
  /-- REQUEST_UPDATE (R97): The PLDM RequestUpdate command starts a firmware update. -/
  | requestUpdate
  /-- PASS_COMPONENT_TABLE (R97): The PLDM PassComponentTable command passes components 0x0001 (Briop image) and 0x0002 (policy block). -/
  | passComponentTable (comps : List Nat)
  /-- UPDATE_COMPONENT (R98): The PLDM UpdateComponent command starts writing a component into the slot that did not boot. -/
  | updateComponent (comp size : Nat) (im : Image) (pol : Policy)
  /-- REQUEST_FIRMWARE_DATA (R97): A PLDM RequestFirmwareData exchange transfers 4 KiB of the image, which the Wicket island writes to flash. -/
  | requestFirmwareData
  /-- TRANSFER_COMPLETE (R97): The PLDM TransferComplete step ends the transfer. -/
  | transferComplete
  /-- VERIFY_COMPLETE (R98): At PLDM VerifyComplete, R79 is applied to the whole written image, every section digest included. -/
  | verifyComplete
  /-- APPLY_COMPLETE (R97): The PLDM ApplyComplete step ends the apply phase. -/
  | applyComplete
  /-- ACTIVATE_FIRMWARE (R98): The PLDM ActivateFirmware command writes the new slot pointer record copy under R77. -/
  | activateFirmware
  /-- GET_STATUS (R97): The PLDM GetStatus command reports the state of the update. -/
  | getStatus
  /-- CANCEL_UPDATE_COMPONENT (R97): The PLDM CancelUpdateComponent command cancels the transfer of one component. -/
  | cancelUpdateComponent
  /-- CANCEL_UPDATE (R97): The PLDM CancelUpdate command cancels the update. -/
  | cancelUpdate
  /-- LANE_CALIBRATE (R112): After VLANE_PG rises, each lane calibrates within 250 µs and starts at rate code 0. -/
  | laneCalibrate (l : Lane)
  /-- LANE_RATE_CHANGE (R112): A rate change ordered by the link layer; the Bools say that the PLL relocked, the CDR locked, the receiver adapted. -/
  | laneRateChange (l : Lane) (rate : Fin 7) (pll cdr adapt : Bool)
  /-- CDR_LOCK (R106): The CDR frequency estimate has stayed within 100 ppm for 1,000 LANE cycles; the CDR declares lock. -/
  | cdrLock (l : Lane)
  /-- CDR_LOSS_OF_LOCK (R106): The CDR leaves its tracking range, or its phase detector stays saturated for 64 ns; LOL is raised. -/
  | cdrLossOfLock (l : Lane)
  /-- LOS_ASSERT (R108): The input amplitude stays below threshold for the qualification time; loss of signal is asserted. -/
  | losAssert (l : Lane)
  /-- LOS_DEASSERT (R108): The input amplitude stays 15 mV above threshold for the qualification time; loss of signal is deasserted. -/
  | losDeassert (l : Lane)
  /-- LOS_RELOCK_TIMEOUT (R109): The CDR has not locked 2 µs after loss of signal deasserts; LOL is raised. -/
  | losRelockTimeout (l : Lane)
  /-- LANE_TXEQ_WRITE (R114): A write to LANE_TXEQ takes the coefficients under software ownership (rejecting an invalid set with TXEQ_REJ) or returns them to training. -/
  | laneTxeqWrite (l : Lane) (v : BitVec 32)
  /-- COEFFICIENT_REQUEST (R114): A partner's coefficient request is applied under R113, or rejected while SW_OWN is 1. -/
  | coefficientRequest (l : Lane) (v : BitVec 32)
  /-- LANE_RXEQ_MODE_WRITE (R115): A write to ADAPT_MODE changes receiver adaptation at the next LANE cycle after it lands. -/
  | laneRxeqModeWrite (l : Lane) (v : BitVec 32)
  /-- LANE_TEST_CTRL_WRITE (R116): A write to LANE_TEST_CTRL sets or clears TEST_OWN and the test rate, patterns and loopback; a refused TEST_OWN raises TEST_REFUSED. -/
  | laneTestCtrlWrite (l : Lane) (v : BitVec 32)
  /-- CHK_CLR (R116): CHK_CLR zeroes the injection, compared and error counters and SYNC_LOSS_CNT. -/
  | chkClr (l : Lane)
  /-- CHECKER_LOCK (R118): After 1,024 consecutive error-free bits the checker locks and sets CHK_LOCK, or PAT_INV for the inverse pattern. -/
  | checkerLock (l : Lane) (inv : Bool)
  /-- CHK_SYNC_LOSS (R118): The bits compared and the errors counted since lock. -/
  | chkSyncLoss (l : Lane) (bits errs : Nat)
  /-- INJ_FIRE (R119): FIRE flips one bit, or a burst of bits, within 16 LANE cycles in modes 1 and 2. -/
  | injFire (l : Lane)
  /-- LANE_INJ_CTRL_WRITE (R119): A write to LANE_INJ_CTRL sets the injection mode; an out-of-range rate raises INJ_CFG_ERR and the lane acts as in mode 0. -/
  | laneInjCtrlWrite (l : Lane) (v : BitVec 32)
  /-- FE_SLIP (R121): The far-end loopback elastic buffer slips one word at an overflow or underflow and raises FE_SLIP. -/
  | feSlip (l : Lane)
  /-- ALIAS_WRITE (R127): wide: 8 bytes, else 4. -/
  | aliasWrite (src : BarSrc) (off : Fin 268435456) (wide : Bool) (v : Word)
  /-- LOW_DWORD_READ (R125): A 4-byte read of the low dword of a 64-bit register latches the high dword for the same source. -/
  | lowDwordRead (at_ : BarAt)
  /-- LINK_DIS_CLEAR (R129): Clearing TILE_ZL_CTRL.LINK_DIS moves the Zitch port from Z.DISABLED to Z.DETECT. -/
  | linkDisClear (p : Port)
  /-- LINK_DIS_SET (R166): Setting LINK_DIS drains the port as for a full retrain and enters Z.DISABLED. -/
  | linkDisSet (p : Port)
  /-- RETRAIN (R166): The WO RETRAIN bit requests a full retrain of the Zitch port. -/
  | retrain (p : Port)
  /-- TARGET_WIDTH_CHANGE (R166): A change of TARGET_WIDTH requests a width-change link operation. -/
  | targetWidthChange (p : Port) (w : Fin 8)
  /-- LP_REQ_WRITE (R166): Writing LP_REQ requests entry to Z.LP (1) or exit from it (0). -/
  | lpReqWrite (p : Port) (b : Bool)
  /-- ZTS1_BURST (R129): In Z.DETECT, a 2 µs burst of ZTS1 at Z1 is sent every 1 ms. -/
  | zts1Burst (p : Port)
  /-- SIGNAL_DETECTED (R129): Loss of signal has been clear on at least half the lanes for 10 µs; the port enters Z.POLL. -/
  | signalDetected (p : Port)
  /-- ZTS1 (R130): A ZTS1 ordered set is received and drives the Z.POLL, Z.CONFIG or Z.RETRAIN exchange. -/
  | zts1 (p : Port) (z : ZSet)
  /-- ZTS2 (R130): A ZTS2 ordered set is received; after 8 received and 16 sent, the port goes to Z.EQ or Z.ACTIVE. -/
  | zts2 (p : Port) (z : ZSet)
  /-- ZEQ (R129): A ZEQ ordered set carries coefficient requests and EQ_DONE at the new rate. -/
  | zeq (p : Port) (z : ZSet)
  /-- ZSDS (R129): A received ZSDS starts flits in Z.ACTIVE after training, a width change or an exit from Z.LP. -/
  | zsds (p : Port)
  /-- ZWC (R156): A received ZWC_ starts the responder's width change. -/
  | zwc (p : Port)
  /-- ZALN (R156): A received ZALN is used for deskew; it also starts an exit from Z.LP. -/
  | zaln (p : Port)
  /-- ZEOS (R156): A received ZEOS starts the responder's entry to Z.LP. -/
  | zeos (p : Port)
  /-- POLL_TIMEOUT (R129): Z.POLL times out after 24 ms and the port returns to Z.DETECT. -/
  | pollTimeout (p : Port)
  /-- CONFIG_TIMEOUT (R129): Z.CONFIG times out after 4 ms and the port returns to Z.DETECT. -/
  | configTimeout (p : Port)
  /-- RATE_FAIL (R129): Z.EQ times out; the port marks the rate unusable, returns to the previous rate and raises RATE_FAIL. -/
  | rateFail (p : Port)
  /-- RETRAIN_TIMEOUT (R129): Z.RETRAIN times out after 2 ms and the link goes down. -/
  | retrainTimeout (p : Port)
  /-- FLIT_RECEIVE (R144): A received flit passes FEC and CRC; its ACK and credits are applied, and it is accepted, treated as a duplicate or NAKed by SEQ. -/
  | flitReceive (p : Port) (f : ZFlit)
  /-- FLIT_FAIL (R145): A failed flit makes the receiver send a NAK and discard sequenced flits until NEXT arrives. -/
  | flitFail (p : Port)
  /-- NAK_TIMER_EXPIRY (R145): NAK_TIMER expires without the expected flit and another NAK is sent. -/
  | nakTimerExpiry (p : Port)
  /-- NAK (R146): A received NAK frees acknowledged flits and replays the later ones with REPLAY set. -/
  | nak (p : Port) (ack : Fin 4096)
  /-- REPLAY_TIMER_EXPIRY (R146): The replay timer expires and the sender replays from the oldest unacknowledged flit. -/
  | replayTimerExpiry (p : Port)
  /-- AUDIT_SEND (R151): Every 1 ms each end sends an AUDIT flit with its credit counts. -/
  | auditSend (p : Port)
  /-- AUDIT (R152): A received AUDIT flit applies CONSUMED and computes E1 to E3; above threshold it raises AUDIT_MISMATCH and schedules a full retrain. -/
  | audit (p : Port) (vcs : List ZAuditVc)
  /-- QUIET_POINT (R152): The scheduled full retrain starts when no message has waited for 1 µs, or 10 ms after scheduling. -/
  | quietPoint (p : Port)
  /-- LINK_REQ (R154): A received CTRL LINK_REQ is answered with LINK_ACK, or withdrawn in favour of the leader's own request. -/
  | linkReq (p : Port) (kind mask : Nat)
  /-- LINK_ACK (R154): A received LINK_ACK makes the requester finish its flit and perform the operation. -/
  | linkAck (p : Port)
  /-- REQ_TIMEOUT (R154): No LINK_ACK arrives within 100 µs; REQ_TIMEOUT is raised and a recovery retrain follows. -/
  | reqTimeout (p : Port)
  /-- RETRAIN_DRAIN_DONE (R156): The replay buffer has drained for a full retrain or Z.LP entry; the port enters Z.RETRAIN or sends ZEOS. -/
  | retrainDrainDone (p : Port)
  /-- RETRAIN_DRAIN_TIMEOUT (R156): The drain for a full retrain has not finished in 100 µs and the link goes down. -/
  | retrainDrainTimeout (p : Port)
  /-- ABANDONED_REQ_REISSUE (R157): After the leader's operation, an abandoned audit or degrade request whose cause still holds is reissued. -/
  | abandonedReqReissue (p : Port)
  /-- LANE_DEGRADE (R158): A lane whose corrected bytes exceed CORR_THRESH in 1 ms, or that loses signal or lock in Z.ACTIVE, is marked failed and the port narrows. -/
  | laneDegrade (p : Port) (lane : Fin 16)
  /-- D2D_PARITY_ERROR (R161): A D2D parity error discards the unit and every later unit and sends a NAK in the next control unit. -/
  | d2dParityError (t : Tile) (k : Fin 4) (lane : Fin 34)
  /-- D2D_CONTROL_UNIT (R160): A D2D control unit carries a sequence number, an ACK or NAK for the other module, and retirement commands; a NAK starts a replay. -/
  | d2dControlUnit (t : Tile) (k : Fin 4) (ack : Nat) (nak : Bool)
  /-- D2D_LANE_RETIRE (R163): A lane's parity errors reach ERR_THRESH in WINDOW; the lane is retired onto a spare, the module goes to half width, or it goes out. -/
  | d2dLaneRetire (t : Tile) (k : Fin 4) (lane : Fin 34)
  /-- D2D_SPARE_SWITCH (R163): After 256 clean units on the spare, the receiver switches to the spare lane. -/
  | d2dSpareSwitch (t : Tile) (k : Fin 4)
  /-- TILE_PORTMAP_WRITE (R168): A write to TILE_PORTMAP is applied when the map is valid and every port is disabled, and refused with PORTMAP_REFUSED otherwise. -/
  | tilePortmapWrite (t : Tile) (map : Word)
  /-- TILE_PORT_CTRL_WRITE (R169): A write to TILE_PORT_CTRL changes the role, protocol, PBR fields or LINK_DIS, or is refused with CTRL_REFUSED, UP_LIMIT or PBR_DUP. -/
  | tilePortCtrlWrite (p : Port) (v : BitVec 32)
  /-- CXL_LINK_UP (R172): A CXL or PCIe port completes training with its negotiated protocols and flit mode. -/
  | cxlLinkUp (p : Port) (x : LinkOffer)
  /-- PORT_DOWN (R225): A port's link layer leaves the active state; admission stops and the port-down flush begins within 1 µs. -/
  | portDown (p : Port)
  /-- FLUSH_DONE (R225): Every synthesised response of a port-down flush has been queued; FLUSH_DONE is raised and the port takes requests again. -/
  | flushDone (p : Port)
  /-- PORT_CONTAINED (R636): Codes 0x1,3, 0x1,5, 0x2,3, 0x2,4, 0x2,5, 0x2,6, 0x3,3 of R590 in order. -/
  | portContained (p : Port) (why : Fin 7)
  /-- DPC_RELEASE (R636): The host clears DPC Trigger Status and the contained bound port may retrain. -/
  | dpcRelease (p : Port)
  /-- SECONDARY_BUS_RESET (R636): A host's Secondary Bus Reset or Link Disable of a bound vPPB clears the port's LINK_DIS. -/
  | secondaryBusReset (p : Port)
  /-- UNEXPECTED_COMPLETION (R184): A device response that names no outstanding tag is logged and contains the port as port-fatal. -/
  | unexpectedCompletion (p : Port)
  /-- IDENTIFY (R188): The FM API Identify command (0001h). -/
  | identify (src : FmSrc)
  /-- BACKGROUND_OPERATION_STATUS (R188): The FM API Background Operation Status command (0002h). -/
  | backgroundOperationStatus (src : FmSrc)
  /-- GET_RESPONSE_MESSAGE_LIMIT (R188): The FM API Get Response Message Limit command (0003h). -/
  | getResponseMessageLimit (src : FmSrc)
  /-- SET_RESPONSE_MESSAGE_LIMIT (R188): The FM API Set Response Message Limit command (0004h), from 256 B to 8 KiB. -/
  | setResponseMessageLimit (src : FmSrc) (n : Nat)
  /-- GET_EVENT_RECORDS (R188): The FM API Get Event Records command (0100h). -/
  | getEventRecords (src : FmSrc)
  /-- CLEAR_EVENT_RECORDS (R188): The FM API Clear Event Records command (0101h). -/
  | clearEventRecords (src : FmSrc)
  /-- IDENTIFY_SWITCH_DEVICE (R188): The FM API Identify Switch Device command (5100h). -/
  | identifySwitchDevice (src : FmSrc)
  /-- GET_PHYSICAL_PORT_STATE (R188): The FM API Get Physical Port State command (5101h). -/
  | getPhysicalPortState (src : FmSrc) (p : Port)
  /-- PHYSICAL_PORT_CONTROL (R188): 0 assert PERST, 1 deassert PERST, 2 reset PPB. -/
  | physicalPortControl (src : FmSrc) (p : Port) (op : Fin 3)
  /-- SEND_PPB_CXL_IO_CONFIG_REQUEST (R188): The FM API Send PPB CXL.io Configuration Request command (5103h). -/
  | sendPpbCxlIoConfigRequest (src : FmSrc) (p : Port) (payload : List Byte)
  /-- GET_VIRTUAL_CXL_SWITCH_INFO (R188): The FM API Get Virtual CXL Switch Info command (5200h). -/
  | getVirtualCxlSwitchInfo (src : FmSrc) (vcs : Fin 256)
  /-- BIND_VPPB (R189): The FM API Bind vPPB background command (5201h), refused with Busy while another background operation runs. -/
  | bindVppb (src : FmSrc) (vcs : Fin 256) (vppb : Fin 256) (p : Port) (ld : Option (Fin 16))
  /-- UNBIND_VPPB (R190): The FM API Unbind vPPB background command (5202h) with one of its three options. -/
  | unbindVppb (src : FmSrc) (vcs : Fin 256) (vppb : Fin 256) (opt : UnbindOpt)
  /-- BACKGROUND_OPERATION_DONE (R189): A Bind or Unbind background operation completes. -/
  | backgroundOperationDone
  /-- MANAGED_HOT_REMOVE_TIMEOUT (R190): A simulated managed hot-remove unbinds after 10 s without the host turning power off. -/
  | managedHotRemoveTimeout
  /-- GENERATE_AER_EVENT (R200): The FM API Generate AER Event command (5203h) adds an AER record to a vPPB. -/
  | generateAerEvent (src : FmSrc) (vcs : Fin 256) (vppb : Fin 256) (err : Nat)
  /-- TUNNEL_MANAGEMENT_COMMAND (R188): The FM API Tunnel Management Command (5300h) carries MLD or DCD commands to a device. -/
  | tunnelManagementCommand (src : FmSrc) (p : Port) (ld : Option (Fin 16)) (payload : List Byte)
  /-- SEND_LD_CXL_IO_CONFIG_REQUEST (R188): The FM API Send LD CXL.io Configuration Request command (5301h). -/
  | sendLdCxlIoConfigRequest (src : FmSrc) (p : Port) (ld : Fin 16) (payload : List Byte)
  /-- SEND_LD_CXL_IO_MEMORY_REQUEST (R188): The FM API Send LD CXL.io Memory Request command (5302h). -/
  | sendLdCxlIoMemoryRequest (src : FmSrc) (p : Port) (ld : Fin 16) (payload : List Byte)
  /-- FM_API_UNSUPPORTED (R188): An FM API command with an opcode outside the subset, or from a mailbox not owned by D0, completes Unsupported. -/
  | fmApiUnsupported (src : FmSrc) (op : BitVec 16)
  /-- K_SET_GO (R191): IDE_KM K_SET_GO makes a port's streams secure unless that would make a 257th secure port. -/
  | kSetGo (p : Port) (skid : Bool)
  /-- IDE_FAIL (R192): A MAC or sequence failure moves the streams to Insecure and contains the port as port-fatal. -/
  | ideFail (p : Port)
  /-- SLOT_POWER_ON (R195): A slot power-on request ramps the slot channel and, after power good, waits for PVPERL. -/
  | slotPowerOn (p : Port)
  /-- PERST_RELEASE (R195): PVPERL after the channel's power good, PERST# is deasserted and the link trains. -/
  | perstRelease (p : Port)
  /-- SLOT_POWER_OFF (R195): A slot power-off request asserts PERST# and turns the channel off at least 100 µs later. -/
  | slotPowerOff (p : Port)
  /-- PRESENCE_CHANGE (R195): A presence change from in-band detect or an expander bit sets Presence Detect Changed. -/
  | presenceChange (p : Port) (present : Bool)
  /-- EXPANDER_POLL (R194): Every 10 ms the switch polls the SB3 expander input bits. -/
  | expanderPoll (bits : BitVec 128)
  /-- REQUEST_RECEIVE (R25): A request arrives at a port and is buffered into its VOQ; its route program then runs. -/
  | requestReceive (r : Req)
  /-- TRACKER_ENTRY_GRANT (R208): A waiting request takes a tracker entry under its quota class, stamped with the domain's generation. -/
  | trackerEntryGrant (t : Tile)
  /-- CLASS_FENCE_RELEASE (R223): Source port, or 1024 + tile for the agent port of a tile. -/
  | classFenceRelease (src : Fin 1088) (dst : Tile) (v : VC)
  /-- CELL_RECEIVE (R214): A cell arrives at an output tile and is released, stored, discarded as a duplicate or counted as a cell error. -/
  | cellReceive (dst src : Tile) (tc : Fin 8) (seq : Fin 65536) (plane : Plane) (crcOk : Bool)
  /-- RESEQ_TIMEOUT (R215): A resequencing gap has persisted for RESEQ_TIMEOUT; the output tile sends a NAK naming E. -/
  | reseqTimeout (dst src : Tile) (tc : Fin 8)
  /-- RESEQ_NAK (R215): A received resequencing NAK makes the input tile retransmit retained cells on another plane. -/
  | reseqNak (dst src : Tile) (tc : Fin 8) (e : Fin 65536)
  /-- RESEQ_ACK (R216): A cumulative acknowledgement frees retained cells and returns their ingress slots as credits. -/
  | reseqAck (dst src : Tile) (tc : Fin 8)
  /-- RESPONSE_RECEIVE (R26): A response from a target is matched to its tracker entry and device tag and routed back. -/
  | responseReceive (p : Port) (tag : Fin 8192) (r : Rsp) (load : Option (Fin 4))
  /-- PLANE_OUT (R228): A plane's cell errors reach threshold, it suffers an uncorrectable error, or software sets OUT; it leaves service. -/
  | planeOut (n : Plane) (unc : Bool)
  /-- TILE_IBUF_ALLOC_WRITE (R205): An allocation by port offset and VC, or the agent reservation. -/
  | tileIbufAllocWrite (t : Tile) (ov : Option (Fin 16 × VC)) (v : BitVec 32)
  /-- TILE_EBUF_WRITE (R218): `TILE_EBUF_VC`, or `TILE_EBUF_PORTMAX`. -/
  | tileEbufWrite (t : Tile) (o : Fin 16) (vc : Option VC) (v : BitVec 32)
  /-- TILE_TRK_QCLASS_WRITE (R209): A write to a tracker quota class takes effect at once, or is refused with TRK_CFG_REFUSED. -/
  | tileTrkQclassWrite (t : Tile) (q : Fin 16) (v : BitVec 32)
  /-- PRIVET_LOOKUP_PRESENT (R385): A tile slice presents one Privet lookup per CORE cycle, chosen by domain deficit round-robin, with any speculative read. -/
  | privetLookupPresent (t : Tile)
  /-- PRIVET_LOOKUP_END (R256): The lookups of these tracker entries end in one CORE cycle; the Bool says that a mirrored bucket read used the other copy. -/
  | privetLookupEnd (ends : List (Nat × Bool))
  /-- READ_SHARED (R246): A read-shared flow runs on the line's state. -/
  | readShared (key : Nat)
  /-- READ_FOR_OWNERSHIP (R246): A read-for-ownership flow runs, snooping the other holders. -/
  | readForOwnership (key : Nat)
  /-- UPGRADE (R246): An upgrade flow grants M to a holder, or completes with no grant. -/
  | upgrade (key : Nat)
  /-- NON_CACHING_READ (R246): A non-caching read flow reads memory, or forwards an owner's data. -/
  | nonCachingRead (key : Nat)
  /-- CLEAN_EVICT (R246): A clean evict removes the requester from the line's holders. -/
  | cleanEvict (key : Nat)
  /-- NON_CACHING_WRITE (R246): A full or partial non-caching write invalidates the holders and is written to memory. -/
  | nonCachingWrite (key : Nat)
  /-- WRITE_BACK (R249): A write-back to I or to S is written to memory and changes state only for the recorded owner; otherwise it is stray. -/
  | writeBack (key : Nat)
  /-- BICONFLICT (R251): BIConflict is answered with BIConflictAck once the member's earlier responses are queued, or at once when no snoop is outstanding. -/
  | biconflict (key : Nat)
  /-- BIRSP (R274): A snoop response (BIRspI or BIRspS) is applied after earlier write-backs under R271, and may complete the snoop. -/
  | birsp (p : Port) (h : Hedge) (i : Fin 64) (addr : Nat) (sh : Bool)
  /-- MEM_SPEC_RD (R243): A MemSpecRd to a shared line is ignored. -/
  | memSpecRd (key : Nat)
  /-- PROTOCOL (R243): An unmatched M2S message to a shared line is answered as R633 gives and recorded as a protocol error. -/
  | protocol (key : Nat)
  /-- OWNER_WRITEBACK_WAIT_END (R248): A request from the recorded owner resumes when that owner's write-back arrives. -/
  | ownerWritebackWaitEnd (h : Hedge) (addr : Nat)
  /-- TENURE_END (R278): A member's tenure ends and the snoop waiting for it is issued. -/
  | tenureEnd (h : Hedge) (addr : Nat) (i : Fin 64)
  /-- MEMORY_READ_DATA (R302): Memory read data reaches the tracker line buffer; gated speculative data leaves once confirmed. -/
  | memoryReadData (key : Nat)
  /-- MEMORY_WRITE_COMPLETE (R245): A memory write completes at the device; the line may stop being busy. -/
  | memoryWriteComplete (key : Nat)
  /-- LINE_FLOW_END (R245): The line's flow ends and Privet takes the next message from its queue in R270 order. -/
  | lineFlowEnd (h : Hedge) (addr : Nat)
  /-- BUSY_LINE_ENTRY_GRANT (R244): A request waiting for a busy-line entry receives one and presents its lookup again. -/
  | busyLineEntryGrant
  /-- TIER1_ALLOCATION (R255): A tier-1 allocation proceeds, spilling a victim to tier 2 or waiting for a free way. -/
  | tier1Allocation (h : Hedge) (addr : Nat)
  /-- EVICTION_FLOW (R260): An eviction flow starts, subject to MAX_EVICT, and back-invalidates every holder of the line. -/
  | evictionFlow (h : Hedge) (addr : Nat)
  /-- REBUILD (R263): The REBUILD command, or saturated counters crossing REBUILD_AT, starts a summary rebuild walk. -/
  | rebuild
  /-- REBUILD_DONE (R263): The summary rebuild walk completes. -/
  | rebuildDone
  /-- PVT_HR_CFG_WRITE (R266): A change of way mask or hedgerow ENABLE takes effect; a narrowed mask starts a background spill walk. -/
  | pvtHrCfgWrite (h : Hedge) (v : BitVec 32)
  /-- PVT_HR_QUOTA_WRITE (R266): A lowered tier-2 quota starts a back-invalidate walk, or raises QUOTA_DONE at once. -/
  | pvtHrQuotaWrite (h : Hedge) (v : BitVec 32)
  /-- QUOTA_DONE (R266): The quota walk has brought the hedgerow's tier-2 count down to its quota. -/
  | quotaDone (h : Hedge)
  /-- PVT_MEMBER_WRITE (R267): A write to a member slot sets or clears VALID, or changes KIND, ID or bias, subject to CFG_REFUSED. -/
  | pvtMemberWrite (h : Hedge) (i : Fin 64) (bias : Bool) (v : Word)
  /-- PVT_CTRL_WRITE (R268): A write to PVT_CTRL.ENABLE enables or disables Privet. -/
  | pvtCtrlWrite (v : BitVec 32)
  /-- PVT_T2_CFG_WRITE (R259): A write to PVT_T2_CFG sets the tier-2 size or mirroring, or is refused. -/
  | pvtT2CfgWrite (v : BitVec 32)
  /-- MEMBER_DEAD (R282): A member is declared dead on link timeout, surprise removal, domain reset or VALID clear; it is marked departed. -/
  | memberDead (h : Hedge) (i : Fin 64) (cause : Fin 4)
  /-- DEAD_HOST_WALK (R285): After FLUSH_DONE, Privet walks tier 1 and tier 2 and poisons the lines that departed members hold Modified. -/
  | deadHostWalk
  /-- WALK_DONE (R285): The member walk ends and WALK_DONE is raised. -/
  | walkDone (h : Hedge) (i : Fin 64)
  /-- DEPARTED_CLEAR (R288): A departed bit clears once the walk has ended and the link is up or VALID is written. -/
  | departedClear (h : Hedge) (i : Fin 64)
  /-- SNOOP_TIMEOUT (R289): An unanswered snoop times out; the member's hold on that line alone is dropped or poisoned. -/
  | snoopTimeout (h : Hedge) (addr : Nat) (i : Fin 64)
  /-- SNOOP_RESEND (R289): A snoop held while the member's port was down is sent again when the link comes up. -/
  | snoopResend (h : Hedge) (addr : Nat) (i : Fin 64)
  /-- PVT_LOST_TAIL_WRITE (R290): Software advances the lost-line log tail. -/
  | pvtLostTailWrite (v : BitVec 32)
  /-- SHADOW_FLUSH (R291): At least every 1 ms, or when the change ring is full enough, the changed tier-1 sets are written to the shadow. -/
  | shadowFlush
  /-- PRIVET_RECOVERY (R293): After a disorderly core reset, Privet restores tier 1 from the shadow and evicts the recovery lines. -/
  | privetRecovery
  /-- RECOVERY_DONE (R293): Privet recovery ends and RECOVERY_DONE is raised. -/
  | recoveryDone
  /-- TIER1_UNCORRECTABLE (R295): An uncorrectable tier-1 entry makes its set a recovery set. -/
  | tier1Uncorrectable (set : Fin 262144) (way : Fin 16)
  /-- STATE_LOST (R296): Lost DDR5 contents clear every hedgerow's ENABLE and raise STATE_LOST. -/
  | stateLost
  /-- SPARE_WAY_MAP (R576): A failing tier-1 way is spilled and replaced by a spare, or removed from allocation. -/
  | spareWayMap (bank : Fin 64) (way : Fin 16)
  /-- LOST_BUCKET (R577): A tier-2 bucket with no good copy is added to the lost-bucket table and written back empty. -/
  | lostBucket (b : Nat)
  /-- SPEC_WINDOW_CLOSE (R307): A domain's window of 2^W eligible reads closes and speculation is switched off or on. -/
  | specWindowClose (d : Dom)
  /-- LVR_SPEC_CFG_WRITE (R308): A write to LVR_SPEC_CFG changes ADAPT_EN or the thresholds, or is refused. -/
  | lvrSpecCfgWrite (v : BitVec 32)
  /-- ATOMIC_OP (R313): An atomic to a shared line (AtomicOp, ZATOM, FAT or queue) takes the line and performs the operation at the coherence point. -/
  | atomicOp (key : Nat)
  /-- ATOMIC_HOLD_END (R315): The atomic hold ends after the tenure, or when a request for the line is escalated. -/
  | atomicHoldEnd (h : Hedge) (addr : Nat)
  /-- COMMIT_POINT (R343): A Casement change commits; CSM_EPOCH and the domain epochs advance. -/
  | commitPoint
  /-- COVERAGE_REMOVAL_WALK (R346): A change that removes coherent coverage waits for caching requests and back-invalidates the removed range before it commits. -/
  | coverageRemovalWalk
  /-- RULE_FENCE_COMPLETE (R347): The i-th rule fence in progress completes. -/
  | ruleFenceComplete (i : Nat)
  /-- MIRROR_FAIL (R334): A mirror member is marked failed on port down, unbind or a write error. -/
  | mirrorFail (pair : Fin 512) (i : Fin 2)
  /-- MIRROR_REPAIR (R335): A read poisoned from one member is reissued to the other member, and good data is written back to the poisoned one. -/
  | mirrorRepair (key : Nat)
  /-- CSM_MIR_CTRL_WRITE (R336): On the pair that CSM_MIR_SEL selects. -/
  | csmMirCtrlWrite (v : BitVec 32)
  /-- MIRROR_CURSOR_ADVANCE (R336): A resync chunk completes and the cursor advances 4 KiB; at the pair's size the member is in sync and MIRROR_SYNCED is raised. -/
  | mirrorCursorAdvance (pair : Fin 512)
  /-- CSM_SET_WRITE (R332): On the set or pair that CSM_ILV_SEL or CSM_MIR_SEL selects. -/
  | csmSetWrite (w : CsmWrite)
  /-- DOM_VIOL_CLR (R341): On the domain that DOM_SEL selects. -/
  | domViolClr (v : BitVec 32)
  /-- DOM_FABRIC_WRITE (R347): A new fabric-ID domain assignment takes effect at a commit point. -/
  | domFabricWrite (f : Fin 4096) (v : BitVec 32)
  /-- FREEZE_DRAIN_DONE (R361): Step 3 of a freeze completes; the sweep runs or the completion is written. -/
  | freezeDrainDone (d : Dom)
  /-- HINGE_SWEEP (R363): The sweep evicts the lines that member m holds in the domain's coherent ranges. -/
  | hingeSweep (d : Dom)
  /-- LVR_ENT_WRITE (R373): LVR_ENT_CMD OP 1 writes the staged Louvre entry, or is refused with a STATUS. -/
  | lvrEntWrite
  /-- LVR_ENT_FREE (R380): LVR_ENT_CMD OP 2 frees a Louvre entry. -/
  | lvrEntFree
  /-- SAMPLE_INSTANT (R387): When TB_NS is a multiple of 2^K, every sampler records depth and delay into its histograms. -/
  | sampleInstant
  /-- SNAP (R389): SNAP copies the live histograms into the snapshot and clears the live set. -/
  | snap
  /-- LVR_SMP_CFG_WRITE (R387): A write of LVR_SMP_TGT where tgt is true, of LVR_SMP_CFG else. -/
  | lvrSmpCfgWrite (tgt : Bool) (v : BitVec 32)
  /-- SQ_TAIL_DOORBELL (R400): mem: what the reads of queue memory return. -/
  | sqTailDoorbell (d : Dom) (q : Fin 64) (mem : QMem)
  /-- CQ_HEAD_DOORBELL (R410): head: what the read of the head shadow returns; none where it fails. -/
  | cqHeadDoorbell (d : Dom) (c : Fin 64) (head : Option Nat)
  /-- INVALIDATE_DOORBELL (R404): An invalidate doorbell drops unstarted cached entries from i and rescans, or sets INVAL_IGNORED. -/
  | invalidateDoorbell (d : Dom) (q : Fin 64) (i : BitVec 32) (mem : QMem)
  /-- ENTRY_START (R401): mem: what the reads of a scan that goes on return. -/
  | entryStart (mem : QMem)
  /-- ENTRY_COMPLETE (R406): A started entry completes: its writes finish, its status and OWN 0 are written in place, and a CQ entry and MSI-X follow if called for. -/
  | entryComplete (d : Dom) (q : Fin 64) (idx : BitVec 32) (hsh : Option Nat)
  /-- MSIX_COALESCE_TIMER (R409): COAL_TIME passes after the first unsignalled CQ entry and the CQ's MSI-X vector is raised. -/
  | msixCoalesceTimer (d : Dom) (c : Fin 64)
  /-- WQ_ADM_CFG_WRITE (R425): Setting ENABLE creates SQ 0 and CQ 0 (or sets CFG_ERR); clearing it destroys every queue of the domain. -/
  | wqAdmCfgWrite (d : Dom) (v : BitVec 32)
  /-- NOP (R397): A NOP entry completes OK and posts a CQ entry if requested. -/
  | nopEntry (d : Dom) (q : Fin 64) (idx : BitVec 32)
  /-- PAD (R397): A PAD entry completes OK in place and never posts a CQ entry. -/
  | padEntry (d : Dom) (q : Fin 64) (idx : BitVec 32)
  /-- COPY (R416): A COPY entry moves a range through the copy engine. -/
  | copyEntry (d : Dom) (q : Fin 64) (idx : BitVec 32)
  /-- FILL (R416): A FILL entry writes an 8-byte pattern over a range. -/
  | fillEntry (d : Dom) (q : Fin 64) (idx : BitVec 32)
  /-- VERIFY (R418): A VERIFY entry computes a CRC of a range, or compares two ranges. -/
  | verifyEntry (d : Dom) (q : Fin 64) (idx : BitVec 32)
  /-- ATOMIC (R419): The next element of the entry. -/
  | atomicEntry (d : Dom) (q : Fin 64) (idx : BitVec 32)
  /-- RUN (R420): A RUN entry starts a tenant thread once a sequencer thread is assigned. -/
  | runEntry (d : Dom) (q : Fin 64) (idx : BitVec 32)
  /-- FENCE_MEM (R421): A FENCE entry with KIND MEM completes once every earlier entry of its SQ has completed. -/
  | fenceMem (d : Dom) (q : Fin 64) (idx : BitVec 32)
  /-- FENCE_RULE (R421): A FENCE entry with KIND RULE performs the rule fence of R347. -/
  | fenceRule (d : Dom) (q : Fin 64) (idx : BitVec 32)
  /-- FENCE_ALL (R421): A FENCE entry with KIND ALL performs both MEM and RULE. -/
  | fenceAll (d : Dom) (q : Fin 64) (idx : BitVec 32)
  /-- CREATE_SQ (R422): CREATE_SQ creates an SQ and binds it to a CQ. -/
  | createSq (d : Dom) (q : Fin 64) (idx : BitVec 32)
  /-- CREATE_CQ (R422): CREATE_CQ creates a CQ. -/
  | createCq (d : Dom) (q : Fin 64) (idx : BitVec 32)
  /-- DESTROY_SQ (R423): DESTROY_SQ stops the scan, waits for started entries and frees the SQ. -/
  | destroySq (d : Dom) (q : Fin 64) (idx : BitVec 32)
  /-- DESTROY_CQ (R422): DESTROY_CQ frees a CQ that is not bound and has no overflowed entries. -/
  | destroyCq (d : Dom) (q : Fin 64) (idx : BitVec 32)
  /-- RESET_QUEUE (R423): RESET_QUEUE resets an SQ or a CQ to INDEX and clears ERROR. -/
  | resetQueue (d : Dom) (q : Fin 64) (idx : BitVec 32)
  /-- INVALIDATE (R415): The INVALIDATE entry acts as an invalidate doorbell of R404. -/
  | invalidate (d : Dom) (q : Fin 64) (idx : BitVec 32) (mem : QMem)
  /-- DOMAIN_CREATE (R424): DOMAIN_CREATE makes a free record an Active host or function domain. -/
  | domainCreate (d : Dom) (q : Fin 64) (idx : BitVec 32)
  /-- DOMAIN_RESET (R351): DOMAIN_RESET raises the generation, handles work in flight, resets queues and ends Active or Disabled. -/
  | domainReset (d : Dom) (q : Fin 64) (idx : BitVec 32)
  /-- DOMAIN_DESTROY (R353): DOMAIN_DESTROY resets the domain, destroys its queues, frees its Casements and unassigns its ports. -/
  | domainDestroy (d : Dom) (q : Fin 64) (idx : BitVec 32)
  /-- SET_CASEMENT (R342): SET_CASEMENT writes or frees one Casement slot, or is refused with a sub-code. -/
  | setCasement (d : Dom) (q : Fin 64) (idx : BitVec 32)
  /-- HINGE_FREEZE (R361): HINGE_FREEZE stops the domain's admission and fetching and drains its work. -/
  | hingeFreeze (d : Dom) (q : Fin 64) (idx : BitVec 32)
  /-- HINGE_SAVE (R367): HINGE_SAVE writes a self-checking image of a frozen function domain. -/
  | hingeSave (d : Dom) (q : Fin 64) (idx : BitVec 32)
  /-- HINGE_RESTORE (R369): The image is what the reads of the image memory return. -/
  | hingeRestore (d : Dom) (q : Fin 64) (idx : BitVec 32) (image : List Byte)
  /-- HINGE_THAW (R370): The queue memory of the SQs that are scanned, by SQ ID. -/
  | hingeThaw (d : Dom) (q : Fin 64) (idx : BitVec 32) (mems : List (Nat × QMem))
  /-- COPY_CHANNEL_ASSIGN (R427): mem: what the reads of a scan that goes on return. -/
  | copyChannelAssign (mem : QMem)
  /-- COPY_CHECKS_DONE (R429): The up-front checks of a descriptor finish; it fails with a status or proceeds to chunks. -/
  | copyChecksDone (ch : Fin 256)
  /-- CHUNK_ISSUE (R436): By a write engine, or by a read engine. -/
  | chunkIssue (write : Bool)
  /-- CHUNK_COMPLETE (R438): A chunk's last write completes at its target, or its reads finish for a verify pass. -/
  | chunkComplete (ch : Fin 256)
  /-- POISON_COPIED (R439): ecc: the offset in its range of a line whose chunk buffer shows an uncorrectable error. -/
  | poisonCopied (ch : Fin 256) (ecc : Option Nat)
  /-- CPE_CTRL_WRITE (R443): A write to CPE_CTRL changes channel reservations and limits for later assignments. -/
  | cpeCtrlWrite (v : BitVec 32)
  /-- THREAD_START (R447): A thread starts: its window is loaded, G1 to G4 are set from ARG and PC is set to ENTRY. -/
  | threadStart (by_ : StartBy)
  /-- DMLOAD (R454): data: what the reads return; fail: the offset and kind of the read that fails. -/
  | dmload (th : Thr) (data : List Byte) (fail : Option (Nat × FmFail))
  /-- ADD (R485): ALU ADD: a + b modulo 2^64. -/
  | opAdd (who : Who) (rd rs1 rs2 : Fin 32)
  /-- SUB (R485): ALU SUB: a − b modulo 2^64. -/
  | opSub (who : Who) (rd rs1 rs2 : Fin 32)
  /-- AND (R485): ALU AND of two registers. -/
  | opAnd (who : Who) (rd rs1 rs2 : Fin 32)
  /-- OR (R485): ALU OR of two registers. -/
  | opOr (who : Who) (rd rs1 rs2 : Fin 32)
  /-- XOR (R485): ALU XOR of two registers. -/
  | opXor (who : Who) (rd rs1 rs2 : Fin 32)
  /-- SHL (R485): ALU shift left by b & 63. -/
  | shl (who : Who) (rd rs1 rs2 : Fin 32)
  /-- SHR (R485): ALU logical shift right by b & 63. -/
  | shr (who : Who) (rd rs1 rs2 : Fin 32)
  /-- SAR (R485): ALU arithmetic shift right by b & 63. -/
  | sar (who : Who) (rd rs1 rs2 : Fin 32)
  /-- MUL (R485): ALU low 64 bits of the product. -/
  | mul (who : Who) (rd rs1 rs2 : Fin 32)
  /-- MULH (R485): ALU high 64 bits of the signed 128-bit product. -/
  | mulh (who : Who) (rd rs1 rs2 : Fin 32)
  /-- MIN (R485): ALU signed minimum. -/
  | opMin (who : Who) (rd rs1 rs2 : Fin 32)
  /-- MAX (R485): ALU signed maximum. -/
  | opMax (who : Who) (rd rs1 rs2 : Fin 32)
  /-- MINU (R485): ALU unsigned minimum. -/
  | minu (who : Who) (rd rs1 rs2 : Fin 32)
  /-- MAXU (R485): ALU unsigned maximum. -/
  | maxu (who : Who) (rd rs1 rs2 : Fin 32)
  /-- POPC (R485): ALU population count. -/
  | popc (who : Who) (rd rs1 : Fin 32)
  /-- CLZ (R485): ALU count of leading zeros. -/
  | clz (who : Who) (rd rs1 : Fin 32)
  /-- BSWAP (R485): ALU byte reversal. -/
  | bswap (who : Who) (rd rs1 : Fin 32)
  /-- ADDI (R485): Add a sign-extended 16-bit immediate. -/
  | addi (who : Who) (rd rs1 : Fin 32) (imm : BitVec 16)
  /-- ANDI (R485): AND with a zero-extended immediate. -/
  | andi (who : Who) (rd rs1 : Fin 32) (imm : BitVec 16)
  /-- ORI (R485): OR with a zero-extended immediate. -/
  | ori (who : Who) (rd rs1 : Fin 32) (imm : BitVec 16)
  /-- XORI (R485): XOR with a zero-extended immediate. -/
  | xori (who : Who) (rd rs1 : Fin 32) (imm : BitVec 16)
  /-- SHLI (R485): Shift left by an immediate. -/
  | shli (who : Who) (rd rs1 : Fin 32) (sh : Fin 64)
  /-- SHRI (R485): Logical shift right by an immediate. -/
  | shri (who : Who) (rd rs1 : Fin 32) (sh : Fin 64)
  /-- SARI (R485): Arithmetic shift right by an immediate. -/
  | sari (who : Who) (rd rs1 : Fin 32) (sh : Fin 64)
  /-- LUI (R485): Load an immediate into bits [31:16]. -/
  | lui (who : Who) (rd : Fin 32) (imm : BitVec 16)
  /-- LIH (R485): Insert an immediate into bits [63:48]. -/
  | lih (who : Who) (rd rs1 : Fin 32) (imm : BitVec 16)
  /-- CMP (R486): Compare two registers into a predicate under COND. -/
  | cmp (who : Who) (pd : Fin 8) (rs1 rs2 : Fin 32) (cond : Fin 8)
  /-- CMPI (R486): Compare a register with an immediate into a predicate. -/
  | cmpi (who : Who) (pd : Fin 8) (rs1 : Fin 32) (imm : BitVec 16) (cond : Fin 4)
  /-- LD (R487): Load 1 to 8 bytes from LS, DM, FM or TB. -/
  | ld (th : Thr) (rd rb : Fin 32) (space size : Fin 4) (off : BitVec 12)
  /-- ST (R487): Store 1 to 8 bytes to LS, DM or FM; FM stores are held until the access check passes. -/
  | st (th : Thr) (rs rb : Fin 32) (space size : Fin 4) (off : BitVec 12)
  /-- FLD (R489): Move 64 to 512 B from DM or FM into local scratch. -/
  | fld (th : Thr) (rl rb : Fin 32) (space n : Fin 4) (off : BitVec 12)
  /-- FST (R489): Move 64 to 512 B from local scratch to DM or FM. -/
  | fst (th : Thr) (rl rb : Fin 32) (space n : Fin 4) (off : BitVec 12)
  /-- FAT (R490): Perform an atomic at the coherence point and return the old value. -/
  | fat (th : Thr) (rd rb ra rc : Fin 32) (op : Fin 16) (size : Fin 4)
  /-- THREAD_ACCESS_COMPLETE (R483): ecc: a DM read meets an uncorrectable error. -/
  | threadAccessComplete (th : Thr) (ecc : Bool)
  /-- BR (R491): Branch on a predicate or its negation. -/
  | br (who : Who) (neg : Bool) (p : Fin 8) (off : BitVec 20)
  /-- JAL (R491): Jump and link. -/
  | jal (th : Thr) (rd : Fin 32) (off : BitVec 20)
  /-- JR (R491): Jump to a register and link. -/
  | jr (th : Thr) (rd rs : Fin 32)
  /-- LKP (R494): Route-program read of 8 bytes from table space; a fault returns 0 and raises ROUTE_FAULT. -/
  | lkp (p : Port) (rd rs : Fin 32) (imm : BitVec 16)
  /-- TWR (R494): A manager thread writes 8 bytes into all 64 table copies. -/
  | twr (th : Thr) (rs rb : Fin 32) (imm : BitVec 16)
  /-- QPOST (R495): tail, mem: what the reads of queue memory return. -/
  | qpost (th : Thr) (pd : Fin 8) (re rq : Fin 32) (tail : Option Nat) (mem : QMem)
  /-- QFETCH (R496): head, ent: what the reads of queue memory return. -/
  | qfetch (th : Thr) (pd : Fin 8) (rd rq : Fin 32) (head : Option Nat) (ent : Option (BitVec 128))
  /-- DBELL_SQ_TAIL (R497): DBELL with KIND 0 writes an SQ tail doorbell. -/
  | dbellSqTail (th : Thr) (rq rv : Fin 32) (mem : QMem)
  /-- DBELL_CQ_HEAD (R497): DBELL with KIND 1 writes a CQ head doorbell. -/
  | dbellCqHead (th : Thr) (rq rv : Fin 32) (head : Option Nat)
  /-- DBELL_INVALIDATE (R497): DBELL with KIND 2 writes an invalidate doorbell and returns R. -/
  | dbellInvalidate (th : Thr) (rq rv : Fin 32) (mem : QMem)
  /-- CSRRD (R498): Read a BAR0 register by offset. -/
  | csrrd (th : Thr) (rd rb : Fin 32) (imm : BitVec 16)
  /-- CSRWR (R498): mem: what reads of queue memory return, where the register is a doorbell. -/
  | csrwr (th : Thr) (rs rb : Fin 32) (imm : BitVec 16) (mem : QMem)
  /-- CSRSET (R499): Atomically set register bits and return the old value. -/
  | csrset (th : Thr) (rm rb : Fin 32) (imm : BitVec 16) (mem : QMem)
  /-- CSRCLR (R499): Atomically clear register bits and return the old value. -/
  | csrclr (th : Thr) (rm rb : Fin 32) (imm : BitVec 16) (mem : QMem)
  /-- FENCE_MEM_INSTR (R500): FENCE.MEM holds the thread until its DM and FM accesses complete, and reports write failures. -/
  | fenceMemInstr (th : Thr) (rs : Fin 32)
  /-- CFENCE (R500): FENCE.RULE (CFENCE) holds the thread until the rule fence completes. -/
  | cfence (th : Thr) (rs : Fin 32)
  /-- FENCE_ALL_INSTR (R500): FENCE.ALL performs MEM and then RULE. -/
  | fenceAllInstr (th : Thr) (rs : Fin 32)
  /-- WAIT (R492): WAIT stalls the thread until an event of its mask is pending. -/
  | wait (th : Thr) (rd : Fin 32) (mask : BitVec 8)
  /-- WAIT_RETURN (R492): A selected event becomes pending and the waiting thread resumes with the pending mask. -/
  | waitReturn (th : Thr)
  /-- SEND (R501): Place a two-value message in a thread's inbox. -/
  | send (th : Thr) (pd : Fin 8) (rt ra rb : Fin 32)
  /-- RECV (R501): Take the oldest message from the thread's inbox. -/
  | recv (th : Thr) (pd : Fin 8) (rd : Fin 32)
  /-- TBR (R502): Read the timebase, optionally with its fraction. -/
  | tbr (th : Thr) (rd : Fin 32) (f : Bool)
  /-- ROUTE (R459): Route-program final instruction that applies the route word. -/
  | route (p : Port) (rs : Fin 32)
  /-- XLATE (R458): Route-program Casement check and translation of the request. -/
  | xlate (p : Port) (rd : Fin 32)
  /-- HDR_DST_PBR (R459): HDR field 0 sets the destination PBR ID. -/
  | hdrDstPbr (p : Port) (rs : Fin 32)
  /-- HDR_NOSPEC (R459): HDR field 1 forbids speculation of the request. -/
  | hdrNospec (p : Port) (rs : Fin 32)
  /-- HDR_SCAVENGER (R459): HDR field 2 carries an eligible request on VC7. -/
  | hdrScavenger (p : Port) (rs : Fin 32)
  /-- TRAP (R493): The TRAP instruction raises cause TRAP with an immediate. -/
  | trap (th : Thr) (imm : BitVec 16)
  /-- NOP_INSTR (R493): The NOP instruction does nothing. -/
  | nopInstr (who : Who)
  /-- HALT (R493): HALT waits for the thread's writes, then ends the thread and completes its RUN entry. -/
  | halt (th : Thr)
  /-- THREAD_TRAP (R468): ecc: an uncorrectable error of local scratch, on the fetch or on the data at an address. -/
  | threadTrap (th : Thr) (ecc : Option (Option Nat))
  /-- BUDGET (R468): A thread exceeds RUN_LIMIT and traps with cause BUDGET. -/
  | budget (th : Thr)
  /-- SELF_TIMER_EXPIRY (R466): SELF_TIMER counts down to 0 and the TIMER event becomes pending. -/
  | selfTimerExpiry (th : Thr)
  /-- SELF_TREC_CLR (R470): CLEAR clears VALID in the manager trap record. -/
  | selfTrecClr (th : Thr) (v : BitVec 32)
  /-- LOCKSTEP_MISMATCH (R474): A lockstep mismatch suppresses the pair's outputs and restarts the manager firmware within 50 ms. -/
  | lockstepMismatch
  /-- SEQ_RP_LOAD (R463): SEQ_RP_CMD OP 1 loads a route program into a slot of every tile slice, or refuses it. -/
  | seqRpLoad (slot : Fin 8) (len : Fin 32)
  /-- SEQ_RP_CLEAR (R463): SEQ_RP_CMD OP 2 clears a program slot. -/
  | seqRpClear (slot : Fin 8) (len : Fin 32)
  /-- SEQ_RP_SEL_WRITE (R463): A port's program-slot selection takes effect, or is refused with RP_REFUSED. -/
  | seqRpSelWrite (i : Fin 128) (v : BitVec 32)
  /-- SEQ_DOM_DM_WRITE (R453): On the domain that SEQ_DOM_SEL selects. -/
  | seqDomDmWrite (v : BitVec 64)
  /-- SEQ_CORE_MODE_WRITE (R445): Core modes change; each core takes the new kind once its threads have ended. -/
  | seqCoreModeWrite (v : BitVec 32)
  /-- SEQ_CTRL_LOCK (R622): A write of SEQ_CTRL. -/
  | seqCtrlLock (v : BitVec 32)
  /-- TB_LOAD (R521): LOAD sets the timebase to TB_SET. -/
  | tbLoad
  /-- TB_STEP (R521): STEP adds a signed TB_SET to the timebase. -/
  | tbStep
  /-- TB_RATE_WRITE (R520): A new timebase rate applies 2 to 4 TB cycles after the write. -/
  | tbRateWrite (v : BitVec 32)
  /-- CLKIN_MEASUREMENT (R520): After 100,000 TB_CLKIN periods, the rate in use is set so that each period counts 100 ns. -/
  | clkinMeasurement (rate : Int)
  /-- PPS_EDGE (R522): A PPS_IN rising edge is captured; the timebase snaps, jumps, is ignored as early or only recorded. -/
  | ppsEdge (writing : Bool)
  /-- PPS_LOSS (R524): 1.5 s of timebase pass with no accepted edge; LOCKED clears. -/
  | ppsLoss
  /-- FALLBACK_COUNTER_WRITE (R518): A write to a fallback counter takes the written value plus that cycle's count. -/
  | fallbackCounterWrite (c : Fin 32) (n : Fin 9) (v : Word) (k : Nat)
  /-- SLOT_SAMPLE (R528): Every 100 ns each channel and feed is sampled and its timers, energies and trip checks updated. -/
  | slotSample (x : PowerSample)
  /-- SHORT_COMPARATOR (R536): The analogue comparator sees 2 × ITRIP and trips a standard channel within 500 ns. -/
  | shortComparator (c : Chan)
  /-- FAST_LIMIT_COMPARATOR (R538): The privileged channel's fast comparator pulses the gate down while its limit loop settles. -/
  | fastLimitComparator (c : Chan)
  /-- SPC_ON_WRITE (R531): Writing ON to 1 makes the channel wait for admission; ignored with CTRL_REFUSED if owned. -/
  | spcOnWrite (c : Chan)
  /-- SPC_OFF_WRITE (R532): Writing ON to 0 turns the channel off from any state. -/
  | spcOffWrite (c : Chan)
  /-- CLR_MEAS (R530): A channel, or none for the feeds. -/
  | clrMeas (c : Option Chan)
  /-- STAGGER_ADMIT (R546): A waiting channel whose inrush fits BUS_INRUSH is admitted to Ramping. -/
  | staggerAdmit
  /-- RAMP_END (R531): VOUT reaches the bus minus 0.2 V; the gate is fully enhanced and the channel enters Qualifying. -/
  | rampEnd (c : Chan)
  /-- PG_RISE (R540): The qualification interval passes and power good asserts. -/
  | pgRise (c : Chan)
  /-- PG_FALL (R542): VOUT stays below the bus minus 0.8 V for 100 ns; power good falls. -/
  | pgFall (c : Chan)
  /-- FAULT_TIMER_STOP (R541): The fault timer stops without a trip; PG_WARN clears or qualification restarts. -/
  | faultTimerStop (c : Chan)
  /-- RETRY_WAIT_EXPIRY (R547): The retry wait ends; RETRIES rises, ON sets again and RETRY is raised. -/
  | retryWaitExpiry (c : Chan)
  /-- RETRIES_RESET (R547): Power good has held for 1 s and RETRIES returns to 0. -/
  | retriesReset (c : Chan)
  /-- FEED_LOST (R549): Feed B where true, A else. -/
  | feedLost (b : Bool)
  /-- FEED_RESTORED (R549): After 1 ms of valid samples, a feed is turned on again. -/
  | feedRestored (b : Bool)
  /-- REVERSE (R551): The reverse comparator sees VIN below the bus and turns the feed's FET off within 300 ns. -/
  | reverse (b : Bool)
  /-- ORG_CTRL_WRITE (R550): A write changes the ORing mode, feed enables or BUS_INRUSH. -/
  | orgCtrlWrite (v : BitVec 32)
  /-- SHUTTER_WRITE (R557): Setting a bit of WKT_SHUTTER gates a tile, or is refused with SHUTTER_REFUSED; clearing a bit ungates it. -/
  | shutterWrite (mask : Word)
  /-- TILE_UNGATED (R559): The ungated tile has calibrated and shows ungated in WKT_SHUTTER_STATUS. -/
  | tileUngated (t : Tile)
  /-- IDLE_ENTRY (R560): The IDLE conditions have held for IDLE_HOLD; the CORE and SEQ clocks are gated. -/
  | idleEntry
  /-- IDLE_EXIT (R561): An IDLE condition ends and the clocks run again within 2 µs. -/
  | idleExit
  /-- DORMANT_REQUEST (R562): v: the value written to `WKT_PWR_CTRL`; l2: every upstream port whose link is up is in L2. -/
  | dormantRequest (v : BitVec 32) (l2 : Bool)
  /-- DORMANT_DRAIN_TIMEOUT (R563): Step 2 of the entry has not finished in 10 ms; the entry is abandoned with ABORT_CODE 3. -/
  | dormantDrainTimeout (mems : List (Nat × QMem))
  /-- DORMANT_COMMIT (R562): At the commit point VLANE_EN is deasserted and, 100 µs later, VCORE_EN; STATE becomes DORMANT. -/
  | dormantCommit
  /-- WAKE_WINDOW_END (R569): low: the level of WAKE_N as sampled. -/
  | wakeWindowEnd (low : Bool)
  /-- WAKE_REQUEST (R568): REQ = 2 is an edge wake source. -/
  | wakeRequest (v : BitVec 32)
  /-- WAKE_TIMER_EXPIRY (R568): The wake timer expires and wakes the switch. -/
  | wakeTimerExpiry
  /-- WAKE (R570): low: WAKE_N is low; mems: what the scans of the SQs read, where an entry is cancelled. -/
  | wake (low : Bool) (mems : List (Nat × QMem))
  /-- WAKE_ABORT (R571): vlane: VLANE_PG has missed its deadline, else VCORE_PG. -/
  | wakeAbort (vlane : Bool)
  /-- COMPLETION_TIMEOUT (R581): A tracker entry's completion timer fires and the requester is answered as the table gives. -/
  | completionTimeout (key : Nat)
  /-- LATE_PERIOD_END (R582): LATE_MULT periods pass with no response; the target port is contained with code 0x1,5. -/
  | latePeriodEnd (key : Nat)
  /-- LATE_RESPONSE (R582): A response to an already timed-out entry is consumed, code 0x1,6. -/
  | lateResponse (p : Port) (tag : Fin 8192) (r : Rsp) (load : Option (Fin 4))
  /-- VIRAL (R585): p: the upstream port, or the port whose device signals Viral. -/
  | viral (p : Port)
  /-- VIRAL_CLEAR (R585): PERST# or a hot reset of the port clears its Viral status. -/
  | viralClear (p : Port)
  /-- JOURNAL_RECORD (R587): e: what is recorded; its class is that of its code. x: what a code of the switch's own memories is about. -/
  | journalRecord (e : ErrRec) (x : FaultAt)
  /-- COALESCE_WINDOW_END (R589): i: the window, oldest first. -/
  | coalesceWindowEnd (i : Nat)
  /-- ERR_JRN_TAIL_WRITE (R587): Software advances the journal tail. -/
  | errJrnTailWrite (v : BitVec 32)
  /-- PATROL_SCRUB (R578): The patrol scrub reads a location; it corrects it, repairs it from the other copy, marks the bucket lost or writes poison. -/
  | patrolScrub (x : ScrubAt) (f : ScrubFind)
  /-- TABLE_RELOAD (R579): An uncorrectable rule, table or program entry is reloaded from its copy within 2 µs. -/
  | tableReload (k : ReloadKind) (addr : Nat)
  /-- DOM_FERR_CLR (R591): CLEAR zeroes a domain's first-error record. -/
  | domFerrClr (v : BitVec 32)
  /-- DOM_FN_CLR (R631): fn: the port of a service PF, or 1024 + VF. -/
  | domFnClr (fn : Nat) (v : BitVec 32)
  /-- EEPROM_INTERFACE_WRITE (R596): sumOk, ports: whether the checksum of the copy holds after the write, and the ports that the copy then spells. -/
  | eepromInterfaceWrite (p : Fin 4) (off : Fin 32768) (bytes : List Byte) (sumOk : Bool) (ports : List TfPort)
  /-- HDM_DECODER_COMMIT (R598): v: the VCS; i: the decoder; body: the decoder as the host has programmed it. -/
  | hdmDecoderCommit (p : Fin 4) (v : Fin 16) (i : Fin 64) (body : HdmBody)
  /-- HDM_DECODER_UNCOMMIT (R598): Clearing Commit frees the decoder's Casements and fences the domain. -/
  | hdmDecoderUncommit (p : Fin 4) (v : Fin 16) (i : Fin 64)
  /-- FIRMWARE_ASSISTED_ACCESS (R603): time: the service time in units of 10 ns. -/
  | firmwareAssistedAccess (p : Fin 4) (op : FwaOp) (time : Nat)
  /-- FWA_LATE (R605): A firmware-assisted access not served in 4 µs completes as 0 or ignored and is recorded. -/
  | fwaLate (p : Fin 4)
  /-- TF_QUIRK_WRITE (R611): A change of SPEED64 or E7 applies from the next training or link-up. -/
  | tfQuirkWrite (src : BarSrc) (p : Fin 4) (v : BitVec 32)
  /-- ACCESS_SIZE_ERROR (R616): A BAR0 access of bad size or alignment has no effect and sets SIZE_ERR. -/
  | accessSizeError (src : BarSrc) (off : Fin 268435456) (size : Nat) (write : Bool)
  /-- LOW_DWORD_WRITE_HOLD (R617): A 4-byte write to a 64-bit low dword is held until the high dword write. -/
  | lowDwordWriteHold (at_ : BarAt) (v : BitVec 32)
  /-- LONG_WRITE_TLP (R618): f: the function; dws: the dwords of the TLP; full: every byte is enabled and it starts and ends on 4-byte boundaries. -/
  | longWriteTlp (f : Fin 8) (off : Fin 268435456) (dws : List (BitVec 32)) (full : Bool) (mem : QMem)
  /-- LOCKED_FIELD_WRITE (R622): v: the value written to `SEQ_CTRL`. -/
  | lockedFieldWrite (src : BarSrc) (v : BitVec 32)
  /-- IRQ_EOI (R627): An EOI write re-signals each vector whose summary is still set. -/
  | irqEoi (src : BarSrc) (v : BitVec 32)
  /-- SUMMARY_VECTOR_SIGNAL (R627): C_v rises from 0 to 1 and MSI-X vector v is signalled. -/
  | summaryVectorSignal (v : Fin 11)
  /-- MCTP_REGISTER_READ (R629): cmd: 0x01, or a reserved value. -/
  | mctpRegisterRead (cmd size : BitVec 8) (tag : BitVec 16) (off : BitVec 32)
  /-- MCTP_REGISTER_WRITE (R629): An MCTP vendor-defined register request with CMD 0x02 writes BAR0. -/
  | mctpRegisterWrite (size : BitVec 8) (tag : BitVec 16) (off : BitVec 32) (data : Word) (mem : QMem)
  /-- REGISTER_WRITE (R10): wide: 8 bytes, else 4; v: the value written. -/
  | registerWrite (tgt : BarTgt) (wide : Bool) (v : Word) (mem : QMem)
  /-- RC_FIELD_READ (R12): A read of an RC field returns its value and clears it. -/
  | rcFieldRead (at_ : BarAt) (wide : Bool)
  /-- ENABLE_DEASSERT (R43): The switch deasserts the next rail enable in reverse order once at least 100 µs have passed since the previous one, for example VCORE_EN 100 µs after VLANE_EN at the DORMANT commit point. -/
  | enableDeassert
  /-- MG_PERST_N_ASSERT (R50): MG_PERST_N goes low and puts the management endpoint into fundamental reset. -/
  | mgPerstNAssert
  /-- D2D_CLOCK_LANE_FAIL (R163): The forwarded-clock lane of a D2D module fails and the module goes out of service. -/
  | d2dClockLaneFail (t : Tile) (k : Fin 4)
  /-- LINK_CREDIT_RETURN (R220): The partner of a CXL or PCIe port returns link credits, and a VC whose head message lacked credit becomes eligible to transmit again. -/
  | linkCreditReturn (p : Port) (v : VC) (n : Nat)
  /-- SLOT_CHANNEL_OFF (R195): At least 100 µs after PERST# has been asserted for a slot power-off, the switch turns the slot channel off. -/
  | slotChannelOff (p : Port)
  /-- MANAGER_FIRMWARE_RESTART (R474): The lockstep pair's manager firmware finishes restarting from its DDR5 copy, and work that needed the firmware resumes. -/
  | managerFirmwareRestart
  /-- E7_LINK_UP_LAG (R611): With E7 set, 2 µs after the Data Link Layer's link-up, the TF-256 port status register shows the link up and the link-up interrupt is raised. -/
  | e7LinkUpLag (p : Port)
  /-- VF_ENABLE (R176): A host's configuration write that sets VF Enable on a service PF enables the lower of NumVFs and TotalVFs. -/
  | vfEnable (p : Port) (numVfs : Nat)
deriving DecidableEq, Repr

end Sys2Proof
end

