-- ==== Sys2Proof/WellFormed.lean ====
section
/-! DEFINITION. Sys2Proof/WellFormed.lean: what the operands of a command are, beyond their types: a command that breaks this is none that the
block can receive. The machine answers such a command too; no meaning relies on the check. -/
namespace Sys2Proof

/-- A command that can occur: a tracker key names one of 64 × 2,048 entries; an address has 64 bits; a check's errors are no more than its bits
(R118); an encoding's bits are those of its row (R481); a long write is longer than 8 bytes (R618), a size error is one (R616). -/
def Instr.wf (i : Instr) : Bool :=
  match i with
  | .vauxPowerOn => true
  | .auxResetNAssert => true
  | .supplyUndervoltage => true
  | .auxGood => true
  | .bootSlotChoice => true
  | .slotVerifyDone => true
  | .sysPwrgdWaitTimeout => true
  | .upstreamPerstRelease => true
  | .mgmtEndpointRetrain => true
  | .enableAssert .. => true
  | .powerGoodRise .. => true
  | .powerGoodDeadlineMiss .. => true
  | .railPowerGoodLoss .. => true
  | .sysPwrgdLoss => true
  | .corePllLock => true
  | .loaderVerified => true
  | .sectionLoaded i => decide (i < 64)
  | .ddr5TrainingDone .. => true
  | .stageFReached .. => true
  | .bootWatchdog => true
  | .configRequestRetry .. => true
  | .warmResetNFall => true
  | .orderlyCoreReset => true
  | .orderlyDrainTimeout => true
  | .orderlyResetDeadline => true
  | .disorderlyCoreReset cause => decide (cause < 256)
  | .resetCtrlOrderlyCore .. => true
  | .resetCtrlImmediateCore .. => true
  | .resetCtrlCold .. => true
  | .resetCtrlTile .. => true
  | .thermalSample temps => decide (temps.length = 40)
  | .thermalTrip .. => true
  | .deviceFatalError block code => decide (block < 16 ∧ code < 16)
  | .mgPerstNDeassert => true
  | .queryDeviceIdentifiers => true
  | .getFirmwareParameters => true
  | .requestUpdate => true
  | .passComponentTable .. => true
  | .updateComponent .. => true
  | .requestFirmwareData => true
  | .transferComplete => true
  | .verifyComplete => true
  | .applyComplete => true
  | .activateFirmware => true
  | .getStatus => true
  | .cancelUpdateComponent => true
  | .cancelUpdate => true
  | .laneCalibrate .. => true
  | .laneRateChange .. => true
  | .cdrLock .. => true
  | .cdrLossOfLock .. => true
  | .losAssert .. => true
  | .losDeassert .. => true
  | .losRelockTimeout .. => true
  | .laneTxeqWrite .. => true
  | .coefficientRequest .. => true
  | .laneRxeqModeWrite .. => true
  | .laneTestCtrlWrite .. => true
  | .chkClr .. => true
  | .checkerLock .. => true
  | .chkSyncLoss _ bits errs => decide (errs ≤ bits)
  | .injFire .. => true
  | .laneInjCtrlWrite .. => true
  | .feSlip .. => true
  | .aliasWrite .. => true
  | .lowDwordRead .. => true
  | .linkDisClear .. => true
  | .linkDisSet .. => true
  | .retrain .. => true
  | .targetWidthChange .. => true
  | .lpReqWrite .. => true
  | .zts1Burst .. => true
  | .signalDetected .. => true
  | .zts1 .. => true
  | .zts2 .. => true
  | .zeq .. => true
  | .zsds .. => true
  | .zwc .. => true
  | .zaln .. => true
  | .zeos .. => true
  | .pollTimeout .. => true
  | .configTimeout .. => true
  | .rateFail .. => true
  | .retrainTimeout .. => true
  | .flitReceive .. => true
  | .flitFail .. => true
  | .nakTimerExpiry .. => true
  | .nak .. => true
  | .replayTimerExpiry .. => true
  | .auditSend .. => true
  | .audit .. => true
  | .quietPoint .. => true
  | .linkReq .. => true
  | .linkAck .. => true
  | .reqTimeout .. => true
  | .retrainDrainDone .. => true
  | .retrainDrainTimeout .. => true
  | .abandonedReqReissue .. => true
  | .laneDegrade .. => true
  | .d2dParityError .. => true
  | .d2dControlUnit .. => true
  | .d2dLaneRetire .. => true
  | .d2dSpareSwitch .. => true
  | .tilePortmapWrite .. => true
  | .tilePortCtrlWrite .. => true
  | .cxlLinkUp .. => true
  | .portDown .. => true
  | .flushDone .. => true
  | .portContained .. => true
  | .dpcRelease .. => true
  | .secondaryBusReset .. => true
  | .unexpectedCompletion .. => true
  | .identify .. => true
  | .backgroundOperationStatus .. => true
  | .getResponseMessageLimit .. => true
  | .setResponseMessageLimit .. => true
  | .getEventRecords .. => true
  | .clearEventRecords .. => true
  | .identifySwitchDevice .. => true
  | .getPhysicalPortState .. => true
  | .physicalPortControl .. => true
  | .sendPpbCxlIoConfigRequest .. => true
  | .getVirtualCxlSwitchInfo .. => true
  | .bindVppb .. => true
  | .unbindVppb .. => true
  | .backgroundOperationDone => true
  | .managedHotRemoveTimeout => true
  | .generateAerEvent .. => true
  | .tunnelManagementCommand .. => true
  | .sendLdCxlIoConfigRequest .. => true
  | .sendLdCxlIoMemoryRequest .. => true
  | .fmApiUnsupported .. => true
  | .kSetGo .. => true
  | .ideFail .. => true
  | .slotPowerOn .. => true
  | .perstRelease .. => true
  | .slotPowerOff .. => true
  | .presenceChange .. => true
  | .expanderPoll .. => true
  | .requestReceive .. => true
  | .trackerEntryGrant .. => true
  | .classFenceRelease .. => true
  | .cellReceive .. => true
  | .reseqTimeout .. => true
  | .reseqNak .. => true
  | .reseqAck .. => true
  | .responseReceive .. => true
  | .planeOut .. => true
  | .tileIbufAllocWrite .. => true
  | .tileEbufWrite .. => true
  | .tileTrkQclassWrite .. => true
  | .privetLookupPresent .. => true
  | .privetLookupEnd .. => true
  | .readShared key => decide (key < 131072)
  | .readForOwnership key => decide (key < 131072)
  | .upgrade key => decide (key < 131072)
  | .nonCachingRead key => decide (key < 131072)
  | .cleanEvict key => decide (key < 131072)
  | .nonCachingWrite key => decide (key < 131072)
  | .writeBack key => decide (key < 131072)
  | .biconflict key => decide (key < 131072)
  | .birsp _ _ _ addr _ => decide (addr < 2 ^ 64)
  | .memSpecRd key => decide (key < 131072)
  | .protocol key => decide (key < 131072)
  | .ownerWritebackWaitEnd _ addr => decide (addr < 2 ^ 64)
  | .tenureEnd _ addr _ => decide (addr < 2 ^ 64)
  | .memoryReadData key => decide (key < 131072)
  | .memoryWriteComplete key => decide (key < 131072)
  | .lineFlowEnd _ addr => decide (addr < 2 ^ 64)
  | .busyLineEntryGrant => true
  | .tier1Allocation _ addr => decide (addr < 2 ^ 64)
  | .evictionFlow _ addr => decide (addr < 2 ^ 64)
  | .rebuild => true
  | .rebuildDone => true
  | .pvtHrCfgWrite .. => true
  | .pvtHrQuotaWrite .. => true
  | .quotaDone .. => true
  | .pvtMemberWrite .. => true
  | .pvtCtrlWrite .. => true
  | .pvtT2CfgWrite .. => true
  | .memberDead .. => true
  | .deadHostWalk => true
  | .walkDone .. => true
  | .departedClear .. => true
  | .snoopTimeout _ addr _ => decide (addr < 2 ^ 64)
  | .snoopResend _ addr _ => decide (addr < 2 ^ 64)
  | .pvtLostTailWrite .. => true
  | .shadowFlush => true
  | .privetRecovery => true
  | .recoveryDone => true
  | .tier1Uncorrectable .. => true
  | .stateLost => true
  | .spareWayMap .. => true
  | .lostBucket .. => true
  | .specWindowClose .. => true
  | .lvrSpecCfgWrite .. => true
  | .atomicOp key => decide (key < 131072)
  | .atomicHoldEnd _ addr => decide (addr < 2 ^ 64)
  | .commitPoint => true
  | .coverageRemovalWalk => true
  | .ruleFenceComplete .. => true
  | .mirrorFail .. => true
  | .mirrorRepair key => decide (key < 131072)
  | .csmMirCtrlWrite .. => true
  | .mirrorCursorAdvance .. => true
  | .csmSetWrite .. => true
  | .domViolClr .. => true
  | .domFabricWrite .. => true
  | .freezeDrainDone .. => true
  | .hingeSweep .. => true
  | .lvrEntWrite => true
  | .lvrEntFree => true
  | .sampleInstant => true
  | .snap => true
  | .lvrSmpCfgWrite .. => true
  | .sqTailDoorbell .. => true
  | .cqHeadDoorbell .. => true
  | .invalidateDoorbell .. => true
  | .entryStart .. => true
  | .entryComplete .. => true
  | .msixCoalesceTimer .. => true
  | .wqAdmCfgWrite .. => true
  | .nopEntry .. => true
  | .padEntry .. => true
  | .copyEntry .. => true
  | .fillEntry .. => true
  | .verifyEntry .. => true
  | .atomicEntry .. => true
  | .runEntry .. => true
  | .fenceMem .. => true
  | .fenceRule .. => true
  | .fenceAll .. => true
  | .createSq .. => true
  | .createCq .. => true
  | .destroySq .. => true
  | .destroyCq .. => true
  | .resetQueue .. => true
  | .invalidate .. => true
  | .domainCreate .. => true
  | .domainReset .. => true
  | .domainDestroy .. => true
  | .setCasement .. => true
  | .hingeFreeze .. => true
  | .hingeSave .. => true
  | .hingeRestore .. => true
  | .hingeThaw .. => true
  | .copyChannelAssign .. => true
  | .copyChecksDone .. => true
  | .chunkIssue .. => true
  | .chunkComplete .. => true
  | .poisonCopied .. => true
  | .cpeCtrlWrite .. => true
  | .threadStart .. => true
  | .dmload .. => true
  | .opAdd .. => true
  | .opSub .. => true
  | .opAnd .. => true
  | .opOr .. => true
  | .opXor .. => true
  | .shl .. => true
  | .shr .. => true
  | .sar .. => true
  | .mul .. => true
  | .mulh .. => true
  | .opMin .. => true
  | .opMax .. => true
  | .minu .. => true
  | .maxu .. => true
  | .popc .. => true
  | .clz .. => true
  | .bswap .. => true
  | .addi .. => true
  | .andi .. => true
  | .ori .. => true
  | .xori .. => true
  | .shli .. => true
  | .shri .. => true
  | .sari .. => true
  | .lui .. => true
  | .lih .. => true
  | .cmp .. => true
  | .cmpi .. => true
  | .ld .. => true
  | .st .. => true
  | .fld .. => true
  | .fst .. => true
  | .fat .. => true
  | .threadAccessComplete .. => true
  | .br .. => true
  | .jal .. => true
  | .jr .. => true
  | .lkp .. => true
  | .twr .. => true
  | .qpost .. => true
  | .qfetch .. => true
  | .dbellSqTail .. => true
  | .dbellCqHead .. => true
  | .dbellInvalidate .. => true
  | .csrrd _ _ _ imm => !imm.getLsbD 1
  | .csrwr _ _ _ imm _ => !imm.getLsbD 1
  | .csrset _ _ _ imm _ => !imm.getLsbD 1
  | .csrclr _ _ _ imm _ => imm.getLsbD 1
  | .fenceMemInstr .. => true
  | .cfence .. => true
  | .fenceAllInstr .. => true
  | .wait .. => true
  | .waitReturn .. => true
  | .send .. => true
  | .recv .. => true
  | .tbr .. => true
  | .route .. => true
  | .xlate .. => true
  | .hdrDstPbr .. => true
  | .hdrNospec .. => true
  | .hdrScavenger .. => true
  | .trap .. => true
  | .nopInstr .. => true
  | .halt .. => true
  | .threadTrap .. => true
  | .budget .. => true
  | .selfTimerExpiry .. => true
  | .selfTrecClr .. => true
  | .lockstepMismatch => true
  | .seqRpLoad .. => true
  | .seqRpClear .. => true
  | .seqRpSelWrite .. => true
  | .seqDomDmWrite .. => true
  | .seqCoreModeWrite .. => true
  | .seqCtrlLock .. => true
  | .tbLoad => true
  | .tbStep => true
  | .tbRateWrite .. => true
  | .clkinMeasurement .. => true
  | .ppsEdge .. => true
  | .ppsLoss => true
  | .fallbackCounterWrite .. => true
  | .slotSample .. => true
  | .shortComparator .. => true
  | .fastLimitComparator .. => true
  | .spcOnWrite .. => true
  | .spcOffWrite .. => true
  | .clrMeas .. => true
  | .staggerAdmit => true
  | .rampEnd .. => true
  | .pgRise .. => true
  | .pgFall .. => true
  | .faultTimerStop .. => true
  | .retryWaitExpiry .. => true
  | .retriesReset .. => true
  | .feedLost .. => true
  | .feedRestored .. => true
  | .reverse .. => true
  | .orgCtrlWrite .. => true
  | .shutterWrite .. => true
  | .tileUngated .. => true
  | .idleEntry => true
  | .idleExit => true
  | .dormantRequest .. => true
  | .dormantDrainTimeout .. => true
  | .dormantCommit => true
  | .wakeWindowEnd .. => true
  | .wakeRequest .. => true
  | .wakeTimerExpiry => true
  | .wake .. => true
  | .wakeAbort .. => true
  | .completionTimeout key => decide (key < 131072)
  | .latePeriodEnd key => decide (key < 131072)
  | .lateResponse .. => true
  | .viral .. => true
  | .viralClear .. => true
  | .journalRecord .. => true
  | .coalesceWindowEnd .. => true
  | .errJrnTailWrite .. => true
  | .patrolScrub .. => true
  | .tableReload .. => true
  | .domFerrClr .. => true
  | .domFnClr fn _ => decide (fn < 5119)
  | .eepromInterfaceWrite _ off bytes _ _ => decide (off.val + bytes.length ≤ 32768)
  | .hdmDecoderCommit .. => true
  | .hdmDecoderUncommit .. => true
  | .firmwareAssistedAccess _ _ time => decide (time ≤ 400)
  | .fwaLate .. => true
  | .tfQuirkWrite .. => true
  | .accessSizeError _ off size _ => decide (¬((size = 4 ∧ off.val % 4 = 0) ∨ (size = 8 ∧ off.val % 8 = 0)))
  | .lowDwordWriteHold .. => true
  | .longWriteTlp _ _ dws _ _ => decide (2 < dws.length)
  | .lockedFieldWrite .. => true
  | .irqEoi .. => true
  | .summaryVectorSignal .. => true
  | .mctpRegisterRead cmd _ _ _ => decide (cmd ≠ 2)
  | .mctpRegisterWrite .. => true
  | .registerWrite .. => true
  | .rcFieldRead .. => true
  | .enableDeassert => true
  | .mgPerstNAssert => true
  | .d2dClockLaneFail .. => true
  | .linkCreditReturn .. => true
  | .slotChannelOff .. => true
  | .managerFirmwareRestart => true
  | .e7LinkUpLag .. => true
  | .vfEnable _ numVfs => decide (numVfs ≤ 4095)

end Sys2Proof
end

