-- ==== Sys2Proof/Decode.lean ====
section
/-! DEFINITION. Sys2Proof/Decode.lean: the commands that words spell by the table's bits. spec/opcode_table.json gives no row any bits: the block
takes commands, not words, so no word spells one. -/
namespace Sys2Proof

/-- The command that a word of nbits bits spells: none, since the table gives its rows no bits. -/
def decodeTableWord (nbits w : Nat) : Option Instr :=
  match nbits, w with
  | _, _ => none

end Sys2Proof
end

