-- ==== Sys2Proof/Config.lean ====
section
/-! DEFINITION. Sys2Proof/Config.lean: what one module fixes and the manual leaves open: fused identity, and the
free values. None of them has a body that a proof could look into. -/
namespace Sys2Proof

/-- The temperature grade fused into the module, `GLB_IDENT.GRADE`: true for KZS-1024-X (R1, R2). -/
opaque Config.gradeX : Bool

/-- Fused at manufacture: what `GLB_UID` is made from. -/
opaque Config.uidSeed : Nat

/-- The module identifier `GLB_UID`, never 0 (R624). -/
def Config.uid : Word := BitVec.ofNat 64 (Config.uidSeed % (2 ^ 64 - 1) + 1)

/-- What link training finds on the board: the receive polarity of a lane is inverted (R122), a port's lanes are reversed (R123). -/
opaque Config.wirePol : Nat → Bool
opaque Config.wireRev : Nat → Bool

/-- Kamtor's key hashes in key-hash fuse slots 0 and 1, programmed at manufacture (R79). -/
opaque Config.kamtorKey : Nat → Nat

/-- A value that the manual leaves open (assumption log 5): the n-th one that this run asks for. -/
opaque Config.freeWord : Nat → Word

/-- Installed capacity of each local DDR5 channel in bytes: the board's RDIMMs (assumption log 10). -/
opaque Config.channelBytes : Nat

/-- The route pipe, of the four of its tile slice, that takes a port's requests (R14, R457; assumption log 28). -/
opaque Config.routePipe : Nat → BitVec 2

/-- The TF-256's reset configuration (R596), which the manual does not give: port, width code, whether upstream. -/
opaque Config.tfResetPorts : List (Nat × Nat × Bool)

/-- The reset value of `WKT_THERM_CFG.WARN_C` (R635). -/
def Config.warnReset : Nat := if Config.gradeX then 100 else 90

/-- The maximum junction temperature of the ordering code in °C (R1). -/
def Config.maxJunction : Nat := if Config.gradeX then 105 else 95

end Sys2Proof
end

