-- ==== Sys2Proof/Machine/RegMap.lean ====
section
/-! DEFINITION. Sys2Proof/Machine/RegMap.lean: the BAR0 register map (R615 and the register tables of the
chapters): every register's offset as a function of its index, every field of it as a reference (offset, low bit,
width), and the descriptor table that gives each field's access type (R10) and reset value. The names are the
manual's: register NAME is `NAME`, its field FIELD is `NAME_FIELD`. -/
namespace Sys2Proof.Machine

/-- A field of a register: the register's BAR0 offset, the field's lowest bit and its width. -/
structure Fld where
  off : Nat
  lo : Nat
  w : Nat
deriving DecidableEq, Repr

/-- Access types of R10. -/
inductive Acc where
  | rw | ro | rw1c | rw1s | wo | rwl | rc
deriving DecidableEq, Repr

/-- One field of a register table: name, lowest bit, width, access type, reset value. -/
structure FieldDesc where
  name : String
  lo : Nat
  w : Nat
  acc : Acc
  rst : Nat
deriving DecidableEq, Repr

/-- One register table: name, BAR0 offset of the first register, the number and spacing of its copies (outermost
first), its width in bytes, its fields. -/
structure RegDesc where
  name : String
  base : Nat
  dims : List (Nat × Nat)
  bytes : Nat
  fields : List FieldDesc
deriving DecidableEq, Repr

/-- What remains of a distance from a table's first register once whole copies are taken out: none where the distance
lies in no copy. -/
def dimRest : List (Nat × Nat) → Nat → Option Nat
  | [], r => some r
  | (n, st) :: ds, r => if r / st < n then dimRest ds (r % st) else none

/-- The byte of the register that a BAR0 offset names, where this table holds it. -/
def RegDesc.byteOf (d : RegDesc) (off : Nat) : Option Nat :=
  if off < d.base then none
  else match dimRest d.dims (off - d.base) with
    | some r => if r < d.bytes then some r else none
    | none => none

/-- A bit mask of the fields whose access type passes the test. -/
def RegDesc.mask (d : RegDesc) (p : Acc → Bool) : Nat :=
  d.fields.foldl (fun a f => if p f.acc then a ||| ((2 ^ f.w - 1) <<< f.lo) else a) 0

/-- The register's reset value: each field's reset value in its place, RSV bits 0. -/
def RegDesc.rstVal (d : RegDesc) : Nat :=
  d.fields.foldl (fun a f => a ||| (f.rst <<< f.lo)) 0

/-- `GLB_IDENT` (23_register_map). -/
def GLB_IDENT : Nat := 0
def GLB_IDENT_DEVICE : Fld := ⟨GLB_IDENT, 0, 16⟩
def GLB_IDENT_REVISION : Fld := ⟨GLB_IDENT, 16, 8⟩
def GLB_IDENT_GRADE : Fld := ⟨GLB_IDENT, 24, 1⟩
/-- `GLB_MODE` (23_register_map). -/
def GLB_MODE : Nat := 4
def GLB_MODE_MODE : Fld := ⟨GLB_MODE, 0, 1⟩
def GLB_MODE_PERSONALITIES : Fld := ⟨GLB_MODE, 1, 3⟩
def GLB_MODE_LATCHED : Fld := ⟨GLB_MODE, 4, 1⟩
/-- `GLB_UID` (23_register_map). -/
def GLB_UID : Nat := 8
def GLB_UID_UID : Fld := ⟨GLB_UID, 0, 64⟩
/-- `GLB_IRQ_STATUS` (23_register_map). -/
def GLB_IRQ_STATUS : Nat := 0x20
def GLB_IRQ_STATUS_SUMMARY : Fld := ⟨GLB_IRQ_STATUS, 0, 11⟩
/-- `GLB_IRQ_MASK` (23_register_map). -/
def GLB_IRQ_MASK : Nat := 0x24
def GLB_IRQ_MASK_MASK : Fld := ⟨GLB_IRQ_MASK, 0, 11⟩
/-- `GLB_IRQ_EOI` (23_register_map). -/
def GLB_IRQ_EOI : Nat := 0x28
def GLB_IRQ_EOI_EOI : Fld := ⟨GLB_IRQ_EOI, 0, 11⟩
/-- `GLB_IRQ_SEQ_EN` (23_register_map). -/
def GLB_IRQ_SEQ_EN : Nat := 0x2C
def GLB_IRQ_SEQ_EN_SEQ_EN : Fld := ⟨GLB_IRQ_SEQ_EN, 0, 11⟩
/-- `GLB_ACC_EVENT` (23_register_map). -/
def GLB_ACC_EVENT : Nat := 0x30
def GLB_ACC_EVENT_SIZE_ERR : Fld := ⟨GLB_ACC_EVENT, 0, 1⟩
def GLB_ACC_EVENT_LOCKED : Fld := ⟨GLB_ACC_EVENT, 1, 1⟩
/-- `GLB_ACC_EVENT_EN` (23_register_map). -/
def GLB_ACC_EVENT_EN : Nat := 0x34
def GLB_ACC_EVENT_EN_SIZE_ERR : Fld := ⟨GLB_ACC_EVENT_EN, 0, 1⟩
def GLB_ACC_EVENT_EN_LOCKED : Fld := ⟨GLB_ACC_EVENT_EN, 1, 1⟩
/-- `GLB_ACC_ADDR` (23_register_map). -/
def GLB_ACC_ADDR : Nat := 0x38
def GLB_ACC_ADDR_OFFSET : Fld := ⟨GLB_ACC_ADDR, 0, 28⟩
/-- `GLB_TILE_PEND` (23_register_map). -/
def GLB_TILE_PEND : Nat := 0x100
def GLB_TILE_PEND_TILES : Fld := ⟨GLB_TILE_PEND, 0, 64⟩
/-- `GLB_LANE_PEND` (23_register_map). -/
def GLB_LANE_PEND (i : Nat) : Nat := 0x200 + i * 4
def GLB_LANE_PEND_LANES (i : Nat) : Fld := ⟨GLB_LANE_PEND i, 0, 32⟩
/-- `GLB_PLANE_CTRL` (07_switch_core). -/
def GLB_PLANE_CTRL : Nat := 0x2000
def GLB_PLANE_CTRL_OUT : Fld := ⟨GLB_PLANE_CTRL, 0, 4⟩
/-- `GLB_PLANE_STATUS` (07_switch_core). -/
def GLB_PLANE_STATUS : Nat := 0x2004
def GLB_PLANE_STATUS_IN_SERVICE : Fld := ⟨GLB_PLANE_STATUS, 0, 4⟩
def GLB_PLANE_STATUS_CELL_ERRS : Fld := ⟨GLB_PLANE_STATUS, 8, 16⟩
/-- `GLB_PLANE_EVENT` (07_switch_core). -/
def GLB_PLANE_EVENT : Nat := 0x2008
def GLB_PLANE_EVENT_PLANE_OUT : Fld := ⟨GLB_PLANE_EVENT, 0, 1⟩
def GLB_PLANE_EVENT_DEGRADED : Fld := ⟨GLB_PLANE_EVENT, 1, 1⟩
/-- `GLB_PLANE_EVENT_EN` (07_switch_core). -/
def GLB_PLANE_EVENT_EN : Nat := 0x200C
def GLB_PLANE_EVENT_EN_PLANE_OUT : Fld := ⟨GLB_PLANE_EVENT_EN, 0, 1⟩
def GLB_PLANE_EVENT_EN_DEGRADED : Fld := ⟨GLB_PLANE_EVENT_EN, 1, 1⟩
/-- `GLB_PLANE_CFG` (07_switch_core). -/
def GLB_PLANE_CFG : Nat := 0x2010
def GLB_PLANE_CFG_ERR_THRESH : Fld := ⟨GLB_PLANE_CFG, 0, 8⟩
def GLB_PLANE_CFG_RESEQ_TIMEOUT : Fld := ⟨GLB_PLANE_CFG, 8, 16⟩
/-- `TF_STATUS` (22_tf256_mode). -/
def TF_STATUS : Nat := 0x8000
def TF_STATUS_TF_MODE : Fld := ⟨TF_STATUS, 0, 1⟩
def TF_STATUS_PERSONALITIES : Fld := ⟨TF_STATUS, 1, 3⟩
def TF_STATUS_CFG_VALID : Fld := ⟨TF_STATUS, 4, 4⟩
def TF_STATUS_KFUNC : Fld := ⟨TF_STATUS, 8, 1⟩
def TF_STATUS_PREV_TF : Fld := ⟨TF_STATUS, 9, 1⟩
/-- `TF_QUIRK` (22_tf256_mode). -/
def TF_QUIRK (q : Nat) : Nat := 0x8010 + q * 4
def TF_QUIRK_SPEED64 (q : Nat) : Fld := ⟨TF_QUIRK q, 0, 1⟩
def TF_QUIRK_E7 (q : Nat) : Fld := ⟨TF_QUIRK q, 1, 1⟩
/-- `TF_IDENT_REVEAL` (22_tf256_mode). -/
def TF_IDENT_REVEAL (q : Nat) : Nat := 0x8020 + q * 4
def TF_IDENT_REVEAL_REVEAL (q : Nat) : Fld := ⟨TF_IDENT_REVEAL q, 0, 1⟩
def TF_IDENT_REVEAL_IN_EFFECT (q : Nat) : Fld := ⟨TF_IDENT_REVEAL q, 1, 1⟩
/-- `TF_FWA` (22_tf256_mode). -/
def TF_FWA (q : Nat) : Nat := 0x8030 + q * 4
def TF_FWA_MAX (q : Nat) : Fld := ⟨TF_FWA q, 0, 16⟩
def TF_FWA_LATE (q : Nat) : Fld := ⟨TF_FWA q, 16, 16⟩
/-- `SPC_GRP_MASK` (19_slot_power). -/
def SPC_GRP_MASK (g : Nat) : Nat := 0x100C00 + g * 8
def SPC_GRP_MASK_MASK (g : Nat) : Fld := ⟨SPC_GRP_MASK g, 0, 64⟩
/-- `SPC_CTRL` (19_slot_power). -/
def SPC_CTRL (c : Nat) : Nat := 0x101000 + c * 0x40
def SPC_CTRL_ON (c : Nat) : Fld := ⟨SPC_CTRL c, 0, 1⟩
def SPC_CTRL_RETRY_MAX (c : Nat) : Fld := ⟨SPC_CTRL c, 1, 3⟩
def SPC_CTRL_RETRY_BASE (c : Nat) : Fld := ⟨SPC_CTRL c, 4, 4⟩
def SPC_CTRL_CLR_MEAS (c : Nat) : Fld := ⟨SPC_CTRL c, 8, 1⟩
/-- `SPC_SENSE` (19_slot_power). -/
def SPC_SENSE (c : Nat) : Nat := 0x101004 + c * 0x40
def SPC_SENSE_RSHUNT (c : Nat) : Fld := ⟨SPC_SENSE c, 0, 10⟩
def SPC_SENSE_ITRIP (c : Nat) : Fld := ⟨SPC_SENSE c, 16, 16⟩
/-- `SPC_TIMER` (19_slot_power). -/
def SPC_TIMER (c : Nat) : Nat := 0x101008 + c * 0x40
def SPC_TIMER_OC_TIME (c : Nat) : Fld := ⟨SPC_TIMER c, 0, 16⟩
def SPC_TIMER_I2T_LIMIT (c : Nat) : Fld := ⟨SPC_TIMER c, 16, 16⟩
/-- `SPC_RAMP` (19_slot_power). -/
def SPC_RAMP (c : Nat) : Nat := 0x10100C + c * 0x40
def SPC_RAMP_RATE (c : Nat) : Fld := ⟨SPC_RAMP c, 0, 7⟩
def SPC_RAMP_PG_QUAL (c : Nat) : Fld := ⟨SPC_RAMP c, 8, 8⟩
def SPC_RAMP_INRUSH_EST (c : Nat) : Fld := ⟨SPC_RAMP c, 16, 16⟩
/-- `SPC_ENERGY` (19_slot_power). -/
def SPC_ENERGY (c : Nat) : Nat := 0x101010 + c * 0x40
def SPC_ENERGY_INSERT_BUDGET (c : Nat) : Fld := ⟨SPC_ENERGY c, 0, 11⟩
def SPC_ENERGY_FAULT_E (c : Nat) : Fld := ⟨SPC_ENERGY c, 16, 16⟩
/-- `PPC_SOA` (19_slot_power). -/
def PPC_SOA (c : Nat) : Nat := 0x101014 + c * 0x40
def PPC_SOA_SOA_PWR (c : Nat) : Fld := ⟨PPC_SOA c, 0, 16⟩
/-- `SPC_STATUS` (19_slot_power). -/
def SPC_STATUS (c : Nat) : Nat := 0x101018 + c * 0x40
def SPC_STATUS_STATE (c : Nat) : Fld := ⟨SPC_STATUS c, 0, 3⟩
def SPC_STATUS_PG (c : Nat) : Fld := ⟨SPC_STATUS c, 3, 1⟩
def SPC_STATUS_PG_WARN (c : Nat) : Fld := ⟨SPC_STATUS c, 4, 1⟩
def SPC_STATUS_LIMITING (c : Nat) : Fld := ⟨SPC_STATUS c, 5, 1⟩
def SPC_STATUS_TIMER (c : Nat) : Fld := ⟨SPC_STATUS c, 6, 1⟩
def SPC_STATUS_OWNED (c : Nat) : Fld := ⟨SPC_STATUS c, 7, 1⟩
def SPC_STATUS_TRIP_CAUSE (c : Nat) : Fld := ⟨SPC_STATUS c, 8, 4⟩
def SPC_STATUS_RETRIES (c : Nat) : Fld := ⟨SPC_STATUS c, 12, 3⟩
/-- `SPC_EVENT` (19_slot_power). -/
def SPC_EVENT (c : Nat) : Nat := 0x10101C + c * 0x40
def SPC_EVENT_TRIP (c : Nat) : Fld := ⟨SPC_EVENT c, 0, 1⟩
def SPC_EVENT_PG_RISE (c : Nat) : Fld := ⟨SPC_EVENT c, 1, 1⟩
def SPC_EVENT_PG_FALL (c : Nat) : Fld := ⟨SPC_EVENT c, 2, 1⟩
def SPC_EVENT_PG_WARN (c : Nat) : Fld := ⟨SPC_EVENT c, 3, 1⟩
def SPC_EVENT_RETRY (c : Nat) : Fld := ⟨SPC_EVENT c, 4, 1⟩
def SPC_EVENT_CFG_REFUSED (c : Nat) : Fld := ⟨SPC_EVENT c, 5, 1⟩
def SPC_EVENT_CTRL_REFUSED (c : Nat) : Fld := ⟨SPC_EVENT c, 6, 1⟩
/-- `SPC_EVENT_EN` (19_slot_power). -/
def SPC_EVENT_EN (c : Nat) : Nat := 0x101020 + c * 0x40
def SPC_EVENT_EN_TRIP (c : Nat) : Fld := ⟨SPC_EVENT_EN c, 0, 1⟩
def SPC_EVENT_EN_PG_RISE (c : Nat) : Fld := ⟨SPC_EVENT_EN c, 1, 1⟩
def SPC_EVENT_EN_PG_FALL (c : Nat) : Fld := ⟨SPC_EVENT_EN c, 2, 1⟩
def SPC_EVENT_EN_PG_WARN (c : Nat) : Fld := ⟨SPC_EVENT_EN c, 3, 1⟩
def SPC_EVENT_EN_RETRY (c : Nat) : Fld := ⟨SPC_EVENT_EN c, 4, 1⟩
def SPC_EVENT_EN_CFG_REFUSED (c : Nat) : Fld := ⟨SPC_EVENT_EN c, 5, 1⟩
def SPC_EVENT_EN_CTRL_REFUSED (c : Nat) : Fld := ⟨SPC_EVENT_EN c, 6, 1⟩
/-- `SPC_PEAK` (19_slot_power). -/
def SPC_PEAK (c : Nat) : Nat := 0x101024 + c * 0x40
def SPC_PEAK_I (c : Nat) : Fld := ⟨SPC_PEAK c, 0, 16⟩
def SPC_PEAK_V (c : Nat) : Fld := ⟨SPC_PEAK c, 16, 16⟩
/-- `SPC_MIN` (19_slot_power). -/
def SPC_MIN (c : Nat) : Nat := 0x101028 + c * 0x40
def SPC_MIN_I (c : Nat) : Fld := ⟨SPC_MIN c, 0, 16⟩
def SPC_MIN_V (c : Nat) : Fld := ⟨SPC_MIN c, 16, 16⟩
/-- `SPC_ENERGY_ACC` (19_slot_power). -/
def SPC_ENERGY_ACC (c : Nat) : Nat := 0x101030 + c * 0x40
def SPC_ENERGY_ACC_UJ (c : Nat) : Fld := ⟨SPC_ENERGY_ACC c, 0, 64⟩
/-- `SPC_INS_ENERGY` (19_slot_power). -/
def SPC_INS_ENERGY (c : Nat) : Nat := 0x101038 + c * 0x40
def SPC_INS_ENERGY_MJ (c : Nat) : Fld := ⟨SPC_INS_ENERGY c, 0, 32⟩
/-- `ORG_CTRL` (19_slot_power). -/
def ORG_CTRL : Nat := 0x103000
def ORG_CTRL_MODE : Fld := ⟨ORG_CTRL, 0, 2⟩
def ORG_CTRL_EN_A : Fld := ⟨ORG_CTRL, 2, 1⟩
def ORG_CTRL_EN_B : Fld := ⟨ORG_CTRL, 3, 1⟩
def ORG_CTRL_CLR_MEAS : Fld := ⟨ORG_CTRL, 4, 1⟩
def ORG_CTRL_BUS_INRUSH : Fld := ⟨ORG_CTRL, 16, 16⟩
/-- `ORG_CFG` (19_slot_power). -/
def ORG_CFG : Nat := 0x103004
def ORG_CFG_RDSON_A : Fld := ⟨ORG_CFG, 0, 8⟩
def ORG_CFG_RDSON_B : Fld := ⟨ORG_CFG, 8, 8⟩
def ORG_CFG_UV : Fld := ⟨ORG_CFG, 16, 8⟩
def ORG_CFG_OV : Fld := ⟨ORG_CFG, 24, 8⟩
/-- `ORG_STATUS` (19_slot_power). -/
def ORG_STATUS : Nat := 0x103008
def ORG_STATUS_A_VALID : Fld := ⟨ORG_STATUS, 0, 1⟩
def ORG_STATUS_B_VALID : Fld := ⟨ORG_STATUS, 1, 1⟩
def ORG_STATUS_A_ON : Fld := ⟨ORG_STATUS, 2, 1⟩
def ORG_STATUS_B_ON : Fld := ⟨ORG_STATUS, 3, 1⟩
def ORG_STATUS_A_REV : Fld := ⟨ORG_STATUS, 4, 1⟩
def ORG_STATUS_B_REV : Fld := ⟨ORG_STATUS, 5, 1⟩
def ORG_STATUS_RAMP_SUM : Fld := ⟨ORG_STATUS, 16, 16⟩
/-- `ORG_EVENT` (19_slot_power). -/
def ORG_EVENT : Nat := 0x10300C
def ORG_EVENT_FEED_A_LOST : Fld := ⟨ORG_EVENT, 0, 1⟩
def ORG_EVENT_FEED_B_LOST : Fld := ⟨ORG_EVENT, 1, 1⟩
def ORG_EVENT_REVERSE : Fld := ⟨ORG_EVENT, 2, 1⟩
def ORG_EVENT_SWITCHOVER : Fld := ⟨ORG_EVENT, 3, 1⟩
def ORG_EVENT_FEED_RESTORED : Fld := ⟨ORG_EVENT, 4, 1⟩
/-- `ORG_EVENT_EN` (19_slot_power). -/
def ORG_EVENT_EN : Nat := 0x103010
def ORG_EVENT_EN_FEED_A_LOST : Fld := ⟨ORG_EVENT_EN, 0, 1⟩
def ORG_EVENT_EN_FEED_B_LOST : Fld := ⟨ORG_EVENT_EN, 1, 1⟩
def ORG_EVENT_EN_REVERSE : Fld := ⟨ORG_EVENT_EN, 2, 1⟩
def ORG_EVENT_EN_SWITCHOVER : Fld := ⟨ORG_EVENT_EN, 3, 1⟩
def ORG_EVENT_EN_FEED_RESTORED : Fld := ⟨ORG_EVENT_EN, 4, 1⟩
/-- `ORG_PEAK` (19_slot_power). -/
def ORG_PEAK (f : Nat) : Nat := 0x103020 + f * 0x20
def ORG_PEAK_I (f : Nat) : Fld := ⟨ORG_PEAK f, 0, 16⟩
def ORG_PEAK_V (f : Nat) : Fld := ⟨ORG_PEAK f, 16, 16⟩
/-- `ORG_MIN` (19_slot_power). -/
def ORG_MIN (f : Nat) : Nat := 0x103024 + f * 0x20
def ORG_MIN_I (f : Nat) : Fld := ⟨ORG_MIN f, 0, 16⟩
def ORG_MIN_V (f : Nat) : Fld := ⟨ORG_MIN f, 16, 16⟩
/-- `ORG_ENERGY_ACC` (19_slot_power). -/
def ORG_ENERGY_ACC (f : Nat) : Nat := 0x103028 + f * 0x20
def ORG_ENERGY_ACC_UJ (f : Nat) : Fld := ⟨ORG_ENERGY_ACC f, 0, 64⟩
/-- `WKT_PWR_CTRL` (20_power_states). -/
def WKT_PWR_CTRL : Nat := 0x104000
def WKT_PWR_CTRL_REQ : Fld := ⟨WKT_PWR_CTRL, 0, 2⟩
def WKT_PWR_CTRL_IDLE_EN : Fld := ⟨WKT_PWR_CTRL, 2, 1⟩
def WKT_PWR_CTRL_FORCE : Fld := ⟨WKT_PWR_CTRL, 3, 1⟩
def WKT_PWR_CTRL_IDLE_HOLD : Fld := ⟨WKT_PWR_CTRL, 8, 8⟩
/-- `WKT_PWR_STATUS` (20_power_states). -/
def WKT_PWR_STATUS : Nat := 0x104004
def WKT_PWR_STATUS_STATE : Fld := ⟨WKT_PWR_STATUS, 0, 3⟩
def WKT_PWR_STATUS_LAST_WAKE : Fld := ⟨WKT_PWR_STATUS, 4, 3⟩
def WKT_PWR_STATUS_ABORT_CODE : Fld := ⟨WKT_PWR_STATUS, 8, 4⟩
/-- `WKT_WAKE_EN` (20_power_states). -/
def WKT_WAKE_EN : Nat := 0x104008
def WKT_WAKE_EN_EN : Fld := ⟨WKT_WAKE_EN, 0, 5⟩
/-- `WKT_PWR_EVENT` (20_power_states). -/
def WKT_PWR_EVENT : Nat := 0x10400C
def WKT_PWR_EVENT_ENTRY_ABORT : Fld := ⟨WKT_PWR_EVENT, 0, 1⟩
def WKT_PWR_EVENT_WAKE_ABORT : Fld := ⟨WKT_PWR_EVENT, 1, 1⟩
def WKT_PWR_EVENT_WOKE : Fld := ⟨WKT_PWR_EVENT, 2, 1⟩
def WKT_PWR_EVENT_SHUTTER_REFUSED : Fld := ⟨WKT_PWR_EVENT, 3, 1⟩
/-- `WKT_PWR_EVENT_EN` (20_power_states). -/
def WKT_PWR_EVENT_EN : Nat := 0x104010
def WKT_PWR_EVENT_EN_ENTRY_ABORT : Fld := ⟨WKT_PWR_EVENT_EN, 0, 1⟩
def WKT_PWR_EVENT_EN_WAKE_ABORT : Fld := ⟨WKT_PWR_EVENT_EN, 1, 1⟩
def WKT_PWR_EVENT_EN_WOKE : Fld := ⟨WKT_PWR_EVENT_EN, 2, 1⟩
def WKT_PWR_EVENT_EN_SHUTTER_REFUSED : Fld := ⟨WKT_PWR_EVENT_EN, 3, 1⟩
/-- `WKT_WAKE_TIMER` (20_power_states). -/
def WKT_WAKE_TIMER : Nat := 0x104018
def WKT_WAKE_TIMER_MS : Fld := ⟨WKT_WAKE_TIMER, 0, 32⟩
/-- `WKT_KEEP_SEL` (20_power_states). -/
def WKT_KEEP_SEL : Nat := 0x104020
def WKT_KEEP_SEL_FIXED : Fld := ⟨WKT_KEEP_SEL, 0, 8⟩
def WKT_KEEP_SEL_SEL : Fld := ⟨WKT_KEEP_SEL, 8, 8⟩
/-- `WKT_SHUTTER` (20_power_states). -/
def WKT_SHUTTER : Nat := 0x104040
def WKT_SHUTTER_TILE : Fld := ⟨WKT_SHUTTER, 0, 64⟩
/-- `WKT_SHUTTER_STATUS` (20_power_states). -/
def WKT_SHUTTER_STATUS : Nat := 0x104048
def WKT_SHUTTER_STATUS_TILE : Fld := ⟨WKT_SHUTTER_STATUS, 0, 64⟩
/-- `WKT_SHUTTER_DIE` (20_power_states). -/
def WKT_SHUTTER_DIE : Nat := 0x104050
def WKT_SHUTTER_DIE_DIE : Fld := ⟨WKT_SHUTTER_DIE, 0, 8⟩
/-- `WKT_THERM_CFG` (02_module_signals). -/
def WKT_THERM_CFG : Nat := 0x105000
def WKT_THERM_CFG_WARN_C : Fld := ⟨WKT_THERM_CFG, 0, 8⟩
/-- `WKT_THERM_EVENT` (02_module_signals). -/
def WKT_THERM_EVENT : Nat := 0x105004
def WKT_THERM_EVENT_WARN : Fld := ⟨WKT_THERM_EVENT, 0, 1⟩
/-- `WKT_THERM_EVENT_EN` (02_module_signals). -/
def WKT_THERM_EVENT_EN : Nat := 0x105008
def WKT_THERM_EVENT_EN_WARN : Fld := ⟨WKT_THERM_EVENT_EN, 0, 1⟩
/-- `WKT_BOOT_STATUS` (03_staged_start). -/
def WKT_BOOT_STATUS : Nat := 0x10F000
def WKT_BOOT_STATUS_STAGE : Fld := ⟨WKT_BOOT_STATUS, 0, 3⟩
def WKT_BOOT_STATUS_SLOT : Fld := ⟨WKT_BOOT_STATUS, 3, 1⟩
def WKT_BOOT_STATUS_FALLBACK : Fld := ⟨WKT_BOOT_STATUS, 4, 1⟩
def WKT_BOOT_STATUS_TRAIN_CACHE : Fld := ⟨WKT_BOOT_STATUS, 5, 1⟩
def WKT_BOOT_STATUS_BAD_A : Fld := ⟨WKT_BOOT_STATUS, 6, 1⟩
def WKT_BOOT_STATUS_BAD_B : Fld := ⟨WKT_BOOT_STATUS, 7, 1⟩
def WKT_BOOT_STATUS_HALT_CODE : Fld := ⟨WKT_BOOT_STATUS, 8, 4⟩
def WKT_BOOT_STATUS_ATTEMPTS : Fld := ⟨WKT_BOOT_STATUS, 12, 2⟩
def WKT_BOOT_STATUS_LAST_RESET : Fld := ⟨WKT_BOOT_STATUS, 16, 8⟩
def WKT_BOOT_STATUS_PREV_RESET : Fld := ⟨WKT_BOOT_STATUS, 24, 8⟩
/-- `WKT_RESET_CTRL` (03_staged_start). -/
def WKT_RESET_CTRL : Nat := 0x10F008
def WKT_RESET_CTRL_TYPE : Fld := ⟨WKT_RESET_CTRL, 0, 3⟩
def WKT_RESET_CTRL_TILE : Fld := ⟨WKT_RESET_CTRL, 8, 6⟩
def WKT_RESET_CTRL_KEY : Fld := ⟨WKT_RESET_CTRL, 16, 16⟩
/-- `WKT_THERM_SENSOR` (02_module_signals). -/
def WKT_THERM_SENSOR (k : Nat) : Nat := 0x105100 + k * 4
def WKT_THERM_SENSOR_TEMP (k : Nat) : Fld := ⟨WKT_THERM_SENSOR k, 0, 8⟩
/-- `TB_NS` (18_counters_timebase). -/
def TB_NS : Nat := 0x200000
def TB_NS_NS : Fld := ⟨TB_NS, 0, 64⟩
/-- `TB_FRAC` (18_counters_timebase). -/
def TB_FRAC : Nat := 0x200008
def TB_FRAC_FRAC : Fld := ⟨TB_FRAC, 0, 16⟩
/-- `TB_CTRL` (18_counters_timebase). -/
def TB_CTRL : Nat := 0x200010
def TB_CTRL_PPS_EN : Fld := ⟨TB_CTRL, 0, 1⟩
def TB_CTRL_PPS_FORCE : Fld := ⟨TB_CTRL, 1, 1⟩
def TB_CTRL_CLKIN_EN : Fld := ⟨TB_CTRL, 2, 1⟩
def TB_CTRL_LOAD : Fld := ⟨TB_CTRL, 3, 1⟩
def TB_CTRL_STEP : Fld := ⟨TB_CTRL, 4, 1⟩
/-- `TB_RATE` (18_counters_timebase). -/
def TB_RATE : Nat := 0x200014
def TB_RATE_RATE : Fld := ⟨TB_RATE, 0, 32⟩
/-- `TB_WINDOW` (18_counters_timebase). -/
def TB_WINDOW : Nat := 0x200018
def TB_WINDOW_WINDOW : Fld := ⟨TB_WINDOW, 0, 20⟩
/-- `TB_SET` (18_counters_timebase). -/
def TB_SET : Nat := 0x200020
def TB_SET_VALUE : Fld := ⟨TB_SET, 0, 64⟩
/-- `TB_PPS_CAPT` (18_counters_timebase). -/
def TB_PPS_CAPT : Nat := 0x200028
def TB_PPS_CAPT_VALUE : Fld := ⟨TB_PPS_CAPT, 0, 64⟩
/-- `TB_PPS_OFFSET` (18_counters_timebase). -/
def TB_PPS_OFFSET : Nat := 0x200030
def TB_PPS_OFFSET_VALUE : Fld := ⟨TB_PPS_OFFSET, 0, 64⟩
/-- `TB_PPS_STATUS` (18_counters_timebase). -/
def TB_PPS_STATUS : Nat := 0x200038
def TB_PPS_STATUS_LOCKED : Fld := ⟨TB_PPS_STATUS, 0, 1⟩
def TB_PPS_STATUS_EDGES : Fld := ⟨TB_PPS_STATUS, 16, 16⟩
/-- `TB_EVENT` (18_counters_timebase). -/
def TB_EVENT : Nat := 0x200040
def TB_EVENT_PPS_SNAP : Fld := ⟨TB_EVENT, 0, 1⟩
def TB_EVENT_PPS_FAR : Fld := ⟨TB_EVENT, 1, 1⟩
def TB_EVENT_PPS_EARLY : Fld := ⟨TB_EVENT, 2, 1⟩
def TB_EVENT_PPS_LOSS : Fld := ⟨TB_EVENT, 3, 1⟩
/-- `TB_EVENT_EN` (18_counters_timebase). -/
def TB_EVENT_EN : Nat := 0x200044
def TB_EVENT_EN_PPS_SNAP : Fld := ⟨TB_EVENT_EN, 0, 1⟩
def TB_EVENT_EN_PPS_FAR : Fld := ⟨TB_EVENT_EN, 1, 1⟩
def TB_EVENT_EN_PPS_EARLY : Fld := ⟨TB_EVENT_EN, 2, 1⟩
def TB_EVENT_EN_PPS_LOSS : Fld := ⟨TB_EVENT_EN, 3, 1⟩
/-- `ERR_CTRL` (21_ras). -/
def ERR_CTRL : Nat := 0x300000
def ERR_CTRL_COALESCE : Fld := ⟨ERR_CTRL, 0, 8⟩
/-- `ERR_CTO` (21_ras). -/
def ERR_CTO : Nat := 0x300004
def ERR_CTO_PERIOD : Fld := ⟨ERR_CTO, 0, 23⟩
def ERR_CTO_LATE_MULT : Fld := ⟨ERR_CTO, 24, 4⟩
/-- `ERR_JRN_BASE` (21_ras). -/
def ERR_JRN_BASE : Nat := 0x300010
def ERR_JRN_BASE_BASE : Fld := ⟨ERR_JRN_BASE, 6, 58⟩
/-- `ERR_JRN_CFG` (21_ras). -/
def ERR_JRN_CFG : Nat := 0x300018
def ERR_JRN_CFG_LOG2_ENTRIES : Fld := ⟨ERR_JRN_CFG, 0, 5⟩
/-- `ERR_JRN_HEAD` (21_ras). -/
def ERR_JRN_HEAD : Nat := 0x30001C
def ERR_JRN_HEAD_COUNT : Fld := ⟨ERR_JRN_HEAD, 0, 32⟩
/-- `ERR_JRN_TAIL` (21_ras). -/
def ERR_JRN_TAIL : Nat := 0x300020
def ERR_JRN_TAIL_COUNT : Fld := ⟨ERR_JRN_TAIL, 0, 32⟩
/-- `ERR_JRN_DROP` (21_ras). -/
def ERR_JRN_DROP : Nat := 0x300024
def ERR_JRN_DROP_COUNT : Fld := ⟨ERR_JRN_DROP, 0, 32⟩
/-- `ERR_EVENT` (21_ras). -/
def ERR_EVENT : Nat := 0x300028
def ERR_EVENT_RECORD : Fld := ⟨ERR_EVENT, 0, 1⟩
def ERR_EVENT_CONTAINED : Fld := ⟨ERR_EVENT, 1, 1⟩
def ERR_EVENT_PORT_FATAL : Fld := ⟨ERR_EVENT, 2, 1⟩
def ERR_EVENT_JRN_FULL : Fld := ⟨ERR_EVENT, 3, 1⟩
def ERR_EVENT_DOM_FERR : Fld := ⟨ERR_EVENT, 4, 1⟩
/-- `ERR_EVENT_EN` (21_ras). -/
def ERR_EVENT_EN : Nat := 0x30002C
def ERR_EVENT_EN_RECORD : Fld := ⟨ERR_EVENT_EN, 0, 1⟩
def ERR_EVENT_EN_CONTAINED : Fld := ⟨ERR_EVENT_EN, 1, 1⟩
def ERR_EVENT_EN_PORT_FATAL : Fld := ⟨ERR_EVENT_EN, 2, 1⟩
def ERR_EVENT_EN_JRN_FULL : Fld := ⟨ERR_EVENT_EN, 3, 1⟩
def ERR_EVENT_EN_DOM_FERR : Fld := ⟨ERR_EVENT_EN, 4, 1⟩
/-- `ERR_SCRUB` (21_ras). -/
def ERR_SCRUB : Nat := 0x300030
def ERR_SCRUB_HOURS : Fld := ⟨ERR_SCRUB, 0, 8⟩
def ERR_SCRUB_PASS_PCT : Fld := ⟨ERR_SCRUB, 8, 8⟩
/-- `ERR_LOST_BUCKETS` (21_ras). -/
def ERR_LOST_BUCKETS : Nat := 0x300034
def ERR_LOST_BUCKETS_USED : Fld := ⟨ERR_LOST_BUCKETS, 0, 9⟩
/-- `ERR_VIRAL_EN` (21_ras). -/
def ERR_VIRAL_EN (i : Nat) : Nat := 0x300400 + i * 4
def ERR_VIRAL_EN_PORTS (i : Nat) : Fld := ⟨ERR_VIRAL_EN i, 0, 32⟩
/-- `ERR_VIRAL_STATUS` (21_ras). -/
def ERR_VIRAL_STATUS (i : Nat) : Nat := 0x300480 + i * 4
def ERR_VIRAL_STATUS_PORTS (i : Nat) : Fld := ⟨ERR_VIRAL_STATUS i, 0, 32⟩
/-- `PVT_CTRL` (08_privet). -/
def PVT_CTRL : Nat := 0x400000
def PVT_CTRL_ENABLE : Fld := ⟨PVT_CTRL, 0, 1⟩
/-- `PVT_T2_CFG` (08_privet). -/
def PVT_T2_CFG : Nat := 0x400004
def PVT_T2_CFG_LOG2_ENTRIES : Fld := ⟨PVT_T2_CFG, 0, 5⟩
def PVT_T2_CFG_MIRROR : Fld := ⟨PVT_T2_CFG, 5, 1⟩
/-- `PVT_SUM_CFG` (08_privet). -/
def PVT_SUM_CFG : Nat := 0x400008
def PVT_SUM_CFG_REBUILD_AT : Fld := ⟨PVT_SUM_CFG, 0, 16⟩
def PVT_SUM_CFG_REBUILD : Fld := ⟨PVT_SUM_CFG, 16, 1⟩
/-- `PVT_EVICT_CFG` (08_privet). -/
def PVT_EVICT_CFG : Nat := 0x40000C
def PVT_EVICT_CFG_MAX_EVICT : Fld := ⟨PVT_EVICT_CFG, 0, 12⟩
/-- `PVT_STATUS` (08_privet). -/
def PVT_STATUS : Nat := 0x400010
def PVT_STATUS_T1_USED : Fld := ⟨PVT_STATUS, 0, 23⟩
def PVT_STATUS_REBUILDING : Fld := ⟨PVT_STATUS, 23, 1⟩
def PVT_STATUS_WALKING : Fld := ⟨PVT_STATUS, 24, 1⟩
/-- `PVT_T2_USED` (08_privet). -/
def PVT_T2_USED : Nat := 0x400014
def PVT_T2_USED_COUNT : Fld := ⟨PVT_T2_USED, 0, 32⟩
/-- `PVT_SUM_SAT` (08_privet). -/
def PVT_SUM_SAT : Nat := 0x400018
def PVT_SUM_SAT_COUNT : Fld := ⟨PVT_SUM_SAT, 0, 32⟩
/-- `PVT_BUSY` (08_privet). -/
def PVT_BUSY : Nat := 0x40001C
def PVT_BUSY_COUNT : Fld := ⟨PVT_BUSY, 0, 32⟩
/-- `PVT_EVENT` (08_privet). -/
def PVT_EVENT : Nat := 0x400020
def PVT_EVENT_CFG_REFUSED : Fld := ⟨PVT_EVENT, 0, 1⟩
def PVT_EVENT_STRAY_WB : Fld := ⟨PVT_EVENT, 1, 1⟩
def PVT_EVENT_NONMEMBER : Fld := ⟨PVT_EVENT, 2, 1⟩
def PVT_EVENT_BUCKET_OVERFLOW : Fld := ⟨PVT_EVENT, 3, 1⟩
def PVT_EVENT_REBUILD_DONE : Fld := ⟨PVT_EVENT, 4, 1⟩
def PVT_EVENT_QUOTA_DONE : Fld := ⟨PVT_EVENT, 5, 1⟩
def PVT_EVENT_T2_COPY_USED : Fld := ⟨PVT_EVENT, 6, 1⟩
def PVT_EVENT_PROTOCOL : Fld := ⟨PVT_EVENT, 7, 1⟩
/-- `PVT_EVENT_EN` (08_privet). -/
def PVT_EVENT_EN : Nat := 0x400024
def PVT_EVENT_EN_CFG_REFUSED : Fld := ⟨PVT_EVENT_EN, 0, 1⟩
def PVT_EVENT_EN_STRAY_WB : Fld := ⟨PVT_EVENT_EN, 1, 1⟩
def PVT_EVENT_EN_NONMEMBER : Fld := ⟨PVT_EVENT_EN, 2, 1⟩
def PVT_EVENT_EN_BUCKET_OVERFLOW : Fld := ⟨PVT_EVENT_EN, 3, 1⟩
def PVT_EVENT_EN_REBUILD_DONE : Fld := ⟨PVT_EVENT_EN, 4, 1⟩
def PVT_EVENT_EN_QUOTA_DONE : Fld := ⟨PVT_EVENT_EN, 5, 1⟩
def PVT_EVENT_EN_T2_COPY_USED : Fld := ⟨PVT_EVENT_EN, 6, 1⟩
def PVT_EVENT_EN_PROTOCOL : Fld := ⟨PVT_EVENT_EN, 7, 1⟩
/-- `PVT_LOSS_EVENT` (09_coherence_races). -/
def PVT_LOSS_EVENT : Nat := 0x400028
def PVT_LOSS_EVENT_MEMBER_DEAD : Fld := ⟨PVT_LOSS_EVENT, 0, 1⟩
def PVT_LOSS_EVENT_WALK_DONE : Fld := ⟨PVT_LOSS_EVENT, 1, 1⟩
def PVT_LOSS_EVENT_SNOOP_TIMEOUT : Fld := ⟨PVT_LOSS_EVENT, 2, 1⟩
def PVT_LOSS_EVENT_LINE_LOST : Fld := ⟨PVT_LOSS_EVENT, 3, 1⟩
def PVT_LOSS_EVENT_LOST_FULL : Fld := ⟨PVT_LOSS_EVENT, 4, 1⟩
def PVT_LOSS_EVENT_STARVE : Fld := ⟨PVT_LOSS_EVENT, 5, 1⟩
def PVT_LOSS_EVENT_RECOVERY_DONE : Fld := ⟨PVT_LOSS_EVENT, 6, 1⟩
def PVT_LOSS_EVENT_STATE_LOST : Fld := ⟨PVT_LOSS_EVENT, 7, 1⟩
/-- `PVT_LOSS_EVENT_EN` (09_coherence_races). -/
def PVT_LOSS_EVENT_EN : Nat := 0x40002C
def PVT_LOSS_EVENT_EN_MEMBER_DEAD : Fld := ⟨PVT_LOSS_EVENT_EN, 0, 1⟩
def PVT_LOSS_EVENT_EN_WALK_DONE : Fld := ⟨PVT_LOSS_EVENT_EN, 1, 1⟩
def PVT_LOSS_EVENT_EN_SNOOP_TIMEOUT : Fld := ⟨PVT_LOSS_EVENT_EN, 2, 1⟩
def PVT_LOSS_EVENT_EN_LINE_LOST : Fld := ⟨PVT_LOSS_EVENT_EN, 3, 1⟩
def PVT_LOSS_EVENT_EN_LOST_FULL : Fld := ⟨PVT_LOSS_EVENT_EN, 4, 1⟩
def PVT_LOSS_EVENT_EN_STARVE : Fld := ⟨PVT_LOSS_EVENT_EN, 5, 1⟩
def PVT_LOSS_EVENT_EN_RECOVERY_DONE : Fld := ⟨PVT_LOSS_EVENT_EN, 6, 1⟩
def PVT_LOSS_EVENT_EN_STATE_LOST : Fld := ⟨PVT_LOSS_EVENT_EN, 7, 1⟩
/-- `PVT_DEAD_CFG` (09_coherence_races). -/
def PVT_DEAD_CFG : Nat := 0x400030
def PVT_DEAD_CFG_LINK_TIMEOUT : Fld := ⟨PVT_DEAD_CFG, 0, 16⟩
def PVT_DEAD_CFG_SNOOP_TIMEOUT : Fld := ⟨PVT_DEAD_CFG, 16, 16⟩
/-- `PVT_RECOVERY` (09_coherence_races). -/
def PVT_RECOVERY : Nat := 0x400034
def PVT_RECOVERY_SETS_LEFT : Fld := ⟨PVT_RECOVERY, 0, 19⟩
def PVT_RECOVERY_ACTIVE : Fld := ⟨PVT_RECOVERY, 19, 1⟩
/-- `PVT_RING_STATUS` (09_coherence_races). -/
def PVT_RING_STATUS : Nat := 0x400038
def PVT_RING_STATUS_USED : Fld := ⟨PVT_RING_STATUS, 0, 20⟩
/-- `PVT_DEAD_LAST` (09_coherence_races). -/
def PVT_DEAD_LAST : Nat := 0x40003C
def PVT_DEAD_LAST_HEDGEROW : Fld := ⟨PVT_DEAD_LAST, 0, 2⟩
def PVT_DEAD_LAST_MEMBER : Fld := ⟨PVT_DEAD_LAST, 2, 6⟩
def PVT_DEAD_LAST_CAUSE : Fld := ⟨PVT_DEAD_LAST, 8, 2⟩
/-- `PVT_LOST_BASE` (09_coherence_races). -/
def PVT_LOST_BASE : Nat := 0x400040
def PVT_LOST_BASE_BASE : Fld := ⟨PVT_LOST_BASE, 5, 59⟩
/-- `PVT_LOST_CFG` (09_coherence_races). -/
def PVT_LOST_CFG : Nat := 0x400048
def PVT_LOST_CFG_LOG2_ENTRIES : Fld := ⟨PVT_LOST_CFG, 0, 5⟩
/-- `PVT_LOST_HEAD` (09_coherence_races). -/
def PVT_LOST_HEAD : Nat := 0x40004C
def PVT_LOST_HEAD_COUNT : Fld := ⟨PVT_LOST_HEAD, 0, 32⟩
/-- `PVT_LOST_TAIL` (09_coherence_races). -/
def PVT_LOST_TAIL : Nat := 0x400050
def PVT_LOST_TAIL_COUNT : Fld := ⟨PVT_LOST_TAIL, 0, 32⟩
/-- `PVT_LOST_DROP` (09_coherence_races). -/
def PVT_LOST_DROP : Nat := 0x400054
def PVT_LOST_DROP_COUNT : Fld := ⟨PVT_LOST_DROP, 0, 32⟩
/-- `PVT_HR_CFG` (08_privet). -/
def PVT_HR_CFG (h : Nat) : Nat := 0x400100 + h * 0x10
def PVT_HR_CFG_WAY_MASK (h : Nat) : Fld := ⟨PVT_HR_CFG h, 0, 16⟩
def PVT_HR_CFG_ENABLE (h : Nat) : Fld := ⟨PVT_HR_CFG h, 16, 1⟩
/-- `PVT_HR_QUOTA` (08_privet). -/
def PVT_HR_QUOTA (h : Nat) : Nat := 0x400104 + h * 0x10
def PVT_HR_QUOTA_T2_QUOTA (h : Nat) : Fld := ⟨PVT_HR_QUOTA h, 0, 12⟩
/-- `PVT_HR_USE` (08_privet). -/
def PVT_HR_USE (h : Nat) : Nat := 0x400108 + h * 0x10
def PVT_HR_USE_T1 (h : Nat) : Fld := ⟨PVT_HR_USE h, 0, 23⟩
def PVT_HR_USE_T2 (h : Nat) : Fld := ⟨PVT_HR_USE h, 32, 32⟩
/-- `PVT_HR_PROG` (09_coherence_races). -/
def PVT_HR_PROG (h : Nat) : Nat := 0x400200 + h * 0x10
def PVT_HR_PROG_TENURE (h : Nat) : Fld := ⟨PVT_HR_PROG h, 0, 11⟩
def PVT_HR_PROG_STARVE_LIMIT (h : Nat) : Fld := ⟨PVT_HR_PROG h, 16, 4⟩
def PVT_HR_PROG_PRIO_PTR (h : Nat) : Fld := ⟨PVT_HR_PROG h, 24, 6⟩
/-- `PVT_HR_DEPARTED` (09_coherence_races). -/
def PVT_HR_DEPARTED (h : Nat) : Nat := 0x400208 + h * 0x10
def PVT_HR_DEPARTED_MASK (h : Nat) : Fld := ⟨PVT_HR_DEPARTED h, 0, 64⟩
/-- `PVT_MEMBER` (08_privet). -/
def PVT_MEMBER (h m : Nat) : Nat := 0x401000 + h * 0x400 + m * 0x10
def PVT_MEMBER_VALID (h m : Nat) : Fld := ⟨PVT_MEMBER h m, 0, 1⟩
def PVT_MEMBER_KIND (h m : Nat) : Fld := ⟨PVT_MEMBER h m, 1, 1⟩
def PVT_MEMBER_ID (h m : Nat) : Fld := ⟨PVT_MEMBER h m, 4, 12⟩
/-- `PVT_MEMBER_BIAS` (08_privet). -/
def PVT_MEMBER_BIAS (h m : Nat) : Nat := 0x401008 + h * 0x400 + m * 0x10
def PVT_MEMBER_BIAS_HPA_BIAS (h m : Nat) : Fld := ⟨PVT_MEMBER_BIAS h m, 0, 64⟩
/-- `LVR_CTRL` (13_louvre). -/
def LVR_CTRL : Nat := 0x500000
def LVR_CTRL_POLICE_EN : Fld := ⟨LVR_CTRL, 0, 1⟩
def LVR_CTRL_SHAPE_EN : Fld := ⟨LVR_CTRL, 1, 1⟩
def LVR_CTRL_YELLOW_MULT : Fld := ⟨LVR_CTRL, 4, 3⟩
def LVR_CTRL_TC7_FLOOR : Fld := ⟨LVR_CTRL, 8, 4⟩
/-- `LVR_EVENT` (13_louvre). -/
def LVR_EVENT : Nat := 0x500008
def LVR_EVENT_CFG_REFUSED : Fld := ⟨LVR_EVENT, 0, 1⟩
def LVR_EVENT_DEVLOAD_SEVERE : Fld := ⟨LVR_EVENT, 1, 1⟩
def LVR_EVENT_HIST_SAT : Fld := ⟨LVR_EVENT, 2, 1⟩
/-- `LVR_EVENT_EN` (13_louvre). -/
def LVR_EVENT_EN : Nat := 0x50000C
def LVR_EVENT_EN_CFG_REFUSED : Fld := ⟨LVR_EVENT_EN, 0, 1⟩
def LVR_EVENT_EN_DEVLOAD_SEVERE : Fld := ⟨LVR_EVENT_EN, 1, 1⟩
def LVR_EVENT_EN_HIST_SAT : Fld := ⟨LVR_EVENT_EN, 2, 1⟩
/-- `LVR_ENT_SEL` (13_louvre). -/
def LVR_ENT_SEL : Nat := 0x502000
def LVR_ENT_SEL_INDEX : Fld := ⟨LVR_ENT_SEL, 0, 15⟩
/-- `LVR_ENT_CMD` (13_louvre). -/
def LVR_ENT_CMD : Nat := 0x502004
def LVR_ENT_CMD_OP : Fld := ⟨LVR_ENT_CMD, 0, 2⟩
def LVR_ENT_CMD_STATUS : Fld := ⟨LVR_ENT_CMD, 8, 4⟩
/-- `LVR_ENT_RED` (13_louvre). -/
def LVR_ENT_RED : Nat := 0x502030
def LVR_ENT_RED_COUNT : Fld := ⟨LVR_ENT_RED, 0, 32⟩
/-- `LVR_ENT_YELLOW` (13_louvre). -/
def LVR_ENT_YELLOW : Nat := 0x502034
def LVR_ENT_YELLOW_COUNT : Fld := ⟨LVR_ENT_YELLOW, 0, 32⟩
/-- `LVR_ENT_USED` (13_louvre). -/
def LVR_ENT_USED : Nat := 0x502040
def LVR_ENT_USED_USED : Fld := ⟨LVR_ENT_USED, 0, 16⟩
/-- `LVR_DOM_SEL` (13_louvre). -/
def LVR_DOM_SEL : Nat := 0x503000
def LVR_DOM_SEL_DOMAIN : Fld := ⟨LVR_DOM_SEL, 0, 12⟩
/-- `LVR_DOM_CFG` (13_louvre). -/
def LVR_DOM_CFG : Nat := 0x503004
def LVR_DOM_CFG_LKP_WEIGHT : Fld := ⟨LVR_DOM_CFG, 0, 8⟩
def LVR_DOM_CFG_ENTRIES : Fld := ⟨LVR_DOM_CFG, 16, 7⟩
/-- `LVR_SMP_SEL` (13_louvre). -/
def LVR_SMP_SEL : Nat := 0x504000
def LVR_SMP_SEL_INDEX : Fld := ⟨LVR_SMP_SEL, 0, 12⟩
/-- `LVR_SMP_CFG` (13_louvre). -/
def LVR_SMP_CFG : Nat := 0x504004
def LVR_SMP_CFG_KIND : Fld := ⟨LVR_SMP_CFG, 0, 3⟩
def LVR_SMP_CFG_K : Fld := ⟨LVR_SMP_CFG, 3, 5⟩
def LVR_SMP_CFG_DSCALE : Fld := ⟨LVR_SMP_CFG, 8, 4⟩
def LVR_SMP_CFG_QSCALE : Fld := ⟨LVR_SMP_CFG, 12, 4⟩
def LVR_SMP_CFG_SNAP : Fld := ⟨LVR_SMP_CFG, 16, 1⟩
/-- `LVR_SMP_TGT` (13_louvre). -/
def LVR_SMP_TGT : Nat := 0x504008
def LVR_SMP_TGT_TARGET : Fld := ⟨LVR_SMP_TGT, 0, 32⟩
/-- `LVR_SPEC_CFG` (10_speculation_atomics). -/
def LVR_SPEC_CFG : Nat := 0x50E000
def LVR_SPEC_CFG_ADAPT_EN : Fld := ⟨LVR_SPEC_CFG, 0, 1⟩
def LVR_SPEC_CFG_WINDOW_LOG2 : Fld := ⟨LVR_SPEC_CFG, 4, 4⟩
def LVR_SPEC_CFG_HI : Fld := ⟨LVR_SPEC_CFG, 8, 8⟩
def LVR_SPEC_CFG_LO : Fld := ⟨LVR_SPEC_CFG, 16, 8⟩
/-- `LVR_SPEC_EVENT` (10_speculation_atomics). -/
def LVR_SPEC_EVENT : Nat := 0x50E004
def LVR_SPEC_EVENT_SPEC_OFF : Fld := ⟨LVR_SPEC_EVENT, 0, 1⟩
def LVR_SPEC_EVENT_SPEC_ON : Fld := ⟨LVR_SPEC_EVENT, 1, 1⟩
def LVR_SPEC_EVENT_CFG_REFUSED : Fld := ⟨LVR_SPEC_EVENT, 2, 1⟩
/-- `LVR_SPEC_EVENT_EN` (10_speculation_atomics). -/
def LVR_SPEC_EVENT_EN : Nat := 0x50E008
def LVR_SPEC_EVENT_EN_SPEC_OFF : Fld := ⟨LVR_SPEC_EVENT_EN, 0, 1⟩
def LVR_SPEC_EVENT_EN_SPEC_ON : Fld := ⟨LVR_SPEC_EVENT_EN, 1, 1⟩
def LVR_SPEC_EVENT_EN_CFG_REFUSED : Fld := ⟨LVR_SPEC_EVENT_EN, 2, 1⟩
/-- `LVR_SPEC_LAST` (10_speculation_atomics). -/
def LVR_SPEC_LAST : Nat := 0x50E00C
def LVR_SPEC_LAST_DOMAIN : Fld := ⟨LVR_SPEC_LAST, 0, 12⟩
def LVR_SPEC_LAST_OFF : Fld := ⟨LVR_SPEC_LAST, 12, 1⟩
/-- `LVR_PROF` (13_louvre). -/
def LVR_PROF (n : Nat) : Nat := 0x501000 + n * 8
def LVR_PROF_W (n : Nat) : Fld := ⟨LVR_PROF n, 0, 48⟩
/-- `LVR_TILE_PROF` (13_louvre). -/
def LVR_TILE_PROF (i : Nat) : Nat := 0x501100 + i * 4
def LVR_TILE_PROF_PROF (i : Nat) : Fld := ⟨LVR_TILE_PROF i, 0, 32⟩
/-- `LVR_ENT_REC` (13_louvre). -/
def LVR_ENT_REC (i : Nat) : Nat := 0x502010 + i * 8
def LVR_ENT_REC_RECORD (i : Nat) : Fld := ⟨LVR_ENT_REC i, 0, 64⟩
/-- `LVR_DEVLOAD_CFG` (13_louvre). -/
def LVR_DEVLOAD_CFG : Nat := 0x503800
def LVR_DEVLOAD_CFG_MOD_CELLS : Fld := ⟨LVR_DEVLOAD_CFG, 0, 13⟩
def LVR_DEVLOAD_CFG_SEV_CELLS : Fld := ⟨LVR_DEVLOAD_CFG, 16, 13⟩
/-- `LVR_DEVLOAD_STATE` (13_louvre). -/
def LVR_DEVLOAD_STATE (i : Nat) : Nat := 0x503A00 + i * 4
def LVR_DEVLOAD_STATE_LOAD (i : Nat) : Fld := ⟨LVR_DEVLOAD_STATE i, 0, 32⟩
/-- `LVR_SPEC_STATE` (10_speculation_atomics). -/
def LVR_SPEC_STATE (i : Nat) : Nat := 0x50E100 + i * 4
def LVR_SPEC_STATE_OFF (i : Nat) : Fld := ⟨LVR_SPEC_STATE i, 0, 32⟩
/-- `SEQ_CTRL` (16_briop_model). -/
def SEQ_CTRL : Nat := 0x600000
def SEQ_CTRL_LOCKSTEP : Fld := ⟨SEQ_CTRL, 0, 1⟩
def SEQ_CTRL_LOCK : Fld := ⟨SEQ_CTRL, 1, 1⟩
/-- `SEQ_CORE_MODE` (16_briop_model). -/
def SEQ_CORE_MODE : Nat := 0x600004
def SEQ_CORE_MODE_MGR : Fld := ⟨SEQ_CORE_MODE, 0, 2⟩
def SEQ_CORE_MODE_TENANT : Fld := ⟨SEQ_CORE_MODE, 2, 30⟩
/-- `SEQ_STATUS` (16_briop_model). -/
def SEQ_STATUS : Nat := 0x600008
def SEQ_STATUS_THREADS_BUSY : Fld := ⟨SEQ_STATUS, 0, 9⟩
def SEQ_STATUS_LS_RESTARTS : Fld := ⟨SEQ_STATUS, 16, 8⟩
/-- `SEQ_EVENT` (16_briop_model). -/
def SEQ_EVENT : Nat := 0x600010
def SEQ_EVENT_LOCKSTEP_MISMATCH : Fld := ⟨SEQ_EVENT, 0, 1⟩
def SEQ_EVENT_MGR_TRAP : Fld := ⟨SEQ_EVENT, 1, 1⟩
def SEQ_EVENT_RP_REFUSED : Fld := ⟨SEQ_EVENT, 2, 1⟩
def SEQ_EVENT_ROUTE_FAULT : Fld := ⟨SEQ_EVENT, 3, 1⟩
def SEQ_EVENT_DM_REFUSED : Fld := ⟨SEQ_EVENT, 4, 1⟩
/-- `SEQ_EVENT_EN` (16_briop_model). -/
def SEQ_EVENT_EN : Nat := 0x600014
def SEQ_EVENT_EN_LOCKSTEP_MISMATCH : Fld := ⟨SEQ_EVENT_EN, 0, 1⟩
def SEQ_EVENT_EN_MGR_TRAP : Fld := ⟨SEQ_EVENT_EN, 1, 1⟩
def SEQ_EVENT_EN_RP_REFUSED : Fld := ⟨SEQ_EVENT_EN, 2, 1⟩
def SEQ_EVENT_EN_ROUTE_FAULT : Fld := ⟨SEQ_EVENT_EN, 3, 1⟩
def SEQ_EVENT_EN_DM_REFUSED : Fld := ⟨SEQ_EVENT_EN, 4, 1⟩
/-- `SEQ_DOM_SEL` (16_briop_model). -/
def SEQ_DOM_SEL : Nat := 0x600100
def SEQ_DOM_SEL_DOMAIN : Fld := ⟨SEQ_DOM_SEL, 0, 12⟩
/-- `SEQ_DOM_DM` (16_briop_model). -/
def SEQ_DOM_DM : Nat := 0x600108
def SEQ_DOM_DM_BASE : Fld := ⟨SEQ_DOM_DM, 20, 20⟩
def SEQ_DOM_DM_SIZE : Fld := ⟨SEQ_DOM_DM, 40, 12⟩
/-- `SEQ_DOM_RUN` (16_briop_model). -/
def SEQ_DOM_RUN : Nat := 0x600110
def SEQ_DOM_RUN_MAX_THREADS : Fld := ⟨SEQ_DOM_RUN, 0, 7⟩
def SEQ_DOM_RUN_THREADS : Fld := ⟨SEQ_DOM_RUN, 8, 8⟩
def SEQ_DOM_RUN_RUN_LIMIT : Fld := ⟨SEQ_DOM_RUN, 16, 16⟩
/-- `SEQ_DOM_TRAPS` (16_briop_model). -/
def SEQ_DOM_TRAPS : Nat := 0x600114
def SEQ_DOM_TRAPS_COUNT : Fld := ⟨SEQ_DOM_TRAPS, 0, 32⟩
/-- `SEQ_RP_CMD` (16_briop_model). -/
def SEQ_RP_CMD : Nat := 0x602000
def SEQ_RP_CMD_SLOT : Fld := ⟨SEQ_RP_CMD, 0, 3⟩
def SEQ_RP_CMD_OP : Fld := ⟨SEQ_RP_CMD, 3, 2⟩
def SEQ_RP_CMD_LEN : Fld := ⟨SEQ_RP_CMD, 8, 5⟩
def SEQ_RP_CMD_STATUS : Fld := ⟨SEQ_RP_CMD, 16, 8⟩
def SEQ_RP_CMD_BUSY : Fld := ⟨SEQ_RP_CMD, 24, 1⟩
/-- `SEQ_RP_SEL` (16_briop_model). -/
def SEQ_RP_SEL (i : Nat) : Nat := 0x601000 + i * 4
def SEQ_RP_SEL_SLOT (i : Nat) : Fld := ⟨SEQ_RP_SEL i, 0, 32⟩
/-- `SEQ_RP_BUF` (16_briop_model). -/
def SEQ_RP_BUF (i : Nat) : Nat := 0x602100 + i * 4
def SEQ_RP_BUF_INSTR (i : Nat) : Fld := ⟨SEQ_RP_BUF i, 0, 32⟩
/-- `CPE_CTRL` (15_copy_engine). -/
def CPE_CTRL : Nat := 0x700000
def CPE_CTRL_MGR_RSV : Fld := ⟨CPE_CTRL, 0, 8⟩
def CPE_CTRL_DOM_MAX : Fld := ⟨CPE_CTRL, 8, 8⟩
def CPE_CTRL_CH_CHUNKS : Fld := ⟨CPE_CTRL, 16, 8⟩
/-- `CPE_STATUS` (15_copy_engine). -/
def CPE_STATUS : Nat := 0x700004
def CPE_STATUS_CH_BUSY : Fld := ⟨CPE_STATUS, 0, 9⟩
def CPE_STATUS_BUF_FREE : Fld := ⟨CPE_STATUS, 16, 13⟩
/-- `CPE_EVENT` (15_copy_engine). -/
def CPE_EVENT : Nat := 0x700008
def CPE_EVENT_POISON_COPIED : Fld := ⟨CPE_EVENT, 0, 1⟩
def CPE_EVENT_STAGING_ECC : Fld := ⟨CPE_EVENT, 1, 1⟩
def CPE_EVENT_DEVICE_LOST : Fld := ⟨CPE_EVENT, 2, 1⟩
/-- `CPE_EVENT_EN` (15_copy_engine). -/
def CPE_EVENT_EN : Nat := 0x70000C
def CPE_EVENT_EN_POISON_COPIED : Fld := ⟨CPE_EVENT_EN, 0, 1⟩
def CPE_EVENT_EN_STAGING_ECC : Fld := ⟨CPE_EVENT_EN, 1, 1⟩
def CPE_EVENT_EN_DEVICE_LOST : Fld := ⟨CPE_EVENT_EN, 2, 1⟩
/-- `CPE_CH_SEL` (15_copy_engine). -/
def CPE_CH_SEL : Nat := 0x700100
def CPE_CH_SEL_CHANNEL : Fld := ⟨CPE_CH_SEL, 0, 8⟩
/-- `CPE_CH_STATUS` (15_copy_engine). -/
def CPE_CH_STATUS : Nat := 0x700108
def CPE_CH_STATUS_BUSY : Fld := ⟨CPE_CH_STATUS, 0, 1⟩
def CPE_CH_STATUS_ORDER : Fld := ⟨CPE_CH_STATUS, 1, 2⟩
def CPE_CH_STATUS_CHECKING : Fld := ⟨CPE_CH_STATUS, 3, 1⟩
def CPE_CH_STATUS_IN_FLIGHT : Fld := ⟨CPE_CH_STATUS, 4, 8⟩
def CPE_CH_STATUS_DOMAIN : Fld := ⟨CPE_CH_STATUS, 16, 12⟩
def CPE_CH_STATUS_SQ : Fld := ⟨CPE_CH_STATUS, 32, 16⟩
/-- `CPE_CH_DONE` (15_copy_engine). -/
def CPE_CH_DONE : Nat := 0x700110
def CPE_CH_DONE_BYTES : Fld := ⟨CPE_CH_DONE, 0, 64⟩
/-- `DOM_SEL` (11_domains_casements). -/
def DOM_SEL : Nat := 0x800000
def DOM_SEL_DOMAIN : Fld := ⟨DOM_SEL, 0, 12⟩
/-- `DOM_REC0` (11_domains_casements). -/
def DOM_REC0 : Nat := 0x800010
def DOM_REC0_STATE : Fld := ⟨DOM_REC0, 0, 3⟩
def DOM_REC0_KIND : Fld := ⟨DOM_REC0, 6, 2⟩
def DOM_REC0_PARENT : Fld := ⟨DOM_REC0, 8, 12⟩
def DOM_REC0_QCLASS : Fld := ⟨DOM_REC0, 20, 4⟩
def DOM_REC0_CNT_ACCESS : Fld := ⟨DOM_REC0, 24, 1⟩
/-- `DOM_REC1` (11_domains_casements). -/
def DOM_REC1 : Nat := 0x800014
def DOM_REC1_GEN : Fld := ⟨DOM_REC1, 0, 16⟩
def DOM_REC1_CASEMENTS : Fld := ⟨DOM_REC1, 16, 9⟩
/-- `DOM_REC2` (11_domains_casements). -/
def DOM_REC2 : Nat := 0x800018
def DOM_REC2_VF : Fld := ⟨DOM_REC2, 0, 12⟩
/-- `DOM_RULE_EPOCH` (11_domains_casements). -/
def DOM_RULE_EPOCH : Nat := 0x80001C
def DOM_RULE_EPOCH_EPOCH : Fld := ⟨DOM_RULE_EPOCH, 0, 32⟩
/-- `DOM_VIOL_CLR` (11_domains_casements). -/
def DOM_VIOL_CLR : Nat := 0x800040
def DOM_VIOL_CLR_CLEAR : Fld := ⟨DOM_VIOL_CLR, 0, 1⟩
/-- `DOM_FERR_CLR` (21_ras). -/
def DOM_FERR_CLR : Nat := 0x800044
def DOM_FERR_CLR_CLEAR : Fld := ⟨DOM_FERR_CLR, 0, 1⟩
/-- `HNG_STATUS` (12_hinge). -/
def HNG_STATUS : Nat := 0x800050
def HNG_STATUS_OP : Fld := ⟨HNG_STATUS, 0, 3⟩
def HNG_STATUS_DRAINING : Fld := ⟨HNG_STATUS, 3, 1⟩
def HNG_STATUS_SWEEPING : Fld := ⟨HNG_STATUS, 4, 1⟩
def HNG_STATUS_PENDING_DB : Fld := ⟨HNG_STATUS, 16, 7⟩
/-- `DOM_EVENT` (11_domains_casements). -/
def DOM_EVENT : Nat := 0x800080
def DOM_EVENT_VIOLATION : Fld := ⟨DOM_EVENT, 0, 1⟩
def DOM_EVENT_MIRROR_FAIL : Fld := ⟨DOM_EVENT, 1, 1⟩
def DOM_EVENT_MIRROR_SYNCED : Fld := ⟨DOM_EVENT, 2, 1⟩
def DOM_EVENT_CFG_REFUSED : Fld := ⟨DOM_EVENT, 3, 1⟩
/-- `DOM_EVENT_EN` (11_domains_casements). -/
def DOM_EVENT_EN : Nat := 0x800084
def DOM_EVENT_EN_VIOLATION : Fld := ⟨DOM_EVENT_EN, 0, 1⟩
def DOM_EVENT_EN_MIRROR_FAIL : Fld := ⟨DOM_EVENT_EN, 1, 1⟩
def DOM_EVENT_EN_MIRROR_SYNCED : Fld := ⟨DOM_EVENT_EN, 2, 1⟩
def DOM_EVENT_EN_CFG_REFUSED : Fld := ⟨DOM_EVENT_EN, 3, 1⟩
/-- `CSM_SEL` (11_domains_casements). -/
def CSM_SEL : Nat := 0x810000
def CSM_SEL_DOMAIN : Fld := ⟨CSM_SEL, 0, 12⟩
def CSM_SEL_SLOT : Fld := ⟨CSM_SEL, 16, 8⟩
/-- `CSM_EPOCH` (11_domains_casements). -/
def CSM_EPOCH : Nat := 0x810030
def CSM_EPOCH_EPOCH : Fld := ⟨CSM_EPOCH, 0, 32⟩
/-- `CSM_POOL` (11_domains_casements). -/
def CSM_POOL : Nat := 0x810034
def CSM_POOL_USED : Fld := ⟨CSM_POOL, 0, 17⟩
/-- `CSM_ILV_SEL` (11_domains_casements). -/
def CSM_ILV_SEL : Nat := 0x820000
def CSM_ILV_SEL_SET : Fld := ⟨CSM_ILV_SEL, 0, 10⟩
/-- `CSM_ILV_HDR` (11_domains_casements). -/
def CSM_ILV_HDR : Nat := 0x820010
def CSM_ILV_HDR_WAYS : Fld := ⟨CSM_ILV_HDR, 0, 3⟩
def CSM_ILV_HDR_GRAN : Fld := ⟨CSM_ILV_HDR, 4, 3⟩
def CSM_ILV_HDR_REFS : Fld := ⟨CSM_ILV_HDR, 16, 16⟩
/-- `CSM_MIR_SEL` (11_domains_casements). -/
def CSM_MIR_SEL : Nat := 0x830000
def CSM_MIR_SEL_PAIR : Fld := ⟨CSM_MIR_SEL, 0, 9⟩
/-- `CSM_MIR_CTRL` (11_domains_casements). -/
def CSM_MIR_CTRL : Nat := 0x830010
def CSM_MIR_CTRL_STATE0 : Fld := ⟨CSM_MIR_CTRL, 0, 2⟩
def CSM_MIR_CTRL_STATE1 : Fld := ⟨CSM_MIR_CTRL, 2, 2⟩
def CSM_MIR_CTRL_READ_SEL : Fld := ⟨CSM_MIR_CTRL, 4, 1⟩
def CSM_MIR_CTRL_REFS : Fld := ⟨CSM_MIR_CTRL, 16, 16⟩
/-- `CSM_MIR_SIZE` (11_domains_casements). -/
def CSM_MIR_SIZE : Nat := 0x830020
def CSM_MIR_SIZE_VALUE : Fld := ⟨CSM_MIR_SIZE, 12, 52⟩
/-- `CSM_MIR_CURSOR` (11_domains_casements). -/
def CSM_MIR_CURSOR : Nat := 0x830028
def CSM_MIR_CURSOR_VALUE : Fld := ⟨CSM_MIR_CURSOR, 12, 52⟩
/-- `DOM_VIOL` (11_domains_casements). -/
def DOM_VIOL (i : Nat) : Nat := 0x800020 + i * 8
def DOM_VIOL_RECORD (i : Nat) : Fld := ⟨DOM_VIOL i, 0, 64⟩
/-- `DOM_FERR` (21_ras). -/
def DOM_FERR (i : Nat) : Nat := 0x800060 + i * 8
def DOM_FERR_RECORD (i : Nat) : Fld := ⟨DOM_FERR i, 0, 64⟩
/-- `CSM_REC` (11_domains_casements). -/
def CSM_REC (i : Nat) : Nat := 0x810010 + i * 8
def CSM_REC_RECORD (i : Nat) : Fld := ⟨CSM_REC i, 0, 64⟩
/-- `DOM_PORT` (11_domains_casements). -/
def DOM_PORT (p : Nat) : Nat := 0x801000 + p * 4
def DOM_PORT_DOMAIN (p : Nat) : Fld := ⟨DOM_PORT p, 0, 12⟩
def DOM_PORT_ASSIGNED (p : Nat) : Fld := ⟨DOM_PORT p, 15, 1⟩
/-- `DOM_FABRIC` (11_domains_casements). -/
def DOM_FABRIC (f : Nat) : Nat := 0x802000 + f * 4
def DOM_FABRIC_DOMAIN (f : Nat) : Fld := ⟨DOM_FABRIC f, 0, 12⟩
def DOM_FABRIC_ASSIGNED (f : Nat) : Fld := ⟨DOM_FABRIC f, 15, 1⟩
/-- `CSM_ILV_MBR` (11_domains_casements). -/
def CSM_ILV_MBR (m : Nat) : Nat := 0x820100 + m * 8
def CSM_ILV_MBR_PORT (m : Nat) : Fld := ⟨CSM_ILV_MBR m, 0, 10⟩
def CSM_ILV_MBR_LD (m : Nat) : Fld := ⟨CSM_ILV_MBR m, 10, 4⟩
def CSM_ILV_MBR_MLD (m : Nat) : Fld := ⟨CSM_ILV_MBR m, 14, 1⟩
def CSM_ILV_MBR_DPA_BASE (m : Nat) : Fld := ⟨CSM_ILV_MBR m, 24, 40⟩
/-- `CSM_MIR_MBR` (11_domains_casements). -/
def CSM_MIR_MBR (m : Nat) : Nat := 0x830100 + m * 8
def CSM_MIR_MBR_PORT (m : Nat) : Fld := ⟨CSM_MIR_MBR m, 0, 10⟩
def CSM_MIR_MBR_LD (m : Nat) : Fld := ⟨CSM_MIR_MBR m, 10, 4⟩
def CSM_MIR_MBR_MLD (m : Nat) : Fld := ⟨CSM_MIR_MBR m, 14, 1⟩
def CSM_MIR_MBR_DPA_BASE (m : Nat) : Fld := ⟨CSM_MIR_MBR m, 24, 40⟩
/-- `TILE_PORTMAP` (06_cxl_ports). -/
def TILE_PORTMAP (t : Nat) : Nat := 0x1000000 + t * 0x10000
def TILE_PORTMAP_MAP (t : Nat) : Fld := ⟨TILE_PORTMAP t, 0, 64⟩
/-- `TILE_PORT_CTRL` (06_cxl_ports). -/
def TILE_PORT_CTRL (p : Nat) : Nat := 0x1002000 + p / 16 * 0x10000 + p % 16 * 0x100
def TILE_PORT_CTRL_LINK_DIS (p : Nat) : Fld := ⟨TILE_PORT_CTRL p, 0, 1⟩
def TILE_PORT_CTRL_ROLE (p : Nat) : Fld := ⟨TILE_PORT_CTRL p, 1, 2⟩
def TILE_PORT_CTRL_PROTO (p : Nat) : Fld := ⟨TILE_PORT_CTRL p, 3, 1⟩
def TILE_PORT_CTRL_FLIT_POLICY (p : Nat) : Fld := ⟨TILE_PORT_CTRL p, 4, 2⟩
def TILE_PORT_CTRL_PBR_EDGE (p : Nat) : Fld := ⟨TILE_PORT_CTRL p, 6, 1⟩
def TILE_PORT_CTRL_PBR_ID (p : Nat) : Fld := ⟨TILE_PORT_CTRL p, 16, 12⟩
/-- `TILE_PORT_STATUS` (06_cxl_ports). -/
def TILE_PORT_STATUS (p : Nat) : Nat := 0x1002004 + p / 16 * 0x10000 + p % 16 * 0x100
def TILE_PORT_STATUS_LINK_UP (p : Nat) : Fld := ⟨TILE_PORT_STATUS p, 0, 1⟩
def TILE_PORT_STATUS_RATE (p : Nat) : Fld := ⟨TILE_PORT_STATUS p, 1, 3⟩
def TILE_PORT_STATUS_WIDTH (p : Nat) : Fld := ⟨TILE_PORT_STATUS p, 4, 3⟩
def TILE_PORT_STATUS_FLIT (p : Nat) : Fld := ⟨TILE_PORT_STATUS p, 7, 2⟩
def TILE_PORT_STATUS_CXL_IO (p : Nat) : Fld := ⟨TILE_PORT_STATUS p, 9, 1⟩
def TILE_PORT_STATUS_CXL_MEM (p : Nat) : Fld := ⟨TILE_PORT_STATUS p, 10, 1⟩
def TILE_PORT_STATUS_CXL_CACHE (p : Nat) : Fld := ⟨TILE_PORT_STATUS p, 11, 1⟩
def TILE_PORT_STATUS_IDE (p : Nat) : Fld := ⟨TILE_PORT_STATUS p, 12, 1⟩
def TILE_PORT_STATUS_DPC (p : Nat) : Fld := ⟨TILE_PORT_STATUS p, 13, 1⟩
def TILE_PORT_STATUS_BOUND (p : Nat) : Fld := ⟨TILE_PORT_STATUS p, 14, 1⟩
def TILE_PORT_STATUS_MLD (p : Nat) : Fld := ⟨TILE_PORT_STATUS p, 15, 1⟩
def TILE_PORT_STATUS_VCS (p : Nat) : Fld := ⟨TILE_PORT_STATUS p, 16, 8⟩
/-- `TILE_PORT_EVENT` (06_cxl_ports). -/
def TILE_PORT_EVENT (p : Nat) : Nat := 0x1002008 + p / 16 * 0x10000 + p % 16 * 0x100
def TILE_PORT_EVENT_CTRL_REFUSED (p : Nat) : Fld := ⟨TILE_PORT_EVENT p, 0, 1⟩
def TILE_PORT_EVENT_UP_LIMIT (p : Nat) : Fld := ⟨TILE_PORT_EVENT p, 1, 1⟩
def TILE_PORT_EVENT_PBR_DUP (p : Nat) : Fld := ⟨TILE_PORT_EVENT p, 2, 1⟩
def TILE_PORT_EVENT_LINK_UP (p : Nat) : Fld := ⟨TILE_PORT_EVENT p, 3, 1⟩
def TILE_PORT_EVENT_LINK_DOWN (p : Nat) : Fld := ⟨TILE_PORT_EVENT p, 4, 1⟩
def TILE_PORT_EVENT_IDE_FAIL (p : Nat) : Fld := ⟨TILE_PORT_EVENT p, 5, 1⟩
def TILE_PORT_EVENT_CONTAINED (p : Nat) : Fld := ⟨TILE_PORT_EVENT p, 6, 1⟩
def TILE_PORT_EVENT_SLOT_FAULT (p : Nat) : Fld := ⟨TILE_PORT_EVENT p, 7, 1⟩
def TILE_PORT_EVENT_PRESENCE (p : Nat) : Fld := ⟨TILE_PORT_EVENT p, 8, 1⟩
/-- `TILE_PORT_EVENT_EN` (06_cxl_ports). -/
def TILE_PORT_EVENT_EN (p : Nat) : Nat := 0x100200C + p / 16 * 0x10000 + p % 16 * 0x100
def TILE_PORT_EVENT_EN_CTRL_REFUSED (p : Nat) : Fld := ⟨TILE_PORT_EVENT_EN p, 0, 1⟩
def TILE_PORT_EVENT_EN_UP_LIMIT (p : Nat) : Fld := ⟨TILE_PORT_EVENT_EN p, 1, 1⟩
def TILE_PORT_EVENT_EN_PBR_DUP (p : Nat) : Fld := ⟨TILE_PORT_EVENT_EN p, 2, 1⟩
def TILE_PORT_EVENT_EN_LINK_UP (p : Nat) : Fld := ⟨TILE_PORT_EVENT_EN p, 3, 1⟩
def TILE_PORT_EVENT_EN_LINK_DOWN (p : Nat) : Fld := ⟨TILE_PORT_EVENT_EN p, 4, 1⟩
def TILE_PORT_EVENT_EN_IDE_FAIL (p : Nat) : Fld := ⟨TILE_PORT_EVENT_EN p, 5, 1⟩
def TILE_PORT_EVENT_EN_CONTAINED (p : Nat) : Fld := ⟨TILE_PORT_EVENT_EN p, 6, 1⟩
def TILE_PORT_EVENT_EN_SLOT_FAULT (p : Nat) : Fld := ⟨TILE_PORT_EVENT_EN p, 7, 1⟩
def TILE_PORT_EVENT_EN_PRESENCE (p : Nat) : Fld := ⟨TILE_PORT_EVENT_EN p, 8, 1⟩
/-- `TILE_PORT_SLOT` (06_cxl_ports). -/
def TILE_PORT_SLOT (p : Nat) : Nat := 0x1002010 + p / 16 * 0x10000 + p % 16 * 0x100
def TILE_PORT_SLOT_CHANNEL (p : Nat) : Fld := ⟨TILE_PORT_SLOT p, 0, 6⟩
def TILE_PORT_SLOT_PRIV (p : Nat) : Fld := ⟨TILE_PORT_SLOT p, 6, 1⟩
def TILE_PORT_SLOT_SLOT_EN (p : Nat) : Fld := ⟨TILE_PORT_SLOT p, 7, 1⟩
def TILE_PORT_SLOT_PERST_SRC (p : Nat) : Fld := ⟨TILE_PORT_SLOT p, 8, 1⟩
def TILE_PORT_SLOT_PERST_BIT (p : Nat) : Fld := ⟨TILE_PORT_SLOT p, 9, 7⟩
def TILE_PORT_SLOT_PRES_SRC (p : Nat) : Fld := ⟨TILE_PORT_SLOT p, 16, 1⟩
def TILE_PORT_SLOT_PRES_BIT (p : Nat) : Fld := ⟨TILE_PORT_SLOT p, 17, 7⟩
def TILE_PORT_SLOT_PVPERL (p : Nat) : Fld := ⟨TILE_PORT_SLOT p, 24, 8⟩
/-- `TILE_PORT_IND` (06_cxl_ports). -/
def TILE_PORT_IND (p : Nat) : Nat := 0x1002014 + p / 16 * 0x10000 + p % 16 * 0x100
def TILE_PORT_IND_IND_EN (p : Nat) : Fld := ⟨TILE_PORT_IND p, 0, 1⟩
def TILE_PORT_IND_IND_BIT (p : Nat) : Fld := ⟨TILE_PORT_IND p, 1, 7⟩
/-- `TILE_ZL_CTRL` (05_zitch_link). -/
def TILE_ZL_CTRL (p : Nat) : Nat := 0x1004000 + p / 16 * 0x10000 + p % 16 * 0x100
def TILE_ZL_CTRL_LINK_DIS (p : Nat) : Fld := ⟨TILE_ZL_CTRL p, 0, 1⟩
def TILE_ZL_CTRL_RETRAIN (p : Nat) : Fld := ⟨TILE_ZL_CTRL p, 1, 1⟩
def TILE_ZL_CTRL_TARGET_WIDTH (p : Nat) : Fld := ⟨TILE_ZL_CTRL p, 2, 3⟩
def TILE_ZL_CTRL_MIN_WIDTH (p : Nat) : Fld := ⟨TILE_ZL_CTRL p, 5, 3⟩
def TILE_ZL_CTRL_FEC_OFF_ALLOW (p : Nat) : Fld := ⟨TILE_ZL_CTRL p, 8, 1⟩
def TILE_ZL_CTRL_DEGRADE_EN (p : Nat) : Fld := ⟨TILE_ZL_CTRL p, 9, 1⟩
def TILE_ZL_CTRL_LP_REQ (p : Nat) : Fld := ⟨TILE_ZL_CTRL p, 10, 1⟩
/-- `TILE_ZL_STATUS` (05_zitch_link). -/
def TILE_ZL_STATUS (p : Nat) : Nat := 0x1004004 + p / 16 * 0x10000 + p % 16 * 0x100
def TILE_ZL_STATUS_STATE (p : Nat) : Fld := ⟨TILE_ZL_STATUS p, 0, 4⟩
def TILE_ZL_STATUS_RATE (p : Nat) : Fld := ⟨TILE_ZL_STATUS p, 4, 2⟩
def TILE_ZL_STATUS_WIDTH (p : Nat) : Fld := ⟨TILE_ZL_STATUS p, 6, 3⟩
def TILE_ZL_STATUS_FEC_ON (p : Nat) : Fld := ⟨TILE_ZL_STATUS p, 9, 1⟩
def TILE_ZL_STATUS_LEADER (p : Nat) : Fld := ⟨TILE_ZL_STATUS p, 10, 1⟩
def TILE_ZL_STATUS_OP_ACTIVE (p : Nat) : Fld := ⟨TILE_ZL_STATUS p, 11, 1⟩
def TILE_ZL_STATUS_REPLAY_OCC (p : Nat) : Fld := ⟨TILE_ZL_STATUS p, 12, 9⟩
/-- `TILE_ZL_EVENT` (05_zitch_link). -/
def TILE_ZL_EVENT (p : Nat) : Nat := 0x1004008 + p / 16 * 0x10000 + p % 16 * 0x100
def TILE_ZL_EVENT_LINK_UP (p : Nat) : Fld := ⟨TILE_ZL_EVENT p, 0, 1⟩
def TILE_ZL_EVENT_LINK_DOWN (p : Nat) : Fld := ⟨TILE_ZL_EVENT p, 1, 1⟩
def TILE_ZL_EVENT_FLIT_FAIL (p : Nat) : Fld := ⟨TILE_ZL_EVENT p, 2, 1⟩
def TILE_ZL_EVENT_REPLAY_LIMIT (p : Nat) : Fld := ⟨TILE_ZL_EVENT p, 3, 1⟩
def TILE_ZL_EVENT_AUDIT_MISMATCH (p : Nat) : Fld := ⟨TILE_ZL_EVENT p, 4, 1⟩
def TILE_ZL_EVENT_REQ_ABANDONED (p : Nat) : Fld := ⟨TILE_ZL_EVENT p, 5, 1⟩
def TILE_ZL_EVENT_REQ_TIMEOUT (p : Nat) : Fld := ⟨TILE_ZL_EVENT p, 6, 1⟩
def TILE_ZL_EVENT_DEGRADED (p : Nat) : Fld := ⟨TILE_ZL_EVENT p, 7, 1⟩
def TILE_ZL_EVENT_OP_DONE (p : Nat) : Fld := ⟨TILE_ZL_EVENT p, 8, 1⟩
def TILE_ZL_EVENT_RATE_FAIL (p : Nat) : Fld := ⟨TILE_ZL_EVENT p, 9, 1⟩
def TILE_ZL_EVENT_PROTOCOL_ERR (p : Nat) : Fld := ⟨TILE_ZL_EVENT p, 10, 1⟩
/-- `TILE_ZL_EVENT_EN` (05_zitch_link). -/
def TILE_ZL_EVENT_EN (p : Nat) : Nat := 0x100400C + p / 16 * 0x10000 + p % 16 * 0x100
def TILE_ZL_EVENT_EN_LINK_UP (p : Nat) : Fld := ⟨TILE_ZL_EVENT_EN p, 0, 1⟩
def TILE_ZL_EVENT_EN_LINK_DOWN (p : Nat) : Fld := ⟨TILE_ZL_EVENT_EN p, 1, 1⟩
def TILE_ZL_EVENT_EN_FLIT_FAIL (p : Nat) : Fld := ⟨TILE_ZL_EVENT_EN p, 2, 1⟩
def TILE_ZL_EVENT_EN_REPLAY_LIMIT (p : Nat) : Fld := ⟨TILE_ZL_EVENT_EN p, 3, 1⟩
def TILE_ZL_EVENT_EN_AUDIT_MISMATCH (p : Nat) : Fld := ⟨TILE_ZL_EVENT_EN p, 4, 1⟩
def TILE_ZL_EVENT_EN_REQ_ABANDONED (p : Nat) : Fld := ⟨TILE_ZL_EVENT_EN p, 5, 1⟩
def TILE_ZL_EVENT_EN_REQ_TIMEOUT (p : Nat) : Fld := ⟨TILE_ZL_EVENT_EN p, 6, 1⟩
def TILE_ZL_EVENT_EN_DEGRADED (p : Nat) : Fld := ⟨TILE_ZL_EVENT_EN p, 7, 1⟩
def TILE_ZL_EVENT_EN_OP_DONE (p : Nat) : Fld := ⟨TILE_ZL_EVENT_EN p, 8, 1⟩
def TILE_ZL_EVENT_EN_RATE_FAIL (p : Nat) : Fld := ⟨TILE_ZL_EVENT_EN p, 9, 1⟩
def TILE_ZL_EVENT_EN_PROTOCOL_ERR (p : Nat) : Fld := ⟨TILE_ZL_EVENT_EN p, 10, 1⟩
/-- `TILE_ZL_TIMERS` (05_zitch_link). -/
def TILE_ZL_TIMERS (p : Nat) : Nat := 0x1004010 + p / 16 * 0x10000 + p % 16 * 0x100
def TILE_ZL_TIMERS_REPLAY_TIMER (p : Nat) : Fld := ⟨TILE_ZL_TIMERS p, 0, 8⟩
def TILE_ZL_TIMERS_NAK_TIMER (p : Nat) : Fld := ⟨TILE_ZL_TIMERS p, 8, 8⟩
/-- `TILE_ZL_DEGRADE` (05_zitch_link). -/
def TILE_ZL_DEGRADE (p : Nat) : Nat := 0x1004014 + p / 16 * 0x10000 + p % 16 * 0x100
def TILE_ZL_DEGRADE_CORR_THRESH (p : Nat) : Fld := ⟨TILE_ZL_DEGRADE p, 0, 16⟩
def TILE_ZL_DEGRADE_AUDIT_THRESH (p : Nat) : Fld := ⟨TILE_ZL_DEGRADE p, 16, 16⟩
/-- `TILE_ZL_NONCE` (05_zitch_link). -/
def TILE_ZL_NONCE (p : Nat) : Nat := 0x1004018 + p / 16 * 0x10000 + p % 16 * 0x100
def TILE_ZL_NONCE_NONCE (p : Nat) : Fld := ⟨TILE_ZL_NONCE p, 0, 64⟩
/-- `TILE_ZL_PNONCE` (05_zitch_link). -/
def TILE_ZL_PNONCE (p : Nat) : Nat := 0x1004020 + p / 16 * 0x10000 + p % 16 * 0x100
def TILE_ZL_PNONCE_NONCE (p : Nat) : Fld := ⟨TILE_ZL_PNONCE p, 0, 64⟩
/-- `TILE_ZL_AUDIT` (05_zitch_link). -/
def TILE_ZL_AUDIT (p : Nat) : Nat := 0x1004028 + p / 16 * 0x10000 + p % 16 * 0x100
def TILE_ZL_AUDIT_LAST_SUM (p : Nat) : Fld := ⟨TILE_ZL_AUDIT p, 0, 16⟩
def TILE_ZL_AUDIT_VC_MASK (p : Nat) : Fld := ⟨TILE_ZL_AUDIT p, 16, 8⟩
/-- `TILE_D2D_CFG` (05_zitch_link). -/
def TILE_D2D_CFG (t : Nat) : Nat := 0x1006000 + t * 0x10000
def TILE_D2D_CFG_ERR_THRESH (t : Nat) : Fld := ⟨TILE_D2D_CFG t, 0, 8⟩
def TILE_D2D_CFG_WINDOW (t : Nat) : Fld := ⟨TILE_D2D_CFG t, 8, 8⟩
/-- `TILE_D2D_STATUS` (05_zitch_link). -/
def TILE_D2D_STATUS (t k : Nat) : Nat := 0x1006010 + t * 0x10000 + k * 4
def TILE_D2D_STATUS_SPARES_LEFT (t k : Nat) : Fld := ⟨TILE_D2D_STATUS t k, 0, 2⟩
def TILE_D2D_STATUS_HALF_WIDTH (t k : Nat) : Fld := ⟨TILE_D2D_STATUS t k, 2, 1⟩
def TILE_D2D_STATUS_OUT (t k : Nat) : Fld := ⟨TILE_D2D_STATUS t k, 3, 1⟩
def TILE_D2D_STATUS_RETIRED (t k : Nat) : Fld := ⟨TILE_D2D_STATUS t k, 4, 4⟩
def TILE_D2D_STATUS_LAST_LANE (t k : Nat) : Fld := ⟨TILE_D2D_STATUS t k, 8, 6⟩
def TILE_D2D_STATUS_REPLAYS (t k : Nat) : Fld := ⟨TILE_D2D_STATUS t k, 16, 16⟩
/-- `TILE_D2D_EVENT` (05_zitch_link). -/
def TILE_D2D_EVENT (t : Nat) : Nat := 0x1006020 + t * 0x10000
def TILE_D2D_EVENT_RETIRE (t : Nat) : Fld := ⟨TILE_D2D_EVENT t, 0, 1⟩
def TILE_D2D_EVENT_HALF_WIDTH (t : Nat) : Fld := ⟨TILE_D2D_EVENT t, 1, 1⟩
def TILE_D2D_EVENT_OUT (t : Nat) : Fld := ⟨TILE_D2D_EVENT t, 2, 1⟩
def TILE_D2D_EVENT_NARROWED (t : Nat) : Fld := ⟨TILE_D2D_EVENT t, 3, 1⟩
/-- `TILE_D2D_EVENT_EN` (05_zitch_link). -/
def TILE_D2D_EVENT_EN (t : Nat) : Nat := 0x1006024 + t * 0x10000
def TILE_D2D_EVENT_EN_RETIRE (t : Nat) : Fld := ⟨TILE_D2D_EVENT_EN t, 0, 1⟩
def TILE_D2D_EVENT_EN_HALF_WIDTH (t : Nat) : Fld := ⟨TILE_D2D_EVENT_EN t, 1, 1⟩
def TILE_D2D_EVENT_EN_OUT (t : Nat) : Fld := ⟨TILE_D2D_EVENT_EN t, 2, 1⟩
def TILE_D2D_EVENT_EN_NARROWED (t : Nat) : Fld := ⟨TILE_D2D_EVENT_EN t, 3, 1⟩
/-- `TILE_IBUF_ALLOC` (07_switch_core). -/
def TILE_IBUF_ALLOC (p v : Nat) : Nat := 0x1008000 + p / 16 * 0x10000 + p % 16 * 0x20 + v * 4
def TILE_IBUF_ALLOC_SLOTS (p v : Nat) : Fld := ⟨TILE_IBUF_ALLOC p v, 0, 18⟩
def TILE_IBUF_ALLOC_PENDING (p v : Nat) : Fld := ⟨TILE_IBUF_ALLOC p v, 31, 1⟩
/-- `TILE_IBUF_CUR` (07_switch_core). -/
def TILE_IBUF_CUR (p v : Nat) : Nat := 0x1008A00 + p / 16 * 0x10000 + p % 16 * 0x20 + v * 4
def TILE_IBUF_CUR_SLOTS (p v : Nat) : Fld := ⟨TILE_IBUF_CUR p v, 0, 18⟩
/-- `TILE_IBUF_AGENT` (07_switch_core). -/
def TILE_IBUF_AGENT (t : Nat) : Nat := 0x1008200 + t * 0x10000
def TILE_IBUF_AGENT_SLOTS (t : Nat) : Fld := ⟨TILE_IBUF_AGENT t, 0, 18⟩
/-- `TILE_IBUF_STATUS` (07_switch_core). -/
def TILE_IBUF_STATUS (t : Nat) : Nat := 0x1008208 + t * 0x10000
def TILE_IBUF_STATUS_UNALLOC (t : Nat) : Fld := ⟨TILE_IBUF_STATUS t, 0, 18⟩
/-- `TILE_EBUF_VC` (07_switch_core). -/
def TILE_EBUF_VC (p v : Nat) : Nat := 0x1008400 + p / 16 * 0x10000 + p % 16 * 0x20 + v * 4
def TILE_EBUF_VC_MIN (p v : Nat) : Fld := ⟨TILE_EBUF_VC p v, 0, 13⟩
def TILE_EBUF_VC_MAX (p v : Nat) : Fld := ⟨TILE_EBUF_VC p v, 16, 13⟩
/-- `TILE_EBUF_PORTMAX` (07_switch_core). -/
def TILE_EBUF_PORTMAX (p : Nat) : Nat := 0x1008600 + p / 16 * 0x10000 + p % 16 * 4
def TILE_EBUF_PORTMAX_MAX (p : Nat) : Fld := ⟨TILE_EBUF_PORTMAX p, 0, 14⟩
/-- `TILE_EBUF_STATUS` (07_switch_core). -/
def TILE_EBUF_STATUS (t : Nat) : Nat := 0x1008640 + t * 0x10000
def TILE_EBUF_STATUS_SHARED_FREE (t : Nat) : Fld := ⟨TILE_EBUF_STATUS t, 0, 14⟩
/-- `TILE_TRK_QCLASS` (07_switch_core). -/
def TILE_TRK_QCLASS (t q : Nat) : Nat := 0x1008800 + t * 0x10000 + q * 4
def TILE_TRK_QCLASS_MIN (t q : Nat) : Fld := ⟨TILE_TRK_QCLASS t q, 0, 12⟩
def TILE_TRK_QCLASS_MAX (t q : Nat) : Fld := ⟨TILE_TRK_QCLASS t q, 16, 12⟩
/-- `TILE_TRK_USE` (07_switch_core). -/
def TILE_TRK_USE (t q : Nat) : Nat := 0x1008840 + t * 0x10000 + q * 4
def TILE_TRK_USE_IN_USE (t q : Nat) : Fld := ⟨TILE_TRK_USE t q, 0, 12⟩
def TILE_TRK_USE_WAITING (t q : Nat) : Fld := ⟨TILE_TRK_USE t q, 16, 12⟩
/-- `TILE_CORE_EVENT` (07_switch_core). -/
def TILE_CORE_EVENT (t : Nat) : Nat := 0x1008880 + t * 0x10000
def TILE_CORE_EVENT_IBUF_CFG_REFUSED (t : Nat) : Fld := ⟨TILE_CORE_EVENT t, 0, 1⟩
def TILE_CORE_EVENT_EBUF_CFG_REFUSED (t : Nat) : Fld := ⟨TILE_CORE_EVENT t, 1, 1⟩
def TILE_CORE_EVENT_TRK_CFG_REFUSED (t : Nat) : Fld := ⟨TILE_CORE_EVENT t, 2, 1⟩
def TILE_CORE_EVENT_FLUSH_DONE (t : Nat) : Fld := ⟨TILE_CORE_EVENT t, 3, 1⟩
def TILE_CORE_EVENT_RESEQ_NAK (t : Nat) : Fld := ⟨TILE_CORE_EVENT t, 4, 1⟩
def TILE_CORE_EVENT_PORTMAP_REFUSED (t : Nat) : Fld := ⟨TILE_CORE_EVENT t, 5, 1⟩
/-- `TILE_CORE_EVENT_EN` (07_switch_core). -/
def TILE_CORE_EVENT_EN (t : Nat) : Nat := 0x1008884 + t * 0x10000
def TILE_CORE_EVENT_EN_IBUF_CFG_REFUSED (t : Nat) : Fld := ⟨TILE_CORE_EVENT_EN t, 0, 1⟩
def TILE_CORE_EVENT_EN_EBUF_CFG_REFUSED (t : Nat) : Fld := ⟨TILE_CORE_EVENT_EN t, 1, 1⟩
def TILE_CORE_EVENT_EN_TRK_CFG_REFUSED (t : Nat) : Fld := ⟨TILE_CORE_EVENT_EN t, 2, 1⟩
def TILE_CORE_EVENT_EN_FLUSH_DONE (t : Nat) : Fld := ⟨TILE_CORE_EVENT_EN t, 3, 1⟩
def TILE_CORE_EVENT_EN_RESEQ_NAK (t : Nat) : Fld := ⟨TILE_CORE_EVENT_EN t, 4, 1⟩
def TILE_CORE_EVENT_EN_PORTMAP_REFUSED (t : Nat) : Fld := ⟨TILE_CORE_EVENT_EN t, 5, 1⟩
/-- `TILE_FLUSH_COUNT` (07_switch_core). -/
def TILE_FLUSH_COUNT (t : Nat) : Nat := 0x1008890 + t * 0x10000
def TILE_FLUSH_COUNT_DISCARDS (t : Nat) : Fld := ⟨TILE_FLUSH_COUNT t, 0, 64⟩
/-- `LANE_CTRL` (04_lanes). -/
def LANE_CTRL (l : Nat) : Nat := 0x2000000 + l * 0x800
def LANE_CTRL_DISABLE (l : Nat) : Fld := ⟨LANE_CTRL l, 0, 1⟩
def LANE_CTRL_MAX_RATE (l : Nat) : Fld := ⟨LANE_CTRL l, 1, 3⟩
def LANE_CTRL_RX_POL_FORCE (l : Nat) : Fld := ⟨LANE_CTRL l, 4, 1⟩
def LANE_CTRL_RX_POL_VAL (l : Nat) : Fld := ⟨LANE_CTRL l, 5, 1⟩
def LANE_CTRL_TX_POL_INV (l : Nat) : Fld := ⟨LANE_CTRL l, 6, 1⟩
def LANE_CTRL_REV_FORCE (l : Nat) : Fld := ⟨LANE_CTRL l, 7, 1⟩
def LANE_CTRL_REV_VAL (l : Nat) : Fld := ⟨LANE_CTRL l, 8, 1⟩
/-- `LANE_STATUS` (04_lanes). -/
def LANE_STATUS (l : Nat) : Nat := 0x2000004 + l * 0x800
def LANE_STATUS_RATE (l : Nat) : Fld := ⟨LANE_STATUS l, 0, 3⟩
def LANE_STATUS_PLL_LOCK (l : Nat) : Fld := ⟨LANE_STATUS l, 3, 1⟩
def LANE_STATUS_CDR_LOCK (l : Nat) : Fld := ⟨LANE_STATUS l, 4, 1⟩
def LANE_STATUS_LOS (l : Nat) : Fld := ⟨LANE_STATUS l, 5, 1⟩
def LANE_STATUS_RX_POL_AUTO (l : Nat) : Fld := ⟨LANE_STATUS l, 6, 1⟩
def LANE_STATUS_RX_POL (l : Nat) : Fld := ⟨LANE_STATUS l, 7, 1⟩
def LANE_STATUS_REVERSED (l : Nat) : Fld := ⟨LANE_STATUS l, 8, 1⟩
def LANE_STATUS_LOGICAL (l : Nat) : Fld := ⟨LANE_STATUS l, 9, 4⟩
def LANE_STATUS_TEST_OWN (l : Nat) : Fld := ⟨LANE_STATUS l, 13, 1⟩
/-- `LANE_EVENT` (04_lanes). -/
def LANE_EVENT (l : Nat) : Nat := 0x2000008 + l * 0x800
def LANE_EVENT_LOS_SET (l : Nat) : Fld := ⟨LANE_EVENT l, 0, 1⟩
def LANE_EVENT_LOS_CLR (l : Nat) : Fld := ⟨LANE_EVENT l, 1, 1⟩
def LANE_EVENT_LOL (l : Nat) : Fld := ⟨LANE_EVENT l, 2, 1⟩
def LANE_EVENT_CHK_SYNC_LOSS (l : Nat) : Fld := ⟨LANE_EVENT l, 3, 1⟩
def LANE_EVENT_FE_SLIP (l : Nat) : Fld := ⟨LANE_EVENT l, 4, 1⟩
def LANE_EVENT_TXEQ_REJ (l : Nat) : Fld := ⟨LANE_EVENT l, 5, 1⟩
def LANE_EVENT_INJ_CFG_ERR (l : Nat) : Fld := ⟨LANE_EVENT l, 6, 1⟩
def LANE_EVENT_TEST_REFUSED (l : Nat) : Fld := ⟨LANE_EVENT l, 7, 1⟩
def LANE_EVENT_PAT_CFG_ERR (l : Nat) : Fld := ⟨LANE_EVENT l, 8, 1⟩
/-- `LANE_EVENT_EN` (04_lanes). -/
def LANE_EVENT_EN (l : Nat) : Nat := 0x200000C + l * 0x800
def LANE_EVENT_EN_LOS_SET (l : Nat) : Fld := ⟨LANE_EVENT_EN l, 0, 1⟩
def LANE_EVENT_EN_LOS_CLR (l : Nat) : Fld := ⟨LANE_EVENT_EN l, 1, 1⟩
def LANE_EVENT_EN_LOL (l : Nat) : Fld := ⟨LANE_EVENT_EN l, 2, 1⟩
def LANE_EVENT_EN_CHK_SYNC_LOSS (l : Nat) : Fld := ⟨LANE_EVENT_EN l, 3, 1⟩
def LANE_EVENT_EN_FE_SLIP (l : Nat) : Fld := ⟨LANE_EVENT_EN l, 4, 1⟩
def LANE_EVENT_EN_TXEQ_REJ (l : Nat) : Fld := ⟨LANE_EVENT_EN l, 5, 1⟩
def LANE_EVENT_EN_INJ_CFG_ERR (l : Nat) : Fld := ⟨LANE_EVENT_EN l, 6, 1⟩
def LANE_EVENT_EN_TEST_REFUSED (l : Nat) : Fld := ⟨LANE_EVENT_EN l, 7, 1⟩
def LANE_EVENT_EN_PAT_CFG_ERR (l : Nat) : Fld := ⟨LANE_EVENT_EN l, 8, 1⟩
/-- `LANE_DET_CFG` (04_lanes). -/
def LANE_DET_CFG (l : Nat) : Nat := 0x2000010 + l * 0x800
def LANE_DET_CFG_LOS_THRESH (l : Nat) : Fld := ⟨LANE_DET_CFG l, 0, 3⟩
def LANE_DET_CFG_LOS_QUAL (l : Nat) : Fld := ⟨LANE_DET_CFG l, 4, 8⟩
def LANE_DET_CFG_CDR_BW (l : Nat) : Fld := ⟨LANE_DET_CFG l, 12, 2⟩
/-- `LANE_TXEQ` (04_lanes). -/
def LANE_TXEQ (l : Nat) : Nat := 0x2000020 + l * 0x800
def LANE_TXEQ_C_M2 (l : Nat) : Fld := ⟨LANE_TXEQ l, 0, 5⟩
def LANE_TXEQ_C_M1 (l : Nat) : Fld := ⟨LANE_TXEQ l, 5, 6⟩
def LANE_TXEQ_C_MAIN (l : Nat) : Fld := ⟨LANE_TXEQ l, 11, 7⟩
def LANE_TXEQ_C_P1 (l : Nat) : Fld := ⟨LANE_TXEQ l, 18, 6⟩
def LANE_TXEQ_C_P2 (l : Nat) : Fld := ⟨LANE_TXEQ l, 24, 5⟩
def LANE_TXEQ_SW_OWN (l : Nat) : Fld := ⟨LANE_TXEQ l, 31, 1⟩
/-- `LANE_RXEQ` (04_lanes). -/
def LANE_RXEQ (l : Nat) : Nat := 0x2000024 + l * 0x800
def LANE_RXEQ_ADAPT_MODE (l : Nat) : Fld := ⟨LANE_RXEQ l, 0, 2⟩
def LANE_RXEQ_CTLE_PEAK (l : Nat) : Fld := ⟨LANE_RXEQ l, 2, 4⟩
def LANE_RXEQ_VGA_GAIN (l : Nat) : Fld := ⟨LANE_RXEQ l, 6, 6⟩
def LANE_RXEQ_CTLE_USED (l : Nat) : Fld := ⟨LANE_RXEQ l, 12, 4⟩
def LANE_RXEQ_VGA_USED (l : Nat) : Fld := ⟨LANE_RXEQ l, 16, 6⟩
def LANE_RXEQ_EYE_MARGIN (l : Nat) : Fld := ⟨LANE_RXEQ l, 22, 8⟩
def LANE_RXEQ_ADAPT_DONE (l : Nat) : Fld := ⟨LANE_RXEQ l, 30, 1⟩
/-- `LANE_TEST_CTRL` (04_lanes). -/
def LANE_TEST_CTRL (l : Nat) : Nat := 0x2000040 + l * 0x800
def LANE_TEST_CTRL_TEST_OWN (l : Nat) : Fld := ⟨LANE_TEST_CTRL l, 0, 1⟩
def LANE_TEST_CTRL_TEST_RATE (l : Nat) : Fld := ⟨LANE_TEST_CTRL l, 1, 3⟩
def LANE_TEST_CTRL_GEN_PAT (l : Nat) : Fld := ⟨LANE_TEST_CTRL l, 4, 4⟩
def LANE_TEST_CTRL_CHK_PAT (l : Nat) : Fld := ⟨LANE_TEST_CTRL l, 8, 4⟩
def LANE_TEST_CTRL_LOOPBACK (l : Nat) : Fld := ⟨LANE_TEST_CTRL l, 12, 2⟩
def LANE_TEST_CTRL_CHK_CLR (l : Nat) : Fld := ⟨LANE_TEST_CTRL l, 14, 1⟩
/-- `LANE_TEST_STATUS` (04_lanes). -/
def LANE_TEST_STATUS (l : Nat) : Nat := 0x2000044 + l * 0x800
def LANE_TEST_STATUS_CHK_LOCK (l : Nat) : Fld := ⟨LANE_TEST_STATUS l, 0, 1⟩
def LANE_TEST_STATUS_PAT_INV (l : Nat) : Fld := ⟨LANE_TEST_STATUS l, 1, 1⟩
def LANE_TEST_STATUS_SYNC_LOSS_CNT (l : Nat) : Fld := ⟨LANE_TEST_STATUS l, 16, 16⟩
/-- `LANE_USER_PAT` (04_lanes). -/
def LANE_USER_PAT (l : Nat) : Nat := 0x2000048 + l * 0x800
def LANE_USER_PAT_PATTERN (l : Nat) : Fld := ⟨LANE_USER_PAT l, 0, 64⟩
/-- `LANE_INJ_CTRL` (04_lanes). -/
def LANE_INJ_CTRL (l : Nat) : Nat := 0x2000050 + l * 0x800
def LANE_INJ_CTRL_MODE (l : Nat) : Fld := ⟨LANE_INJ_CTRL l, 0, 2⟩
def LANE_INJ_CTRL_BURST_LEN (l : Nat) : Fld := ⟨LANE_INJ_CTRL l, 2, 6⟩
def LANE_INJ_CTRL_RATE_MANT (l : Nat) : Fld := ⟨LANE_INJ_CTRL l, 8, 4⟩
def LANE_INJ_CTRL_RATE_EXP (l : Nat) : Fld := ⟨LANE_INJ_CTRL l, 12, 4⟩
def LANE_INJ_CTRL_FIRE (l : Nat) : Fld := ⟨LANE_INJ_CTRL l, 16, 1⟩
def LANE_INJ_CTRL_TARGET (l : Nat) : Fld := ⟨LANE_INJ_CTRL l, 17, 1⟩
/-- `LANE_INJ_COUNT` (04_lanes). -/
def LANE_INJ_COUNT (l : Nat) : Nat := 0x2000058 + l * 0x800
def LANE_INJ_COUNT_COUNT (l : Nat) : Fld := ⟨LANE_INJ_COUNT l, 0, 64⟩
/-- `LANE_CHK_BITS` (04_lanes). -/
def LANE_CHK_BITS (l : Nat) : Nat := 0x2000060 + l * 0x800
def LANE_CHK_BITS_COUNT (l : Nat) : Fld := ⟨LANE_CHK_BITS l, 0, 64⟩
/-- `LANE_CHK_ERRS` (04_lanes). -/
def LANE_CHK_ERRS (l : Nat) : Nat := 0x2000068 + l * 0x800
def LANE_CHK_ERRS_COUNT (l : Nat) : Fld := ⟨LANE_CHK_ERRS l, 0, 64⟩
/-- `LANE_GRP_MASK` (04_lanes). -/
def LANE_GRP_MASK (g i : Nat) : Nat := 0x2210000 + g * 0x80 + i * 4
def LANE_GRP_MASK_MASK (g i : Nat) : Fld := ⟨LANE_GRP_MASK g i, 0, 32⟩
/-- `TILE_GRP_MASK` (23_register_map). -/
def TILE_GRP_MASK (g : Nat) : Nat := 0xF90000 + g * 8
def TILE_GRP_MASK_MASK (g : Nat) : Fld := ⟨TILE_GRP_MASK g, 0, 64⟩
/-- `CNT_FB_CYCLE` (18_counters_timebase). -/
def CNT_FB_CYCLE (c : Nat) : Nat := 0x40A0000 + c * 0x80
def CNT_FB_CYCLE_CYCLES (c : Nat) : Fld := ⟨CNT_FB_CYCLE c, 0, 64⟩
/-- `CNT_FB_CTRL` (18_counters_timebase). -/
def CNT_FB_CTRL (c : Nat) : Nat := 0x40A0008 + c * 0x80
def CNT_FB_CTRL_EN (c : Nat) : Fld := ⟨CNT_FB_CTRL c, 0, 8⟩
def CNT_FB_CTRL_CHAIN (c : Nat) : Fld := ⟨CNT_FB_CTRL c, 8, 4⟩
def CNT_FB_CTRL_FREEZE (c : Nat) : Fld := ⟨CNT_FB_CTRL c, 12, 1⟩
def CNT_FB_CTRL_CYC_EN (c : Nat) : Fld := ⟨CNT_FB_CTRL c, 13, 1⟩
def CNT_FB_CTRL_IRQ_EN (c : Nat) : Fld := ⟨CNT_FB_CTRL c, 16, 8⟩
/-- `CNT_FB_OVF` (18_counters_timebase). -/
def CNT_FB_OVF (c : Nat) : Nat := 0x40A000C + c * 0x80
def CNT_FB_OVF_OVF (c : Nat) : Fld := ⟨CNT_FB_OVF c, 0, 8⟩
/-- `CNT_FB_SEL` (18_counters_timebase). -/
def CNT_FB_SEL (c n : Nat) : Nat := 0x40A0010 + c * 0x80 + n * 4
def CNT_FB_SEL_EVSEL (c n : Nat) : Fld := ⟨CNT_FB_SEL c n, 0, 8⟩
/-- `CNT_FB_CNT` (18_counters_timebase). -/
def CNT_FB_CNT (c n : Nat) : Nat := 0x40A0040 + c * 0x80 + n * 4
def CNT_FB_CNT_COUNT (c n : Nat) : Fld := ⟨CNT_FB_CNT c n, 0, 32⟩
/-- `CNT_DOM` (18_counters_timebase). -/
def CNT_DOM (d k : Nat) : Nat := 0x4000000 + d * 0x80 + k * 8
def CNT_DOM_VALUE (d k : Nat) : Fld := ⟨CNT_DOM d k, 0, 64⟩
/-- `CNT_TILE` (18_counters_timebase). -/
def CNT_TILE (t k : Nat) : Nat := 0x4080000 + t * 0x400 + k * 8
def CNT_TILE_VALUE (t k : Nat) : Fld := ⟨CNT_TILE t k, 0, 64⟩
/-- `CNT_CORE` (18_counters_timebase). -/
def CNT_CORE (c k : Nat) : Nat := 0x4090000 + c * 0x200 + k * 8
def CNT_CORE_VALUE (c k : Nat) : Fld := ⟨CNT_CORE c k, 0, 64⟩
/-- `CNT_PVT` (18_counters_timebase). -/
def CNT_PVT (h j : Nat) : Nat := 0x4094000 + h * 0x200 + j * 8
def CNT_PVT_VALUE (h j : Nat) : Fld := ⟨CNT_PVT h j, 0, 64⟩
/-- `MSIX_ADDR` (23_register_map). -/
def MSIX_ADDR (v : Nat) : Nat := 0xF000 + v * 0x10
def MSIX_ADDR_ADDR (v : Nat) : Fld := ⟨MSIX_ADDR v, 2, 62⟩
/-- `MSIX_DATA` (23_register_map). -/
def MSIX_DATA (v : Nat) : Nat := 0xF008 + v * 0x10
def MSIX_DATA_DATA (v : Nat) : Fld := ⟨MSIX_DATA v, 0, 32⟩
/-- `MSIX_CTRL` (23_register_map). -/
def MSIX_CTRL (v : Nat) : Nat := 0xF00C + v * 0x10
def MSIX_CTRL_MASKED (v : Nat) : Fld := ⟨MSIX_CTRL v, 0, 1⟩
/-- `MSIX_PBA` (23_register_map). -/
def MSIX_PBA : Nat := 0xF800
def MSIX_PBA_PENDING : Fld := ⟨MSIX_PBA, 0, 16⟩
/-- `LVR_SNAP_DBIN` (13_louvre). -/
def LVR_SNAP_DBIN (i : Nat) : Nat := 0x504100 + i * 4
def LVR_SNAP_DBIN_DBIN (i : Nat) : Fld := ⟨LVR_SNAP_DBIN i, 0, 32⟩
/-- `LVR_SNAP_QBIN` (13_louvre). -/
def LVR_SNAP_QBIN (i : Nat) : Nat := 0x504140 + i * 4
def LVR_SNAP_QBIN_QBIN (i : Nat) : Fld := ⟨LVR_SNAP_QBIN i, 0, 32⟩
/-- `LVR_SNAP_DMAX` (13_louvre). -/
def LVR_SNAP_DMAX : Nat := 0x504180
def LVR_SNAP_DMAX_DMAX : Fld := ⟨LVR_SNAP_DMAX, 0, 32⟩
/-- `LVR_SNAP_QMAX` (13_louvre). -/
def LVR_SNAP_QMAX : Nat := 0x504184
def LVR_SNAP_QMAX_QMAX : Fld := ⟨LVR_SNAP_QMAX, 0, 32⟩
/-- `LVR_SNAP_DMAX_TIME` (13_louvre). -/
def LVR_SNAP_DMAX_TIME : Nat := 0x504188
def LVR_SNAP_DMAX_TIME_DMAX_TIME : Fld := ⟨LVR_SNAP_DMAX_TIME, 0, 64⟩
/-- `LVR_SNAP_FIRST` (13_louvre). -/
def LVR_SNAP_FIRST : Nat := 0x504190
def LVR_SNAP_FIRST_FIRST : Fld := ⟨LVR_SNAP_FIRST, 0, 64⟩
/-- `LVR_SNAP_LAST` (13_louvre). -/
def LVR_SNAP_LAST : Nat := 0x504198
def LVR_SNAP_LAST_LAST : Fld := ⟨LVR_SNAP_LAST, 0, 64⟩
/-- `LVR_SNAP_SAMPLES` (13_louvre). -/
def LVR_SNAP_SAMPLES : Nat := 0x5041A0
def LVR_SNAP_SAMPLES_SAMPLES : Fld := ⟨LVR_SNAP_SAMPLES, 0, 32⟩

/-- Register tables, block Glb. -/
def regsGlb0 : List RegDesc := [
  ⟨"GLB_IDENT", 0, [], 4, [⟨"DEVICE", 0, 16, .ro, 0xA10⟩, ⟨"REVISION", 16, 8, .ro, 0x10⟩, ⟨"GRADE", 24, 1, .ro, 0⟩]⟩,
  ⟨"GLB_MODE", 4, [], 4, [⟨"MODE", 0, 1, .ro, 0⟩, ⟨"PERSONALITIES", 1, 3, .ro, 0⟩, ⟨"LATCHED", 4, 1, .ro, 0⟩]⟩,
  ⟨"GLB_UID", 8, [], 8, [⟨"UID", 0, 64, .ro, 0⟩]⟩,
  ⟨"GLB_IRQ_STATUS", 0x20, [], 4, [⟨"SUMMARY", 0, 11, .ro, 0⟩]⟩,
  ⟨"GLB_IRQ_MASK", 0x24, [], 4, [⟨"MASK", 0, 11, .rw, 0x7FF⟩]⟩,
  ⟨"GLB_IRQ_EOI", 0x28, [], 4, [⟨"EOI", 0, 11, .wo, 0⟩]⟩,
  ⟨"GLB_IRQ_SEQ_EN", 0x2C, [], 4, [⟨"SEQ_EN", 0, 11, .rw, 0⟩]⟩,
  ⟨"GLB_ACC_EVENT", 0x30, [], 4, [⟨"SIZE_ERR", 0, 1, .rw1c, 0⟩, ⟨"LOCKED", 1, 1, .rw1c, 0⟩]⟩,
  ⟨"GLB_ACC_EVENT_EN", 0x34, [], 4, [⟨"SIZE_ERR", 0, 1, .rw, 0⟩, ⟨"LOCKED", 1, 1, .rw, 0⟩]⟩,
  ⟨"GLB_ACC_ADDR", 0x38, [], 4, [⟨"OFFSET", 0, 28, .ro, 0⟩]⟩,
  ⟨"GLB_TILE_PEND", 0x100, [], 8, [⟨"TILES", 0, 64, .ro, 0⟩]⟩,
  ⟨"GLB_LANE_PEND", 0x200, [(32, 4)], 4, [⟨"LANES", 0, 32, .ro, 0⟩]⟩,
  ⟨"GLB_PLANE_CTRL", 0x2000, [], 4, [⟨"OUT", 0, 4, .rw1s, 0⟩]⟩,
  ⟨"GLB_PLANE_STATUS", 0x2004, [], 4, [⟨"IN_SERVICE", 0, 4, .ro, 0xF⟩, ⟨"CELL_ERRS", 8, 16, .ro, 0⟩]⟩,
  ⟨"GLB_PLANE_EVENT", 0x2008, [], 4, [⟨"PLANE_OUT", 0, 1, .rw1c, 0⟩, ⟨"DEGRADED", 1, 1, .rw1c, 0⟩]⟩,
  ⟨"GLB_PLANE_EVENT_EN", 0x200C, [], 4, [⟨"PLANE_OUT", 0, 1, .rw, 1⟩, ⟨"DEGRADED", 1, 1, .rw, 1⟩]⟩,
  ⟨"GLB_PLANE_CFG", 0x2010, [], 4, [⟨"ERR_THRESH", 0, 8, .rw, 0x10⟩, ⟨"RESEQ_TIMEOUT", 8, 16, .rw, 0x100⟩]⟩,
  ⟨"TF_STATUS", 0x8000, [], 4, [⟨"TF_MODE", 0, 1, .ro, 0⟩, ⟨"PERSONALITIES", 1, 3, .ro, 0⟩, ⟨"CFG_VALID", 4, 4, .ro, 0⟩, ⟨"KFUNC", 8, 1, .ro, 0⟩, ⟨"PREV_TF", 9, 1, .ro, 0⟩]⟩,
  ⟨"TF_QUIRK", 0x8010, [(4, 4)], 4, [⟨"SPEED64", 0, 1, .rw, 0⟩, ⟨"E7", 1, 1, .rw, 0⟩]⟩,
  ⟨"TF_IDENT_REVEAL", 0x8020, [(4, 4)], 4, [⟨"REVEAL", 0, 1, .rw, 0⟩, ⟨"IN_EFFECT", 1, 1, .ro, 0⟩]⟩,
  ⟨"TF_FWA", 0x8030, [(4, 4)], 4, [⟨"MAX", 0, 16, .ro, 0⟩, ⟨"LATE", 16, 16, .ro, 0⟩]⟩,
  ⟨"MSIX_ADDR", 0xF000, [(16, 0x10)], 8, [⟨"ADDR", 2, 62, .rw, 0⟩]⟩,
  ⟨"MSIX_DATA", 0xF008, [(16, 0x10)], 4, [⟨"DATA", 0, 32, .rw, 0⟩]⟩,
  ⟨"MSIX_CTRL", 0xF00C, [(16, 0x10)], 4, [⟨"MASKED", 0, 1, .rw, 1⟩]⟩]
/-- Register tables, block Glb. -/
def regsGlb1 : List RegDesc := [
  ⟨"MSIX_PBA", 0xF800, [], 8, [⟨"PENDING", 0, 16, .ro, 0⟩]⟩]
/-- Register tables, block Glb. -/
def regsGlb : List RegDesc := regsGlb0 ++ regsGlb1
/-- Register tables, block Wkt. -/
def regsWkt0 : List RegDesc := [
  ⟨"SPC_GRP_MASK", 0x100C00, [(8, 8)], 8, [⟨"MASK", 0, 64, .rw, 0⟩]⟩,
  ⟨"SPC_CTRL", 0x101000, [(72, 0x40)], 4, [⟨"ON", 0, 1, .rw, 0⟩, ⟨"RETRY_MAX", 1, 3, .rw, 0⟩, ⟨"RETRY_BASE", 4, 4, .rw, 1⟩, ⟨"CLR_MEAS", 8, 1, .wo, 0⟩]⟩,
  ⟨"SPC_SENSE", 0x101004, [(72, 0x40)], 4, [⟨"RSHUNT", 0, 10, .rw, 0x64⟩, ⟨"ITRIP", 16, 16, .rw, 0x1F4⟩]⟩,
  ⟨"SPC_TIMER", 0x101008, [(72, 0x40)], 4, [⟨"OC_TIME", 0, 16, .rw, 0x64⟩, ⟨"I2T_LIMIT", 16, 16, .rw, 0⟩]⟩,
  ⟨"SPC_RAMP", 0x10100C, [(72, 0x40)], 4, [⟨"RATE", 0, 7, .rw, 0x14⟩, ⟨"PG_QUAL", 8, 8, .rw, 0x14⟩, ⟨"INRUSH_EST", 16, 16, .rw, 0xC8⟩]⟩,
  ⟨"SPC_ENERGY", 0x101010, [(72, 0x40)], 4, [⟨"INSERT_BUDGET", 0, 11, .rw, 0x1F4⟩, ⟨"FAULT_E", 16, 16, .rw, 0x64⟩]⟩,
  ⟨"PPC_SOA", 0x101014, [(72, 0x40)], 4, [⟨"SOA_PWR", 0, 16, .rw, 0x64⟩]⟩,
  ⟨"SPC_STATUS", 0x101018, [(72, 0x40)], 4, [⟨"STATE", 0, 3, .ro, 0⟩, ⟨"PG", 3, 1, .ro, 0⟩, ⟨"PG_WARN", 4, 1, .ro, 0⟩, ⟨"LIMITING", 5, 1, .ro, 0⟩, ⟨"TIMER", 6, 1, .ro, 0⟩, ⟨"OWNED", 7, 1, .ro, 0⟩, ⟨"TRIP_CAUSE", 8, 4, .ro, 0⟩, ⟨"RETRIES", 12, 3, .ro, 0⟩]⟩,
  ⟨"SPC_EVENT", 0x10101C, [(72, 0x40)], 4, [⟨"TRIP", 0, 1, .rw1c, 0⟩, ⟨"PG_RISE", 1, 1, .rw1c, 0⟩, ⟨"PG_FALL", 2, 1, .rw1c, 0⟩, ⟨"PG_WARN", 3, 1, .rw1c, 0⟩, ⟨"RETRY", 4, 1, .rw1c, 0⟩, ⟨"CFG_REFUSED", 5, 1, .rw1c, 0⟩, ⟨"CTRL_REFUSED", 6, 1, .rw1c, 0⟩]⟩,
  ⟨"SPC_EVENT_EN", 0x101020, [(72, 0x40)], 4, [⟨"TRIP", 0, 1, .rw, 1⟩, ⟨"PG_RISE", 1, 1, .rw, 0⟩, ⟨"PG_FALL", 2, 1, .rw, 1⟩, ⟨"PG_WARN", 3, 1, .rw, 1⟩, ⟨"RETRY", 4, 1, .rw, 0⟩, ⟨"CFG_REFUSED", 5, 1, .rw, 1⟩, ⟨"CTRL_REFUSED", 6, 1, .rw, 1⟩]⟩,
  ⟨"SPC_PEAK", 0x101024, [(72, 0x40)], 4, [⟨"I", 0, 16, .ro, 0⟩, ⟨"V", 16, 16, .ro, 0⟩]⟩,
  ⟨"SPC_MIN", 0x101028, [(72, 0x40)], 4, [⟨"I", 0, 16, .ro, 0xFFFF⟩, ⟨"V", 16, 16, .ro, 0xFFFF⟩]⟩,
  ⟨"SPC_ENERGY_ACC", 0x101030, [(72, 0x40)], 8, [⟨"UJ", 0, 64, .ro, 0⟩]⟩,
  ⟨"SPC_INS_ENERGY", 0x101038, [(72, 0x40)], 4, [⟨"MJ", 0, 32, .ro, 0⟩]⟩,
  ⟨"ORG_CTRL", 0x103000, [], 4, [⟨"MODE", 0, 2, .rw, 0⟩, ⟨"EN_A", 2, 1, .rw, 1⟩, ⟨"EN_B", 3, 1, .rw, 1⟩, ⟨"CLR_MEAS", 4, 1, .wo, 0⟩, ⟨"BUS_INRUSH", 16, 16, .rw, 0x7D0⟩]⟩,
  ⟨"ORG_CFG", 0x103004, [], 4, [⟨"RDSON_A", 0, 8, .rw, 0xA⟩, ⟨"RDSON_B", 8, 8, .rw, 0xA⟩, ⟨"UV", 16, 8, .rw, 0x1E⟩, ⟨"OV", 24, 8, .rw, 0x1E⟩]⟩,
  ⟨"ORG_STATUS", 0x103008, [], 4, [⟨"A_VALID", 0, 1, .ro, 0⟩, ⟨"B_VALID", 1, 1, .ro, 0⟩, ⟨"A_ON", 2, 1, .ro, 0⟩, ⟨"B_ON", 3, 1, .ro, 0⟩, ⟨"A_REV", 4, 1, .ro, 0⟩, ⟨"B_REV", 5, 1, .ro, 0⟩, ⟨"RAMP_SUM", 16, 16, .ro, 0⟩]⟩,
  ⟨"ORG_EVENT", 0x10300C, [], 4, [⟨"FEED_A_LOST", 0, 1, .rw1c, 0⟩, ⟨"FEED_B_LOST", 1, 1, .rw1c, 0⟩, ⟨"REVERSE", 2, 1, .rw1c, 0⟩, ⟨"SWITCHOVER", 3, 1, .rw1c, 0⟩, ⟨"FEED_RESTORED", 4, 1, .rw1c, 0⟩]⟩,
  ⟨"ORG_EVENT_EN", 0x103010, [], 4, [⟨"FEED_A_LOST", 0, 1, .rw, 1⟩, ⟨"FEED_B_LOST", 1, 1, .rw, 1⟩, ⟨"REVERSE", 2, 1, .rw, 1⟩, ⟨"SWITCHOVER", 3, 1, .rw, 1⟩, ⟨"FEED_RESTORED", 4, 1, .rw, 0⟩]⟩,
  ⟨"ORG_PEAK", 0x103020, [(2, 0x20)], 4, [⟨"I", 0, 16, .ro, 0⟩, ⟨"V", 16, 16, .ro, 0⟩]⟩,
  ⟨"ORG_MIN", 0x103024, [(2, 0x20)], 4, [⟨"I", 0, 16, .ro, 0xFFFF⟩, ⟨"V", 16, 16, .ro, 0xFFFF⟩]⟩,
  ⟨"ORG_ENERGY_ACC", 0x103028, [(2, 0x20)], 8, [⟨"UJ", 0, 64, .ro, 0⟩]⟩,
  ⟨"WKT_PWR_CTRL", 0x104000, [], 4, [⟨"REQ", 0, 2, .wo, 0⟩, ⟨"IDLE_EN", 2, 1, .rw, 0⟩, ⟨"FORCE", 3, 1, .rw, 0⟩, ⟨"IDLE_HOLD", 8, 8, .rw, 0x64⟩]⟩,
  ⟨"WKT_PWR_STATUS", 0x104004, [], 4, [⟨"STATE", 0, 3, .ro, 0⟩, ⟨"LAST_WAKE", 4, 3, .ro, 0⟩, ⟨"ABORT_CODE", 8, 4, .ro, 0⟩]⟩]
/-- Register tables, block Wkt. -/
def regsWkt1 : List RegDesc := [
  ⟨"WKT_WAKE_EN", 0x104008, [], 4, [⟨"EN", 0, 5, .rw, 3⟩]⟩,
  ⟨"WKT_PWR_EVENT", 0x10400C, [], 4, [⟨"ENTRY_ABORT", 0, 1, .rw1c, 0⟩, ⟨"WAKE_ABORT", 1, 1, .rw1c, 0⟩, ⟨"WOKE", 2, 1, .rw1c, 0⟩, ⟨"SHUTTER_REFUSED", 3, 1, .rw1c, 0⟩]⟩,
  ⟨"WKT_PWR_EVENT_EN", 0x104010, [], 4, [⟨"ENTRY_ABORT", 0, 1, .rw, 1⟩, ⟨"WAKE_ABORT", 1, 1, .rw, 1⟩, ⟨"WOKE", 2, 1, .rw, 0⟩, ⟨"SHUTTER_REFUSED", 3, 1, .rw, 1⟩]⟩,
  ⟨"WKT_WAKE_TIMER", 0x104018, [], 4, [⟨"MS", 0, 32, .rw, 0⟩]⟩,
  ⟨"WKT_KEEP_SEL", 0x104020, [], 4, [⟨"FIXED", 0, 8, .ro, 0xFF⟩, ⟨"SEL", 8, 8, .rw, 0⟩]⟩,
  ⟨"WKT_SHUTTER", 0x104040, [], 8, [⟨"TILE", 0, 64, .rw, 0⟩]⟩,
  ⟨"WKT_SHUTTER_STATUS", 0x104048, [], 8, [⟨"TILE", 0, 64, .ro, 0⟩]⟩,
  ⟨"WKT_SHUTTER_DIE", 0x104050, [], 4, [⟨"DIE", 0, 8, .ro, 0⟩]⟩,
  ⟨"WKT_THERM_CFG", 0x105000, [], 4, [⟨"WARN_C", 0, 8, .rw, 0⟩]⟩,
  ⟨"WKT_THERM_EVENT", 0x105004, [], 4, [⟨"WARN", 0, 1, .rw1c, 0⟩]⟩,
  ⟨"WKT_THERM_EVENT_EN", 0x105008, [], 4, [⟨"WARN", 0, 1, .rw, 1⟩]⟩,
  ⟨"WKT_BOOT_STATUS", 0x10F000, [], 4, [⟨"STAGE", 0, 3, .ro, 0⟩, ⟨"SLOT", 3, 1, .ro, 0⟩, ⟨"FALLBACK", 4, 1, .ro, 0⟩, ⟨"TRAIN_CACHE", 5, 1, .ro, 0⟩, ⟨"BAD_A", 6, 1, .ro, 0⟩, ⟨"BAD_B", 7, 1, .ro, 0⟩, ⟨"HALT_CODE", 8, 4, .ro, 0⟩, ⟨"ATTEMPTS", 12, 2, .ro, 0⟩, ⟨"LAST_RESET", 16, 8, .ro, 0⟩, ⟨"PREV_RESET", 24, 8, .ro, 0⟩]⟩,
  ⟨"WKT_RESET_CTRL", 0x10F008, [], 4, [⟨"TYPE", 0, 3, .wo, 0⟩, ⟨"TILE", 8, 6, .wo, 0⟩, ⟨"KEY", 16, 16, .wo, 0⟩]⟩,
  ⟨"WKT_THERM_SENSOR", 0x105100, [(40, 4)], 4, [⟨"TEMP", 0, 8, .ro, 0⟩]⟩]
/-- Register tables, block Wkt. -/
def regsWkt : List RegDesc := regsWkt0 ++ regsWkt1
/-- Register tables, block Tb. -/
def regsTb : List RegDesc := [
  ⟨"TB_NS", 0x200000, [], 8, [⟨"NS", 0, 64, .ro, 0⟩]⟩,
  ⟨"TB_FRAC", 0x200008, [], 4, [⟨"FRAC", 0, 16, .ro, 0⟩]⟩,
  ⟨"TB_CTRL", 0x200010, [], 4, [⟨"PPS_EN", 0, 1, .rw, 1⟩, ⟨"PPS_FORCE", 1, 1, .rw, 0⟩, ⟨"CLKIN_EN", 2, 1, .rw, 0⟩, ⟨"LOAD", 3, 1, .wo, 0⟩, ⟨"STEP", 4, 1, .wo, 0⟩]⟩,
  ⟨"TB_RATE", 0x200014, [], 4, [⟨"RATE", 0, 32, .rw, 0⟩]⟩,
  ⟨"TB_WINDOW", 0x200018, [], 4, [⟨"WINDOW", 0, 20, .rw, 0x7D0⟩]⟩,
  ⟨"TB_SET", 0x200020, [], 8, [⟨"VALUE", 0, 64, .rw, 0⟩]⟩,
  ⟨"TB_PPS_CAPT", 0x200028, [], 8, [⟨"VALUE", 0, 64, .ro, 0⟩]⟩,
  ⟨"TB_PPS_OFFSET", 0x200030, [], 8, [⟨"VALUE", 0, 64, .ro, 0⟩]⟩,
  ⟨"TB_PPS_STATUS", 0x200038, [], 4, [⟨"LOCKED", 0, 1, .ro, 0⟩, ⟨"EDGES", 16, 16, .ro, 0⟩]⟩,
  ⟨"TB_EVENT", 0x200040, [], 4, [⟨"PPS_SNAP", 0, 1, .rw1c, 0⟩, ⟨"PPS_FAR", 1, 1, .rw1c, 0⟩, ⟨"PPS_EARLY", 2, 1, .rw1c, 0⟩, ⟨"PPS_LOSS", 3, 1, .rw1c, 0⟩]⟩,
  ⟨"TB_EVENT_EN", 0x200044, [], 4, [⟨"PPS_SNAP", 0, 1, .rw, 0⟩, ⟨"PPS_FAR", 1, 1, .rw, 1⟩, ⟨"PPS_EARLY", 2, 1, .rw, 1⟩, ⟨"PPS_LOSS", 3, 1, .rw, 1⟩]⟩]
/-- Register tables, block Err. -/
def regsErr : List RegDesc := [
  ⟨"ERR_CTRL", 0x300000, [], 4, [⟨"COALESCE", 0, 8, .rw, 0xA⟩]⟩,
  ⟨"ERR_CTO", 0x300004, [], 4, [⟨"PERIOD", 0, 23, .rw, 0x2710⟩, ⟨"LATE_MULT", 24, 4, .rw, 3⟩]⟩,
  ⟨"ERR_JRN_BASE", 0x300010, [], 8, [⟨"BASE", 6, 58, .rw, 0⟩]⟩,
  ⟨"ERR_JRN_CFG", 0x300018, [], 4, [⟨"LOG2_ENTRIES", 0, 5, .rw, 0⟩]⟩,
  ⟨"ERR_JRN_HEAD", 0x30001C, [], 4, [⟨"COUNT", 0, 32, .ro, 0⟩]⟩,
  ⟨"ERR_JRN_TAIL", 0x300020, [], 4, [⟨"COUNT", 0, 32, .rw, 0⟩]⟩,
  ⟨"ERR_JRN_DROP", 0x300024, [], 4, [⟨"COUNT", 0, 32, .ro, 0⟩]⟩,
  ⟨"ERR_EVENT", 0x300028, [], 4, [⟨"RECORD", 0, 1, .rw1c, 0⟩, ⟨"CONTAINED", 1, 1, .rw1c, 0⟩, ⟨"PORT_FATAL", 2, 1, .rw1c, 0⟩, ⟨"JRN_FULL", 3, 1, .rw1c, 0⟩, ⟨"DOM_FERR", 4, 1, .rw1c, 0⟩]⟩,
  ⟨"ERR_EVENT_EN", 0x30002C, [], 4, [⟨"RECORD", 0, 1, .rw, 0⟩, ⟨"CONTAINED", 1, 1, .rw, 1⟩, ⟨"PORT_FATAL", 2, 1, .rw, 1⟩, ⟨"JRN_FULL", 3, 1, .rw, 1⟩, ⟨"DOM_FERR", 4, 1, .rw, 0⟩]⟩,
  ⟨"ERR_SCRUB", 0x300030, [], 4, [⟨"HOURS", 0, 8, .rw, 0x18⟩, ⟨"PASS_PCT", 8, 8, .ro, 0⟩]⟩,
  ⟨"ERR_LOST_BUCKETS", 0x300034, [], 4, [⟨"USED", 0, 9, .ro, 0⟩]⟩,
  ⟨"ERR_VIRAL_EN", 0x300400, [(32, 4)], 4, [⟨"PORTS", 0, 32, .rw, 0⟩]⟩,
  ⟨"ERR_VIRAL_STATUS", 0x300480, [(32, 4)], 4, [⟨"PORTS", 0, 32, .ro, 0⟩]⟩]
/-- Register tables, block Pvt. -/
def regsPvt0 : List RegDesc := [
  ⟨"PVT_CTRL", 0x400000, [], 4, [⟨"ENABLE", 0, 1, .rw, 0⟩]⟩,
  ⟨"PVT_T2_CFG", 0x400004, [], 4, [⟨"LOG2_ENTRIES", 0, 5, .rw, 0⟩, ⟨"MIRROR", 5, 1, .rw, 1⟩]⟩,
  ⟨"PVT_SUM_CFG", 0x400008, [], 4, [⟨"REBUILD_AT", 0, 16, .rw, 0x1000⟩, ⟨"REBUILD", 16, 1, .wo, 0⟩]⟩,
  ⟨"PVT_EVICT_CFG", 0x40000C, [], 4, [⟨"MAX_EVICT", 0, 12, .rw, 0x400⟩]⟩,
  ⟨"PVT_STATUS", 0x400010, [], 4, [⟨"T1_USED", 0, 23, .ro, 0⟩, ⟨"REBUILDING", 23, 1, .ro, 0⟩, ⟨"WALKING", 24, 1, .ro, 0⟩]⟩,
  ⟨"PVT_T2_USED", 0x400014, [], 4, [⟨"COUNT", 0, 32, .ro, 0⟩]⟩,
  ⟨"PVT_SUM_SAT", 0x400018, [], 4, [⟨"COUNT", 0, 32, .ro, 0⟩]⟩,
  ⟨"PVT_BUSY", 0x40001C, [], 4, [⟨"COUNT", 0, 32, .ro, 0⟩]⟩,
  ⟨"PVT_EVENT", 0x400020, [], 4, [⟨"CFG_REFUSED", 0, 1, .rw1c, 0⟩, ⟨"STRAY_WB", 1, 1, .rw1c, 0⟩, ⟨"NONMEMBER", 2, 1, .rw1c, 0⟩, ⟨"BUCKET_OVERFLOW", 3, 1, .rw1c, 0⟩, ⟨"REBUILD_DONE", 4, 1, .rw1c, 0⟩, ⟨"QUOTA_DONE", 5, 1, .rw1c, 0⟩, ⟨"T2_COPY_USED", 6, 1, .rw1c, 0⟩, ⟨"PROTOCOL", 7, 1, .rw1c, 0⟩]⟩,
  ⟨"PVT_EVENT_EN", 0x400024, [], 4, [⟨"CFG_REFUSED", 0, 1, .rw, 1⟩, ⟨"STRAY_WB", 1, 1, .rw, 1⟩, ⟨"NONMEMBER", 2, 1, .rw, 1⟩, ⟨"BUCKET_OVERFLOW", 3, 1, .rw, 0⟩, ⟨"REBUILD_DONE", 4, 1, .rw, 0⟩, ⟨"QUOTA_DONE", 5, 1, .rw, 0⟩, ⟨"T2_COPY_USED", 6, 1, .rw, 1⟩, ⟨"PROTOCOL", 7, 1, .rw, 1⟩]⟩,
  ⟨"PVT_LOSS_EVENT", 0x400028, [], 4, [⟨"MEMBER_DEAD", 0, 1, .rw1c, 0⟩, ⟨"WALK_DONE", 1, 1, .rw1c, 0⟩, ⟨"SNOOP_TIMEOUT", 2, 1, .rw1c, 0⟩, ⟨"LINE_LOST", 3, 1, .rw1c, 0⟩, ⟨"LOST_FULL", 4, 1, .rw1c, 0⟩, ⟨"STARVE", 5, 1, .rw1c, 0⟩, ⟨"RECOVERY_DONE", 6, 1, .rw1c, 0⟩, ⟨"STATE_LOST", 7, 1, .rw1c, 0⟩]⟩,
  ⟨"PVT_LOSS_EVENT_EN", 0x40002C, [], 4, [⟨"MEMBER_DEAD", 0, 1, .rw, 1⟩, ⟨"WALK_DONE", 1, 1, .rw, 0⟩, ⟨"SNOOP_TIMEOUT", 2, 1, .rw, 1⟩, ⟨"LINE_LOST", 3, 1, .rw, 1⟩, ⟨"LOST_FULL", 4, 1, .rw, 1⟩, ⟨"STARVE", 5, 1, .rw, 0⟩, ⟨"RECOVERY_DONE", 6, 1, .rw, 0⟩, ⟨"STATE_LOST", 7, 1, .rw, 1⟩]⟩,
  ⟨"PVT_DEAD_CFG", 0x400030, [], 4, [⟨"LINK_TIMEOUT", 0, 16, .rw, 0x32⟩, ⟨"SNOOP_TIMEOUT", 16, 16, .rw, 0x64⟩]⟩,
  ⟨"PVT_RECOVERY", 0x400034, [], 4, [⟨"SETS_LEFT", 0, 19, .ro, 0⟩, ⟨"ACTIVE", 19, 1, .ro, 0⟩]⟩,
  ⟨"PVT_RING_STATUS", 0x400038, [], 4, [⟨"USED", 0, 20, .ro, 0⟩]⟩,
  ⟨"PVT_DEAD_LAST", 0x40003C, [], 4, [⟨"HEDGEROW", 0, 2, .ro, 0⟩, ⟨"MEMBER", 2, 6, .ro, 0⟩, ⟨"CAUSE", 8, 2, .ro, 0⟩]⟩,
  ⟨"PVT_LOST_BASE", 0x400040, [], 8, [⟨"BASE", 5, 59, .rw, 0⟩]⟩,
  ⟨"PVT_LOST_CFG", 0x400048, [], 4, [⟨"LOG2_ENTRIES", 0, 5, .rw, 0⟩]⟩,
  ⟨"PVT_LOST_HEAD", 0x40004C, [], 4, [⟨"COUNT", 0, 32, .ro, 0⟩]⟩,
  ⟨"PVT_LOST_TAIL", 0x400050, [], 4, [⟨"COUNT", 0, 32, .rw, 0⟩]⟩,
  ⟨"PVT_LOST_DROP", 0x400054, [], 4, [⟨"COUNT", 0, 32, .ro, 0⟩]⟩,
  ⟨"PVT_HR_CFG", 0x400100, [(4, 0x10)], 4, [⟨"WAY_MASK", 0, 16, .rw, 0xFFFF⟩, ⟨"ENABLE", 16, 1, .rw, 0⟩]⟩,
  ⟨"PVT_HR_QUOTA", 0x400104, [(4, 0x10)], 4, [⟨"T2_QUOTA", 0, 12, .rw, 0x800⟩]⟩,
  ⟨"PVT_HR_USE", 0x400108, [(4, 0x10)], 8, [⟨"T1", 0, 23, .ro, 0⟩, ⟨"T2", 32, 32, .ro, 0⟩]⟩]
/-- Register tables, block Pvt. -/
def regsPvt1 : List RegDesc := [
  ⟨"PVT_HR_PROG", 0x400200, [(4, 0x10)], 4, [⟨"TENURE", 0, 11, .rw, 0x20⟩, ⟨"STARVE_LIMIT", 16, 4, .rw, 8⟩, ⟨"PRIO_PTR", 24, 6, .ro, 0⟩]⟩,
  ⟨"PVT_HR_DEPARTED", 0x400208, [(4, 0x10)], 8, [⟨"MASK", 0, 64, .ro, 0⟩]⟩,
  ⟨"PVT_MEMBER", 0x401000, [(4, 0x400), (64, 0x10)], 4, [⟨"VALID", 0, 1, .rw, 0⟩, ⟨"KIND", 1, 1, .rw, 0⟩, ⟨"ID", 4, 12, .rw, 0⟩]⟩,
  ⟨"PVT_MEMBER_BIAS", 0x401008, [(4, 0x400), (64, 0x10)], 8, [⟨"HPA_BIAS", 0, 64, .rw, 0⟩]⟩]
/-- Register tables, block Pvt. -/
def regsPvt : List RegDesc := regsPvt0 ++ regsPvt1
/-- Register tables, block Lvr. -/
def regsLvr0 : List RegDesc := [
  ⟨"LVR_CTRL", 0x500000, [], 4, [⟨"POLICE_EN", 0, 1, .rw, 1⟩, ⟨"SHAPE_EN", 1, 1, .rw, 1⟩, ⟨"YELLOW_MULT", 4, 3, .rw, 2⟩, ⟨"TC7_FLOOR", 8, 4, .rw, 8⟩]⟩,
  ⟨"LVR_EVENT", 0x500008, [], 4, [⟨"CFG_REFUSED", 0, 1, .rw1c, 0⟩, ⟨"DEVLOAD_SEVERE", 1, 1, .rw1c, 0⟩, ⟨"HIST_SAT", 2, 1, .rw1c, 0⟩]⟩,
  ⟨"LVR_EVENT_EN", 0x50000C, [], 4, [⟨"CFG_REFUSED", 0, 1, .rw, 1⟩, ⟨"DEVLOAD_SEVERE", 1, 1, .rw, 0⟩, ⟨"HIST_SAT", 2, 1, .rw, 0⟩]⟩,
  ⟨"LVR_ENT_SEL", 0x502000, [], 4, [⟨"INDEX", 0, 15, .rw, 0⟩]⟩,
  ⟨"LVR_ENT_CMD", 0x502004, [], 4, [⟨"OP", 0, 2, .wo, 0⟩, ⟨"STATUS", 8, 4, .ro, 0⟩]⟩,
  ⟨"LVR_ENT_RED", 0x502030, [], 4, [⟨"COUNT", 0, 32, .ro, 0⟩]⟩,
  ⟨"LVR_ENT_YELLOW", 0x502034, [], 4, [⟨"COUNT", 0, 32, .ro, 0⟩]⟩,
  ⟨"LVR_ENT_USED", 0x502040, [], 4, [⟨"USED", 0, 16, .ro, 0⟩]⟩,
  ⟨"LVR_DOM_SEL", 0x503000, [], 4, [⟨"DOMAIN", 0, 12, .rw, 0⟩]⟩,
  ⟨"LVR_DOM_CFG", 0x503004, [], 4, [⟨"LKP_WEIGHT", 0, 8, .rw, 0x10⟩, ⟨"ENTRIES", 16, 7, .ro, 0⟩]⟩,
  ⟨"LVR_SMP_SEL", 0x504000, [], 4, [⟨"INDEX", 0, 12, .rw, 0⟩]⟩,
  ⟨"LVR_SMP_CFG", 0x504004, [], 4, [⟨"KIND", 0, 3, .rw, 0⟩, ⟨"K", 3, 5, .rw, 0xA⟩, ⟨"DSCALE", 8, 4, .rw, 0⟩, ⟨"QSCALE", 12, 4, .rw, 0⟩, ⟨"SNAP", 16, 1, .wo, 0⟩]⟩,
  ⟨"LVR_SMP_TGT", 0x504008, [], 4, [⟨"TARGET", 0, 32, .rw, 0⟩]⟩,
  ⟨"LVR_SPEC_CFG", 0x50E000, [], 4, [⟨"ADAPT_EN", 0, 1, .rw, 1⟩, ⟨"WINDOW_LOG2", 4, 4, .rw, 0xA⟩, ⟨"HI", 8, 8, .rw, 0x40⟩, ⟨"LO", 16, 8, .rw, 0x10⟩]⟩,
  ⟨"LVR_SPEC_EVENT", 0x50E004, [], 4, [⟨"SPEC_OFF", 0, 1, .rw1c, 0⟩, ⟨"SPEC_ON", 1, 1, .rw1c, 0⟩, ⟨"CFG_REFUSED", 2, 1, .rw1c, 0⟩]⟩,
  ⟨"LVR_SPEC_EVENT_EN", 0x50E008, [], 4, [⟨"SPEC_OFF", 0, 1, .rw, 0⟩, ⟨"SPEC_ON", 1, 1, .rw, 0⟩, ⟨"CFG_REFUSED", 2, 1, .rw, 1⟩]⟩,
  ⟨"LVR_SPEC_LAST", 0x50E00C, [], 4, [⟨"DOMAIN", 0, 12, .ro, 0⟩, ⟨"OFF", 12, 1, .ro, 0⟩]⟩,
  ⟨"LVR_PROF", 0x501000, [(8, 8)], 8, [⟨"W", 0, 48, .rw, 0x10101010101⟩]⟩,
  ⟨"LVR_TILE_PROF", 0x501100, [(8, 4)], 4, [⟨"PROF", 0, 32, .rw, 0⟩]⟩,
  ⟨"LVR_ENT_REC", 0x502010, [(4, 8)], 8, [⟨"RECORD", 0, 64, .rw, 0⟩]⟩,
  ⟨"LVR_DEVLOAD_CFG", 0x503800, [], 4, [⟨"MOD_CELLS", 0, 13, .rw, 0x400⟩, ⟨"SEV_CELLS", 16, 13, .rw, 0x700⟩]⟩,
  ⟨"LVR_DEVLOAD_STATE", 0x503A00, [(64, 4)], 4, [⟨"LOAD", 0, 32, .ro, 0⟩]⟩,
  ⟨"LVR_SPEC_STATE", 0x50E100, [(128, 4)], 4, [⟨"OFF", 0, 32, .ro, 0⟩]⟩,
  ⟨"LVR_SNAP_DBIN", 0x504100, [(16, 4)], 4, [⟨"DBIN", 0, 32, .ro, 0⟩]⟩]
/-- Register tables, block Lvr. -/
def regsLvr1 : List RegDesc := [
  ⟨"LVR_SNAP_QBIN", 0x504140, [(16, 4)], 4, [⟨"QBIN", 0, 32, .ro, 0⟩]⟩,
  ⟨"LVR_SNAP_DMAX", 0x504180, [], 4, [⟨"DMAX", 0, 32, .ro, 0⟩]⟩,
  ⟨"LVR_SNAP_QMAX", 0x504184, [], 4, [⟨"QMAX", 0, 32, .ro, 0⟩]⟩,
  ⟨"LVR_SNAP_DMAX_TIME", 0x504188, [], 8, [⟨"DMAX_TIME", 0, 64, .ro, 0⟩]⟩,
  ⟨"LVR_SNAP_FIRST", 0x504190, [], 8, [⟨"FIRST", 0, 64, .ro, 0⟩]⟩,
  ⟨"LVR_SNAP_LAST", 0x504198, [], 8, [⟨"LAST", 0, 64, .ro, 0⟩]⟩,
  ⟨"LVR_SNAP_SAMPLES", 0x5041A0, [], 4, [⟨"SAMPLES", 0, 32, .ro, 0⟩]⟩]
/-- Register tables, block Lvr. -/
def regsLvr : List RegDesc := regsLvr0 ++ regsLvr1
/-- Register tables, block Seq. -/
def regsSeq : List RegDesc := [
  ⟨"SEQ_CTRL", 0x600000, [], 4, [⟨"LOCKSTEP", 0, 1, .rwl, 1⟩, ⟨"LOCK", 1, 1, .rw1s, 0⟩]⟩,
  ⟨"SEQ_CORE_MODE", 0x600004, [], 4, [⟨"MGR", 0, 2, .ro, 0⟩, ⟨"TENANT", 2, 30, .rw, 0x3FFFFFFC⟩]⟩,
  ⟨"SEQ_STATUS", 0x600008, [], 4, [⟨"THREADS_BUSY", 0, 9, .ro, 0⟩, ⟨"LS_RESTARTS", 16, 8, .ro, 0⟩]⟩,
  ⟨"SEQ_EVENT", 0x600010, [], 4, [⟨"LOCKSTEP_MISMATCH", 0, 1, .rw1c, 0⟩, ⟨"MGR_TRAP", 1, 1, .rw1c, 0⟩, ⟨"RP_REFUSED", 2, 1, .rw1c, 0⟩, ⟨"ROUTE_FAULT", 3, 1, .rw1c, 0⟩, ⟨"DM_REFUSED", 4, 1, .rw1c, 0⟩]⟩,
  ⟨"SEQ_EVENT_EN", 0x600014, [], 4, [⟨"LOCKSTEP_MISMATCH", 0, 1, .rw, 1⟩, ⟨"MGR_TRAP", 1, 1, .rw, 1⟩, ⟨"RP_REFUSED", 2, 1, .rw, 1⟩, ⟨"ROUTE_FAULT", 3, 1, .rw, 0⟩, ⟨"DM_REFUSED", 4, 1, .rw, 1⟩]⟩,
  ⟨"SEQ_DOM_SEL", 0x600100, [], 4, [⟨"DOMAIN", 0, 12, .rw, 0⟩]⟩,
  ⟨"SEQ_DOM_DM", 0x600108, [], 8, [⟨"BASE", 20, 20, .rw, 0⟩, ⟨"SIZE", 40, 12, .rw, 0⟩]⟩,
  ⟨"SEQ_DOM_RUN", 0x600110, [], 4, [⟨"MAX_THREADS", 0, 7, .rw, 8⟩, ⟨"THREADS", 8, 8, .ro, 0⟩, ⟨"RUN_LIMIT", 16, 16, .rw, 0⟩]⟩,
  ⟨"SEQ_DOM_TRAPS", 0x600114, [], 4, [⟨"COUNT", 0, 32, .ro, 0⟩]⟩,
  ⟨"SEQ_RP_CMD", 0x602000, [], 4, [⟨"SLOT", 0, 3, .rw, 0⟩, ⟨"OP", 3, 2, .wo, 0⟩, ⟨"LEN", 8, 5, .rw, 0⟩, ⟨"STATUS", 16, 8, .ro, 0⟩, ⟨"BUSY", 24, 1, .ro, 0⟩]⟩,
  ⟨"SEQ_RP_SEL", 0x601000, [(128, 4)], 4, [⟨"SLOT", 0, 32, .rw, 0⟩]⟩,
  ⟨"SEQ_RP_BUF", 0x602100, [(24, 4)], 4, [⟨"INSTR", 0, 32, .rw, 0⟩]⟩]
/-- Register tables, block Cpe. -/
def regsCpe : List RegDesc := [
  ⟨"CPE_CTRL", 0x700000, [], 4, [⟨"MGR_RSV", 0, 8, .rw, 0x10⟩, ⟨"DOM_MAX", 8, 8, .rw, 0x20⟩, ⟨"CH_CHUNKS", 16, 8, .rw, 0x40⟩]⟩,
  ⟨"CPE_STATUS", 0x700004, [], 4, [⟨"CH_BUSY", 0, 9, .ro, 0⟩, ⟨"BUF_FREE", 16, 13, .ro, 0x1000⟩]⟩,
  ⟨"CPE_EVENT", 0x700008, [], 4, [⟨"POISON_COPIED", 0, 1, .rw1c, 0⟩, ⟨"STAGING_ECC", 1, 1, .rw1c, 0⟩, ⟨"DEVICE_LOST", 2, 1, .rw1c, 0⟩]⟩,
  ⟨"CPE_EVENT_EN", 0x70000C, [], 4, [⟨"POISON_COPIED", 0, 1, .rw, 0⟩, ⟨"STAGING_ECC", 1, 1, .rw, 1⟩, ⟨"DEVICE_LOST", 2, 1, .rw, 0⟩]⟩,
  ⟨"CPE_CH_SEL", 0x700100, [], 4, [⟨"CHANNEL", 0, 8, .rw, 0⟩]⟩,
  ⟨"CPE_CH_STATUS", 0x700108, [], 8, [⟨"BUSY", 0, 1, .ro, 0⟩, ⟨"ORDER", 1, 2, .ro, 0⟩, ⟨"CHECKING", 3, 1, .ro, 0⟩, ⟨"IN_FLIGHT", 4, 8, .ro, 0⟩, ⟨"DOMAIN", 16, 12, .ro, 0⟩, ⟨"SQ", 32, 16, .ro, 0⟩]⟩,
  ⟨"CPE_CH_DONE", 0x700110, [], 8, [⟨"BYTES", 0, 64, .ro, 0⟩]⟩]
/-- Register tables, block Dom. -/
def regsDom0 : List RegDesc := [
  ⟨"DOM_SEL", 0x800000, [], 4, [⟨"DOMAIN", 0, 12, .rw, 0⟩]⟩,
  ⟨"DOM_REC0", 0x800010, [], 4, [⟨"STATE", 0, 3, .ro, 0⟩, ⟨"KIND", 6, 2, .ro, 0⟩, ⟨"PARENT", 8, 12, .ro, 0⟩, ⟨"QCLASS", 20, 4, .rw, 0⟩, ⟨"CNT_ACCESS", 24, 1, .rw, 0⟩]⟩,
  ⟨"DOM_REC1", 0x800014, [], 4, [⟨"GEN", 0, 16, .ro, 0⟩, ⟨"CASEMENTS", 16, 9, .ro, 0⟩]⟩,
  ⟨"DOM_REC2", 0x800018, [], 4, [⟨"VF", 0, 12, .ro, 0⟩]⟩,
  ⟨"DOM_RULE_EPOCH", 0x80001C, [], 4, [⟨"EPOCH", 0, 32, .ro, 0⟩]⟩,
  ⟨"DOM_VIOL_CLR", 0x800040, [], 4, [⟨"CLEAR", 0, 1, .wo, 0⟩]⟩,
  ⟨"DOM_FERR_CLR", 0x800044, [], 4, [⟨"CLEAR", 0, 1, .wo, 0⟩]⟩,
  ⟨"HNG_STATUS", 0x800050, [], 4, [⟨"OP", 0, 3, .ro, 0⟩, ⟨"DRAINING", 3, 1, .ro, 0⟩, ⟨"SWEEPING", 4, 1, .ro, 0⟩, ⟨"PENDING_DB", 16, 7, .ro, 0⟩]⟩,
  ⟨"DOM_EVENT", 0x800080, [], 4, [⟨"VIOLATION", 0, 1, .rw1c, 0⟩, ⟨"MIRROR_FAIL", 1, 1, .rw1c, 0⟩, ⟨"MIRROR_SYNCED", 2, 1, .rw1c, 0⟩, ⟨"CFG_REFUSED", 3, 1, .rw1c, 0⟩]⟩,
  ⟨"DOM_EVENT_EN", 0x800084, [], 4, [⟨"VIOLATION", 0, 1, .rw, 0⟩, ⟨"MIRROR_FAIL", 1, 1, .rw, 1⟩, ⟨"MIRROR_SYNCED", 2, 1, .rw, 0⟩, ⟨"CFG_REFUSED", 3, 1, .rw, 1⟩]⟩,
  ⟨"CSM_SEL", 0x810000, [], 4, [⟨"DOMAIN", 0, 12, .rw, 0⟩, ⟨"SLOT", 16, 8, .rw, 0⟩]⟩,
  ⟨"CSM_EPOCH", 0x810030, [], 4, [⟨"EPOCH", 0, 32, .ro, 0⟩]⟩,
  ⟨"CSM_POOL", 0x810034, [], 4, [⟨"USED", 0, 17, .ro, 0⟩]⟩,
  ⟨"CSM_ILV_SEL", 0x820000, [], 4, [⟨"SET", 0, 10, .rw, 0⟩]⟩,
  ⟨"CSM_ILV_HDR", 0x820010, [], 4, [⟨"WAYS", 0, 3, .rw, 0⟩, ⟨"GRAN", 4, 3, .rw, 0⟩, ⟨"REFS", 16, 16, .ro, 0⟩]⟩,
  ⟨"CSM_MIR_SEL", 0x830000, [], 4, [⟨"PAIR", 0, 9, .rw, 0⟩]⟩,
  ⟨"CSM_MIR_CTRL", 0x830010, [], 4, [⟨"STATE0", 0, 2, .rw, 1⟩, ⟨"STATE1", 2, 2, .rw, 1⟩, ⟨"READ_SEL", 4, 1, .rw, 0⟩, ⟨"REFS", 16, 16, .ro, 0⟩]⟩,
  ⟨"CSM_MIR_SIZE", 0x830020, [], 8, [⟨"VALUE", 12, 52, .rw, 0⟩]⟩,
  ⟨"CSM_MIR_CURSOR", 0x830028, [], 8, [⟨"VALUE", 12, 52, .rw, 0⟩]⟩,
  ⟨"DOM_VIOL", 0x800020, [(4, 8)], 8, [⟨"RECORD", 0, 64, .ro, 0⟩]⟩,
  ⟨"DOM_FERR", 0x800060, [(4, 8)], 8, [⟨"RECORD", 0, 64, .ro, 0⟩]⟩,
  ⟨"CSM_REC", 0x810010, [(4, 8)], 8, [⟨"RECORD", 0, 64, .ro, 0⟩]⟩,
  ⟨"DOM_PORT", 0x801000, [(1024, 4)], 4, [⟨"DOMAIN", 0, 12, .ro, 0⟩, ⟨"ASSIGNED", 15, 1, .ro, 0⟩]⟩,
  ⟨"DOM_FABRIC", 0x802000, [(4096, 4)], 4, [⟨"DOMAIN", 0, 12, .rw, 0⟩, ⟨"ASSIGNED", 15, 1, .rw, 0⟩]⟩]
/-- Register tables, block Dom. -/
def regsDom1 : List RegDesc := [
  ⟨"CSM_ILV_MBR", 0x820100, [(16, 8)], 8, [⟨"PORT", 0, 10, .rw, 0⟩, ⟨"LD", 10, 4, .rw, 0⟩, ⟨"MLD", 14, 1, .rw, 0⟩, ⟨"DPA_BASE", 24, 40, .rw, 0⟩]⟩,
  ⟨"CSM_MIR_MBR", 0x830100, [(2, 8)], 8, [⟨"PORT", 0, 10, .rw, 0⟩, ⟨"LD", 10, 4, .rw, 0⟩, ⟨"MLD", 14, 1, .rw, 0⟩, ⟨"DPA_BASE", 24, 40, .rw, 0⟩]⟩]
/-- Register tables, block Dom. -/
def regsDom : List RegDesc := regsDom0 ++ regsDom1
/-- Register tables, block Tile. -/
def regsTile0 : List RegDesc := [
  ⟨"TILE_PORTMAP", 0x1000000, [(64, 0x10000)], 8, [⟨"MAP", 0, 64, .rw, 5⟩]⟩,
  ⟨"TILE_PORT_CTRL", 0x1002000, [(64, 0x10000), (16, 0x100)], 4, [⟨"LINK_DIS", 0, 1, .rw, 1⟩, ⟨"ROLE", 1, 2, .rw, 0⟩, ⟨"PROTO", 3, 1, .rw, 0⟩, ⟨"FLIT_POLICY", 4, 2, .rw, 0⟩, ⟨"PBR_EDGE", 6, 1, .rw, 0⟩, ⟨"PBR_ID", 16, 12, .rw, 0⟩]⟩,
  ⟨"TILE_PORT_STATUS", 0x1002004, [(64, 0x10000), (16, 0x100)], 4, [⟨"LINK_UP", 0, 1, .ro, 0⟩, ⟨"RATE", 1, 3, .ro, 0⟩, ⟨"WIDTH", 4, 3, .ro, 0⟩, ⟨"FLIT", 7, 2, .ro, 0⟩, ⟨"CXL_IO", 9, 1, .ro, 0⟩, ⟨"CXL_MEM", 10, 1, .ro, 0⟩, ⟨"CXL_CACHE", 11, 1, .ro, 0⟩, ⟨"IDE", 12, 1, .ro, 0⟩, ⟨"DPC", 13, 1, .ro, 0⟩, ⟨"BOUND", 14, 1, .ro, 0⟩, ⟨"MLD", 15, 1, .ro, 0⟩, ⟨"VCS", 16, 8, .ro, 0⟩]⟩,
  ⟨"TILE_PORT_EVENT", 0x1002008, [(64, 0x10000), (16, 0x100)], 4, [⟨"CTRL_REFUSED", 0, 1, .rw1c, 0⟩, ⟨"UP_LIMIT", 1, 1, .rw1c, 0⟩, ⟨"PBR_DUP", 2, 1, .rw1c, 0⟩, ⟨"LINK_UP", 3, 1, .rw1c, 0⟩, ⟨"LINK_DOWN", 4, 1, .rw1c, 0⟩, ⟨"IDE_FAIL", 5, 1, .rw1c, 0⟩, ⟨"CONTAINED", 6, 1, .rw1c, 0⟩, ⟨"SLOT_FAULT", 7, 1, .rw1c, 0⟩, ⟨"PRESENCE", 8, 1, .rw1c, 0⟩]⟩,
  ⟨"TILE_PORT_EVENT_EN", 0x100200C, [(64, 0x10000), (16, 0x100)], 4, [⟨"CTRL_REFUSED", 0, 1, .rw, 1⟩, ⟨"UP_LIMIT", 1, 1, .rw, 1⟩, ⟨"PBR_DUP", 2, 1, .rw, 1⟩, ⟨"LINK_UP", 3, 1, .rw, 0⟩, ⟨"LINK_DOWN", 4, 1, .rw, 1⟩, ⟨"IDE_FAIL", 5, 1, .rw, 1⟩, ⟨"CONTAINED", 6, 1, .rw, 1⟩, ⟨"SLOT_FAULT", 7, 1, .rw, 1⟩, ⟨"PRESENCE", 8, 1, .rw, 0⟩]⟩,
  ⟨"TILE_PORT_SLOT", 0x1002010, [(64, 0x10000), (16, 0x100)], 4, [⟨"CHANNEL", 0, 6, .rw, 0⟩, ⟨"PRIV", 6, 1, .rw, 0⟩, ⟨"SLOT_EN", 7, 1, .rw, 0⟩, ⟨"PERST_SRC", 8, 1, .rw, 0⟩, ⟨"PERST_BIT", 9, 7, .rw, 0⟩, ⟨"PRES_SRC", 16, 1, .rw, 0⟩, ⟨"PRES_BIT", 17, 7, .rw, 0⟩, ⟨"PVPERL", 24, 8, .rw, 0x64⟩]⟩,
  ⟨"TILE_PORT_IND", 0x1002014, [(64, 0x10000), (16, 0x100)], 4, [⟨"IND_EN", 0, 1, .rw, 0⟩, ⟨"IND_BIT", 1, 7, .rw, 0⟩]⟩,
  ⟨"TILE_ZL_CTRL", 0x1004000, [(64, 0x10000), (16, 0x100)], 4, [⟨"LINK_DIS", 0, 1, .rw, 0⟩, ⟨"RETRAIN", 1, 1, .wo, 0⟩, ⟨"TARGET_WIDTH", 2, 3, .rw, 7⟩, ⟨"MIN_WIDTH", 5, 3, .rw, 0⟩, ⟨"FEC_OFF_ALLOW", 8, 1, .rw, 0⟩, ⟨"DEGRADE_EN", 9, 1, .rw, 1⟩, ⟨"LP_REQ", 10, 1, .rw, 0⟩]⟩,
  ⟨"TILE_ZL_STATUS", 0x1004004, [(64, 0x10000), (16, 0x100)], 4, [⟨"STATE", 0, 4, .ro, 0⟩, ⟨"RATE", 4, 2, .ro, 0⟩, ⟨"WIDTH", 6, 3, .ro, 0⟩, ⟨"FEC_ON", 9, 1, .ro, 1⟩, ⟨"LEADER", 10, 1, .ro, 0⟩, ⟨"OP_ACTIVE", 11, 1, .ro, 0⟩, ⟨"REPLAY_OCC", 12, 9, .ro, 0⟩]⟩,
  ⟨"TILE_ZL_EVENT", 0x1004008, [(64, 0x10000), (16, 0x100)], 4, [⟨"LINK_UP", 0, 1, .rw1c, 0⟩, ⟨"LINK_DOWN", 1, 1, .rw1c, 0⟩, ⟨"FLIT_FAIL", 2, 1, .rw1c, 0⟩, ⟨"REPLAY_LIMIT", 3, 1, .rw1c, 0⟩, ⟨"AUDIT_MISMATCH", 4, 1, .rw1c, 0⟩, ⟨"REQ_ABANDONED", 5, 1, .rw1c, 0⟩, ⟨"REQ_TIMEOUT", 6, 1, .rw1c, 0⟩, ⟨"DEGRADED", 7, 1, .rw1c, 0⟩, ⟨"OP_DONE", 8, 1, .rw1c, 0⟩, ⟨"RATE_FAIL", 9, 1, .rw1c, 0⟩, ⟨"PROTOCOL_ERR", 10, 1, .rw1c, 0⟩]⟩,
  ⟨"TILE_ZL_EVENT_EN", 0x100400C, [(64, 0x10000), (16, 0x100)], 4, [⟨"LINK_UP", 0, 1, .rw, 1⟩, ⟨"LINK_DOWN", 1, 1, .rw, 1⟩, ⟨"FLIT_FAIL", 2, 1, .rw, 0⟩, ⟨"REPLAY_LIMIT", 3, 1, .rw, 1⟩, ⟨"AUDIT_MISMATCH", 4, 1, .rw, 1⟩, ⟨"REQ_ABANDONED", 5, 1, .rw, 0⟩, ⟨"REQ_TIMEOUT", 6, 1, .rw, 1⟩, ⟨"DEGRADED", 7, 1, .rw, 1⟩, ⟨"OP_DONE", 8, 1, .rw, 0⟩, ⟨"RATE_FAIL", 9, 1, .rw, 1⟩, ⟨"PROTOCOL_ERR", 10, 1, .rw, 1⟩]⟩,
  ⟨"TILE_ZL_TIMERS", 0x1004010, [(64, 0x10000), (16, 0x100)], 4, [⟨"REPLAY_TIMER", 0, 8, .rw, 8⟩, ⟨"NAK_TIMER", 8, 8, .rw, 0x64⟩]⟩,
  ⟨"TILE_ZL_DEGRADE", 0x1004014, [(64, 0x10000), (16, 0x100)], 4, [⟨"CORR_THRESH", 0, 16, .rw, 0x1000⟩, ⟨"AUDIT_THRESH", 16, 16, .rw, 0x40⟩]⟩,
  ⟨"TILE_ZL_NONCE", 0x1004018, [(64, 0x10000), (16, 0x100)], 8, [⟨"NONCE", 0, 64, .ro, 0⟩]⟩,
  ⟨"TILE_ZL_PNONCE", 0x1004020, [(64, 0x10000), (16, 0x100)], 8, [⟨"NONCE", 0, 64, .ro, 0⟩]⟩,
  ⟨"TILE_ZL_AUDIT", 0x1004028, [(64, 0x10000), (16, 0x100)], 4, [⟨"LAST_SUM", 0, 16, .ro, 0⟩, ⟨"VC_MASK", 16, 8, .ro, 0⟩]⟩,
  ⟨"TILE_D2D_CFG", 0x1006000, [(64, 0x10000)], 4, [⟨"ERR_THRESH", 0, 8, .rw, 8⟩, ⟨"WINDOW", 8, 8, .rw, 0xA⟩]⟩,
  ⟨"TILE_D2D_STATUS", 0x1006010, [(64, 0x10000), (4, 4)], 4, [⟨"SPARES_LEFT", 0, 2, .ro, 2⟩, ⟨"HALF_WIDTH", 2, 1, .ro, 0⟩, ⟨"OUT", 3, 1, .ro, 0⟩, ⟨"RETIRED", 4, 4, .ro, 0⟩, ⟨"LAST_LANE", 8, 6, .ro, 0⟩, ⟨"REPLAYS", 16, 16, .ro, 0⟩]⟩,
  ⟨"TILE_D2D_EVENT", 0x1006020, [(64, 0x10000)], 4, [⟨"RETIRE", 0, 1, .rw1c, 0⟩, ⟨"HALF_WIDTH", 1, 1, .rw1c, 0⟩, ⟨"OUT", 2, 1, .rw1c, 0⟩, ⟨"NARROWED", 3, 1, .rw1c, 0⟩]⟩,
  ⟨"TILE_D2D_EVENT_EN", 0x1006024, [(64, 0x10000)], 4, [⟨"RETIRE", 0, 1, .rw, 1⟩, ⟨"HALF_WIDTH", 1, 1, .rw, 1⟩, ⟨"OUT", 2, 1, .rw, 1⟩, ⟨"NARROWED", 3, 1, .rw, 1⟩]⟩,
  ⟨"TILE_IBUF_ALLOC", 0x1008000, [(64, 0x10000), (16, 0x20), (8, 4)], 4, [⟨"SLOTS", 0, 18, .rw, 0⟩, ⟨"PENDING", 31, 1, .ro, 0⟩]⟩,
  ⟨"TILE_IBUF_CUR", 0x1008A00, [(64, 0x10000), (16, 0x20), (8, 4)], 4, [⟨"SLOTS", 0, 18, .ro, 0⟩]⟩,
  ⟨"TILE_IBUF_AGENT", 0x1008200, [(64, 0x10000)], 4, [⟨"SLOTS", 0, 18, .rw, 0x4000⟩]⟩,
  ⟨"TILE_IBUF_STATUS", 0x1008208, [(64, 0x10000)], 4, [⟨"UNALLOC", 0, 18, .ro, 0x10B00⟩]⟩]
/-- Register tables, block Tile. -/
def regsTile1 : List RegDesc := [
  ⟨"TILE_EBUF_VC", 0x1008400, [(64, 0x10000), (16, 0x20), (8, 4)], 4, [⟨"MIN", 0, 13, .rw, 4⟩, ⟨"MAX", 16, 13, .rw, 0x800⟩]⟩,
  ⟨"TILE_EBUF_PORTMAX", 0x1008600, [(64, 0x10000), (16, 4)], 4, [⟨"MAX", 0, 14, .rw, 0x1000⟩]⟩,
  ⟨"TILE_EBUF_STATUS", 0x1008640, [(64, 0x10000)], 4, [⟨"SHARED_FREE", 0, 14, .ro, 0⟩]⟩,
  ⟨"TILE_TRK_QCLASS", 0x1008800, [(64, 0x10000), (16, 4)], 4, [⟨"MIN", 0, 12, .rw, 0⟩, ⟨"MAX", 16, 12, .rw, 0x800⟩]⟩,
  ⟨"TILE_TRK_USE", 0x1008840, [(64, 0x10000), (16, 4)], 4, [⟨"IN_USE", 0, 12, .ro, 0⟩, ⟨"WAITING", 16, 12, .ro, 0⟩]⟩,
  ⟨"TILE_CORE_EVENT", 0x1008880, [(64, 0x10000)], 4, [⟨"IBUF_CFG_REFUSED", 0, 1, .rw1c, 0⟩, ⟨"EBUF_CFG_REFUSED", 1, 1, .rw1c, 0⟩, ⟨"TRK_CFG_REFUSED", 2, 1, .rw1c, 0⟩, ⟨"FLUSH_DONE", 3, 1, .rw1c, 0⟩, ⟨"RESEQ_NAK", 4, 1, .rw1c, 0⟩, ⟨"PORTMAP_REFUSED", 5, 1, .rw1c, 0⟩]⟩,
  ⟨"TILE_CORE_EVENT_EN", 0x1008884, [(64, 0x10000)], 4, [⟨"IBUF_CFG_REFUSED", 0, 1, .rw, 1⟩, ⟨"EBUF_CFG_REFUSED", 1, 1, .rw, 1⟩, ⟨"TRK_CFG_REFUSED", 2, 1, .rw, 1⟩, ⟨"FLUSH_DONE", 3, 1, .rw, 0⟩, ⟨"RESEQ_NAK", 4, 1, .rw, 0⟩, ⟨"PORTMAP_REFUSED", 5, 1, .rw, 1⟩]⟩,
  ⟨"TILE_FLUSH_COUNT", 0x1008890, [(64, 0x10000)], 8, [⟨"DISCARDS", 0, 64, .ro, 0⟩]⟩]
/-- Register tables, block Tile. -/
def regsTile : List RegDesc := regsTile0 ++ regsTile1
/-- Register tables, block Lane. -/
def regsLane : List RegDesc := [
  ⟨"LANE_CTRL", 0x2000000, [(1024, 0x800)], 4, [⟨"DISABLE", 0, 1, .rw, 0⟩, ⟨"MAX_RATE", 1, 3, .rw, 6⟩, ⟨"RX_POL_FORCE", 4, 1, .rw, 0⟩, ⟨"RX_POL_VAL", 5, 1, .rw, 0⟩, ⟨"TX_POL_INV", 6, 1, .rw, 0⟩, ⟨"REV_FORCE", 7, 1, .rw, 0⟩, ⟨"REV_VAL", 8, 1, .rw, 0⟩]⟩,
  ⟨"LANE_STATUS", 0x2000004, [(1024, 0x800)], 4, [⟨"RATE", 0, 3, .ro, 0⟩, ⟨"PLL_LOCK", 3, 1, .ro, 0⟩, ⟨"CDR_LOCK", 4, 1, .ro, 0⟩, ⟨"LOS", 5, 1, .ro, 1⟩, ⟨"RX_POL_AUTO", 6, 1, .ro, 0⟩, ⟨"RX_POL", 7, 1, .ro, 0⟩, ⟨"REVERSED", 8, 1, .ro, 0⟩, ⟨"LOGICAL", 9, 4, .ro, 0⟩, ⟨"TEST_OWN", 13, 1, .ro, 0⟩]⟩,
  ⟨"LANE_EVENT", 0x2000008, [(1024, 0x800)], 4, [⟨"LOS_SET", 0, 1, .rw1c, 0⟩, ⟨"LOS_CLR", 1, 1, .rw1c, 0⟩, ⟨"LOL", 2, 1, .rw1c, 0⟩, ⟨"CHK_SYNC_LOSS", 3, 1, .rw1c, 0⟩, ⟨"FE_SLIP", 4, 1, .rw1c, 0⟩, ⟨"TXEQ_REJ", 5, 1, .rw1c, 0⟩, ⟨"INJ_CFG_ERR", 6, 1, .rw1c, 0⟩, ⟨"TEST_REFUSED", 7, 1, .rw1c, 0⟩, ⟨"PAT_CFG_ERR", 8, 1, .rw1c, 0⟩]⟩,
  ⟨"LANE_EVENT_EN", 0x200000C, [(1024, 0x800)], 4, [⟨"LOS_SET", 0, 1, .rw, 1⟩, ⟨"LOS_CLR", 1, 1, .rw, 1⟩, ⟨"LOL", 2, 1, .rw, 1⟩, ⟨"CHK_SYNC_LOSS", 3, 1, .rw, 0⟩, ⟨"FE_SLIP", 4, 1, .rw, 0⟩, ⟨"TXEQ_REJ", 5, 1, .rw, 0⟩, ⟨"INJ_CFG_ERR", 6, 1, .rw, 0⟩, ⟨"TEST_REFUSED", 7, 1, .rw, 0⟩, ⟨"PAT_CFG_ERR", 8, 1, .rw, 0⟩]⟩,
  ⟨"LANE_DET_CFG", 0x2000010, [(1024, 0x800)], 4, [⟨"LOS_THRESH", 0, 3, .rw, 2⟩, ⟨"LOS_QUAL", 4, 8, .rw, 0x19⟩, ⟨"CDR_BW", 12, 2, .rw, 0⟩]⟩,
  ⟨"LANE_TXEQ", 0x2000020, [(1024, 0x800)], 4, [⟨"C_M2", 0, 5, .rw, 0⟩, ⟨"C_M1", 5, 6, .rw, 0⟩, ⟨"C_MAIN", 11, 7, .rw, 0x3F⟩, ⟨"C_P1", 18, 6, .rw, 0⟩, ⟨"C_P2", 24, 5, .rw, 0⟩, ⟨"SW_OWN", 31, 1, .rw, 0⟩]⟩,
  ⟨"LANE_RXEQ", 0x2000024, [(1024, 0x800)], 4, [⟨"ADAPT_MODE", 0, 2, .rw, 0⟩, ⟨"CTLE_PEAK", 2, 4, .rw, 0⟩, ⟨"VGA_GAIN", 6, 6, .rw, 0⟩, ⟨"CTLE_USED", 12, 4, .ro, 0⟩, ⟨"VGA_USED", 16, 6, .ro, 0⟩, ⟨"EYE_MARGIN", 22, 8, .ro, 0⟩, ⟨"ADAPT_DONE", 30, 1, .ro, 0⟩]⟩,
  ⟨"LANE_TEST_CTRL", 0x2000040, [(1024, 0x800)], 4, [⟨"TEST_OWN", 0, 1, .rw, 0⟩, ⟨"TEST_RATE", 1, 3, .rw, 0⟩, ⟨"GEN_PAT", 4, 4, .rw, 0⟩, ⟨"CHK_PAT", 8, 4, .rw, 0⟩, ⟨"LOOPBACK", 12, 2, .rw, 0⟩, ⟨"CHK_CLR", 14, 1, .wo, 0⟩]⟩,
  ⟨"LANE_TEST_STATUS", 0x2000044, [(1024, 0x800)], 4, [⟨"CHK_LOCK", 0, 1, .ro, 0⟩, ⟨"PAT_INV", 1, 1, .ro, 0⟩, ⟨"SYNC_LOSS_CNT", 16, 16, .ro, 0⟩]⟩,
  ⟨"LANE_USER_PAT", 0x2000048, [(1024, 0x800)], 8, [⟨"PATTERN", 0, 64, .rw, 0⟩]⟩,
  ⟨"LANE_INJ_CTRL", 0x2000050, [(1024, 0x800)], 4, [⟨"MODE", 0, 2, .rw, 0⟩, ⟨"BURST_LEN", 2, 6, .rw, 0⟩, ⟨"RATE_MANT", 8, 4, .rw, 1⟩, ⟨"RATE_EXP", 12, 4, .rw, 9⟩, ⟨"FIRE", 16, 1, .wo, 0⟩, ⟨"TARGET", 17, 1, .rw, 0⟩]⟩,
  ⟨"LANE_INJ_COUNT", 0x2000058, [(1024, 0x800)], 8, [⟨"COUNT", 0, 64, .ro, 0⟩]⟩,
  ⟨"LANE_CHK_BITS", 0x2000060, [(1024, 0x800)], 8, [⟨"COUNT", 0, 64, .ro, 0⟩]⟩,
  ⟨"LANE_CHK_ERRS", 0x2000068, [(1024, 0x800)], 8, [⟨"COUNT", 0, 64, .ro, 0⟩]⟩,
  ⟨"LANE_GRP_MASK", 0x2210000, [(8, 0x80), (32, 4)], 4, [⟨"MASK", 0, 32, .rw, 0⟩]⟩]
/-- Register tables, block Al. -/
def regsAl : List RegDesc := [
  ⟨"TILE_GRP_MASK", 0xF90000, [(8, 8)], 8, [⟨"MASK", 0, 64, .rw, 0⟩]⟩]
/-- Register tables, block Cnt. -/
def regsCnt : List RegDesc := [
  ⟨"CNT_FB_CYCLE", 0x40A0000, [(32, 0x80)], 8, [⟨"CYCLES", 0, 64, .rw, 0⟩]⟩,
  ⟨"CNT_FB_CTRL", 0x40A0008, [(32, 0x80)], 4, [⟨"EN", 0, 8, .rw, 0⟩, ⟨"CHAIN", 8, 4, .rw, 0⟩, ⟨"FREEZE", 12, 1, .rw, 0⟩, ⟨"CYC_EN", 13, 1, .rw, 1⟩, ⟨"IRQ_EN", 16, 8, .rw, 0⟩]⟩,
  ⟨"CNT_FB_OVF", 0x40A000C, [(32, 0x80)], 4, [⟨"OVF", 0, 8, .rw1c, 0⟩]⟩,
  ⟨"CNT_FB_SEL", 0x40A0010, [(32, 0x80), (8, 4)], 4, [⟨"EVSEL", 0, 8, .rw, 0xFF⟩]⟩,
  ⟨"CNT_FB_CNT", 0x40A0040, [(32, 0x80), (8, 4)], 4, [⟨"COUNT", 0, 32, .rw, 0⟩]⟩,
  ⟨"CNT_DOM", 0x4000000, [(4096, 0x80), (16, 8)], 8, [⟨"VALUE", 0, 64, .ro, 0⟩]⟩,
  ⟨"CNT_TILE", 0x4080000, [(64, 0x400), (128, 8)], 8, [⟨"VALUE", 0, 64, .ro, 0⟩]⟩,
  ⟨"CNT_CORE", 0x4090000, [(32, 0x200), (64, 8)], 8, [⟨"VALUE", 0, 64, .ro, 0⟩]⟩,
  ⟨"CNT_PVT", 0x4094000, [(4, 0x200), (64, 8)], 8, [⟨"VALUE", 0, 64, .ro, 0⟩]⟩]

/-- The register tables of the block that a BAR0 offset lies in (R615). -/
def regsAt (off : Nat) : List RegDesc :=
  if off < 0x100000 then regsGlb else if off < 0x200000 then regsWkt else if off < 0x300000 then regsTb
  else if off < 0x400000 then regsErr else if off < 0x500000 then regsPvt else if off < 0x600000 then regsLvr
  else if off < 0x700000 then regsSeq else if off < 0x800000 then regsCpe else if off < 0xF00000 then regsDom
  else if off < 0x1000000 then regsAl else if off < 0x1400000 then regsTile else if off < 0x2000000 then []
  else if off < 0x2300000 then regsLane else if off < 0x4000000 then [] else regsCnt

/-- The register that a BAR0 offset names, with the register's own first offset. -/
def regFind (off : Nat) : Option (RegDesc × Nat) :=
  (regsAt off).findSome? fun d => (d.byteOf off).map fun b => (d, off - b)

/-- The reset value of the register that starts at an offset; 0 where there is none (R616). -/
def regReset (off : Nat) : BitVec 64 :=
  match regFind off with
  | some (d, _) => BitVec.ofNat 64 d.rstVal
  | none => 0

end Sys2Proof.Machine
end

