-- ==== Sys2Proof/Machine/State.lean ====
section
/-! DEFINITION. Sys2Proof/Machine/State.lean: the state of the block: the latched mode, everything else that the
manual gives it (Mach), and the queue of commands that wait. Plain data throughout. -/
namespace Sys2Proof.Machine

/-- Why the block stops: no meaning of this model raises a fault (every row of the table has an effect in every
state), so the type is empty. -/
inductive Fault where
deriving DecidableEq, Repr

/-- Why a command has no meaning. -/
inductive Refusal where
  /-- Raised by exec's arm for a row of the table that has no meaning yet; safe: nothing can be proved of the
  command's effect. -/
  | notModelled (mnemonic : String)
deriving DecidableEq, Repr

/-- The mode latch of the always-on island (R3): whether a mode is latched, TF-256 or native, and the personality
count of TF-256 mode. `GLB_MODE` reads it. -/
structure ModeLatch where
  latched : Bool := false
  tf : Bool := false
  personalities : Nat := 0
deriving DecidableEq, Repr

/-- Everything the manual gives the block but the mode latch. Each field's comment names what it is; the defaults are
the values at VAUX power-on (R634). -/
structure Mach where
  /-- The register file: BAR0 offset of a register to its contents; an unlisted register holds its reset value. -/
  regs : SMap Word := []
  /-- Pins (R50). -/
  pins : Pins := {}
  /-- Progress of the staged start (03). -/
  boot : Boot := {}
  /-- Boot flash (R76). -/
  flash : Flash := {}
  /-- Fuses (R79, R80). -/
  fuses : Fuses := { key0 := Config.kamtorKey 0, key1 := Config.kamtorKey 1 }
  /-- Firmware update (R97). -/
  pldm : Pldm := {}
  /-- `WKT_THERM_CFG.WARN_C`; its reset value is 90 or 100 by the temperature grade (R635). -/
  warnC : Nat := Config.warnReset
  /-- Local DDR5 contents: the journal, the lost-line log, DM slices, what copies and threads keep there; Privet's structures have their own fields (R15, R92). -/
  ddr : Mem := []
  /-- DDR5 channels held in self-refresh (R89, R90). -/
  selfRefresh : Bool := false
  /-- The timebase accumulator of R519, 96 bits with 32 fraction bits. -/
  tb : Nat := 0
  /-- Domain records (R320). -/
  doms : SMap DomRec := [(0, { state := .active, kind := .d0 })]
  /-- `DOM_PORT`: the domain of each assigned port. -/
  domPort : SMap Nat := []
  /-- `DOM_FABRIC`: the domain of each assigned fabric ID. -/
  domFabric : SMap Nat := []
  /-- `CSM_EPOCH` (R343). -/
  epoch : Nat := 0
  /-- Interleave sets (R332). -/
  ilv : SMap IlvSet := []
  /-- Mirror pairs (R333). -/
  mir : SMap MirPair := []
  /-- Accepted rule changes waiting for their commit point, oldest first (R343). -/
  changes : List PendChange := []
  /-- Rule fences in progress (R347). -/
  fences : List RuleFence := []
  /-- Corrected errors waiting for the end of their coalescing window (R589). -/
  merging : List Merging := []
  /-- Model's own: the next index of the free values of Config (no register of the block). -/
  freeIx : Nat := 0
  /-- Model's own: what the block sent while it carried out the last command, first message first. -/
  out : List Msg := []
  /-- `TF_STATUS.PREV_TF`, and whether the mode latched last was TF-256 (R3, R612); both from VAUX power-on. -/
  tfPrev : Bool := false
  tfLast : Bool := false
  /-- Model's own: a register write of this command asked for a cold reset with this cause (R87). -/
  coldReq : Option Nat := none
  /-- Ports beyond their registers, by port number. -/
  ports : SMap PortX := []
  /-- Bindings, by port × 16 + LD (LD 0 for a single-logical device) (R178). -/
  binds : SMap Bind := []
  /-- vPPBs, by upstream port × 65 + vPPB (R173). -/
  vppbs : SMap Vppb := []
  /-- FM API agent (R188). -/
  fm : Fm := {}
  /-- SB3 expander output bits driven and input bits last polled (R194). -/
  expOut : Nat := 0
  expIn : Nat := 0
  /-- Tracker entries, by tile × 2048 + index (R208). -/
  trk : SMap Trk := []
  /-- Requests waiting for a tracker entry, by tile × 16 + quota class, oldest first (R208). -/
  trkWait : SMap (List Waiting) := []
  /-- Round-robin pointer over quota classes, by tile (R209). -/
  trkRr : SMap Nat := []
  /-- Sending sides, by (source tile × 64 + destination tile) × 8 + traffic class (R207). -/
  voqs : SMap Voq := []
  /-- Resequencing contexts, by (destination tile × 64 + source tile) × 8 + traffic class (R214). -/
  reseqs : SMap Reseq := []
  /-- Class records, by (source port × 64 + destination tile) × 8 + VC (R223). -/
  classes : SMap ClassRec := []
  /-- Posted requests sent, by source port × 64 + destination tile, and transmitted, by egress tile × 1024 + source port
  (R222). -/
  postedSent : SMap Nat := []
  postedTx : SMap Nat := []
  /-- Egress queues, by (port × 8 + traffic class) × 8 + VC (R220). -/
  egress : SMap (List Pkt) := []
  /-- Egress cells reserved, by port × 8 + VC (R217). -/
  egOcc : SMap Nat := []
  /-- Egress deficits of TC1 to TC6 and the last TC served, by port × 8 + traffic class (R381, R382). -/
  egDrr : SMap Nat := []
  /-- Link credits held toward the partner, by port × 8 + VC (R220). -/
  linkCr : SMap Nat := []
  /-- Ingress slots in use, by port × 8 + VC (R202). -/
  ibuf : SMap Nat := []
  /-- Device tags in use, by egress tile × 8192 + tag: the tracker entry that holds it × 1024 + the port (R182). -/
  tags : SMap Nat := []
  /-- Times of the cell errors of each plane in the last millisecond (R228). -/
  planeErr : SMap (List Nat) := []
  /-- Finished requests of internal agents that the agent has not taken up yet, oldest first (R16). -/
  agentDone : List AgentDone := []
  /-- Model's own: nanoseconds of CORE time since reset; token buckets and sampler delays are measured by it
  (assumption log 4). -/
  now : Nat := 0
  /-- Louvre entries (R373). -/
  lvr : SMap LvrEnt := []
  /-- `LVR_DOM_CFG.LKP_WEIGHT` by domain (R385). -/
  lkpWeight : SMap Nat := []
  /-- Lookup deficits by tile × 4096 + domain, and the domain last served by tile (R385). -/
  lkpDef : SMap Nat := []
  lkpLast : SMap Nat := []
  /-- Samplers (R386). -/
  smp : SMap Sampler := []
  /-- Tier 1, by set × 16 + way (R254, R255). -/
  t1 : SMap PvtEnt := []
  /-- Tier 2, by bucket × 4 + slot (R257); it stands in local DDR5. -/
  t2 : SMap PvtEnt := []
  /-- The summary's counters, by index (R262). -/
  summary : SMap Nat := []
  /-- A summary rebuild runs (`PVT_STATUS.REBUILDING`). -/
  rebuilding : Bool := false
  /-- The busy-line table, by line (R244). -/
  lines : SMap Line := []
  /-- Tracker entries that wait for a busy-line entry, in arrival order (R244). -/
  busyWait : List Nat := []
  /-- Lines that background walks and coverage removal still have to evict (R266, R346, R363). -/
  toEvict : List Nat := []
  /-- Hedgerows whose quota walk runs (R266). -/
  quotaWalk : List Nat := []
  /-- Tenures that run, by line × 64 + member (R278). -/
  tenures : List Nat := []
  /-- VC2 messages received, by port (R271). -/
  vc2Rx : SMap Nat := []
  /-- Snoop responses that wait for earlier write-backs (R271). -/
  birsps : List BiRsp := []
  /-- Flow-start count of each tier-1 set, modulo 131,072 (R301). -/
  flowCnt : SMap Nat := []
  /-- Speculation windows by domain (R306). -/
  specWin : SMap SpecWin := []
  /-- Walks for dead members (R285). -/
  deadWalks : List DeadWalk := []
  /-- Member slots, by hedgerow × 64 + member, whose VALID software has written since the member departed (R288). -/
  validWritten : List Nat := []
  /-- Tier-1 shadow, by set: the image of its ways (R291). -/
  shadow : SMap (SMap PvtEnt) := []
  /-- Change ring, oldest first, and the sets whose change bit is set (R291, R292). -/
  ring : List RingRec := []
  changed : List Nat := []
  /-- Listed sets with the recovery lines still to evict (R293, R295); recovery runs. -/
  recover : SMap (List Nat) := []
  recovering : Bool := false
  /-- Ways out of allocation, by bank × 16 + way; spare ways used, by bank (R576). -/
  deadWays : List Nat := []
  sparesUsed : SMap Nat := []
  /-- Lost-bucket table (R577). -/
  lostBuckets : List Nat := []
  /-- Writes to mirror pairs that wait at the resynchronisation cursor (R336). -/
  mirWait : List MirWait := []
  /-- Lanes beyond their registers (R116, R119). -/
  lanes : SMap LaneX := []
  /-- Zitch ports beyond their registers, by port number. -/
  zx : SMap Zx := []
  /-- D2D modules, by tile × 4 + module (R159). -/
  d2d : SMap D2d := []
  /-- Slot channels beyond their registers, by channel. -/
  slots : SMap SlotX := []
  /-- Channels that wait for admission, in the order in which they began to wait (R546). -/
  slotWait : List Nat := []
  /-- Feeds beyond their registers: 0 A, 1 B. -/
  feeds : SMap FeedX := []
  /-- `OR_BUS_SENSE` in mV as last sampled. -/
  busMv : Nat := 0
  /-- Arrival times and slots of the messages that hold ingress slots, by port × 8 + VC, oldest first (R386, KIND 3). -/
  ibTimes : SMap (List (Nat × Nat)) := []
  /-- Receive allocations in force that software wrote, by port × 8 + VC; any other is the value of R150 (R204). -/
  ibCur : SMap Nat := []
  /-- Allocations written that wait for the next full training or link-up (`TILE_IBUF_ALLOC.PENDING`). -/
  ibNew : SMap Nat := []
  /-- Requests in the route pipes, by source port, oldest first (R456). -/
  pipes : SMap (List Pipe) := []
  /-- Program slots 1 to 7 of every tile slice (R463). -/
  rp : SMap (List (BitVec 32)) := []
  /-- Table space, 512 KiB, the same in every tile slice (R464). -/
  tbl : Mem := []
  /-- Submission and completion queues, by domain × 64 + ID (R391). -/
  sqs : SMap Sq := []
  cqs : SMap Cq := []
  /-- Admin registers of the queue interfaces, by domain (R425). -/
  qifs : SMap QIface := []
  /-- Round-robin: the domain and, by domain, the SQ that started an entry last (R401), and those that took a copy channel
  last (R427), a thread last (R446). -/
  qLastDom : Nat := 0
  qLast : SMap Nat := []
  cpeLastDom : Nat := 0
  cpeLast : SMap Nat := []
  runLastDom : Nat := 0
  /-- Round-robin of the read engines and of the write engines: the domain, and by domain the channel, served last (R441). -/
  cpeRdDom : Nat := 0
  cpeRd : SMap Nat := []
  cpeWrDom : Nat := 0
  cpeWr : SMap Nat := []
  /-- MSI-X tables of the service functions, by function × 130 + 8-byte word, where the function is the port of a service
  PF or 1024 + VF; vectors with their Pending bit set, by function × 65 + vector (R630). -/
  fnTbl : SMap Word := []
  fnPend : List Nat := []
  /-- Copy channels that hold a descriptor (R426). -/
  chans : SMap CopyChan := []
  /-- Sequencer threads that are assigned or run, by thread number (R444). -/
  threads : SMap Thread := []
  /-- Local scratch, by core (R444). -/
  ls : SMap Mem := []
  /-- Frozen threads, by domain × 64 + local index (R472). -/
  frozen : SMap FrozenThr := []
  /-- `SEQ_DOM_` registers by domain (R476). -/
  seqDom : SMap SeqDom := []
  /-- The lockstep pair's manager firmware restarts (R474); time of the last mismatch. -/
  fwDown : Bool := false
  lockAt : Option Nat := none
  /-- Hinge operations that run, by domain (R358). -/
  hinges : SMap HingeOp := []
  /-- Time base: what the accumulator has counted since the last accepted PPS edge; an edge has been accepted; its loss has
  been raised (R524). -/
  ppsAge : Nat := 0
  ppsSeen : Bool := false
  ppsLost : Bool := false
  /-- HDM decoders of the VCSs of TF-256 mode, by host domain × 64 + decoder (R598). -/
  hdm : SMap HdmDec := []
  /-- Counters of the personalities (R606); requests routed, by host domain of a VCS. -/
  tfCtr : SMap TfCtr := []
  vcsRouted : SMap Nat := []
  /-- DORMANT entry and wake (R562 to R570). -/
  pw : PowerX := {}
  /-- Keep banks that have lost their contents in DORMANT, one bit each (R565). -/
  keepLost : Nat := 0
  /-- Lines of local DDR5 that the scrub wrote with the ECC's poison pattern: address / 64 (R578). -/
  ddrBad : List Nat := []
  /-- Latches and held dwords of the sources of register accesses (R125, R356, R519, R617), by source: 0 to 7 the functions of the
  management endpoint, 8 MCTP, 16 + thread, 4096 + function for the service functions. -/
  latches : SMap SrcLatch := []
  /-- Summary interrupts that have risen and whose vectors are still to be signalled (R627), one bit each. -/
  irqOwed : Nat := 0
  /-- Writes to TILE_ and LANE_ registers of gated tiles, oldest first: BAR0 offset and value (R558). -/
  shutWr : List (Nat × Nat) := []
deriving DecidableEq, Repr

/-- The state of the block. -/
structure State where
  /-- The latched mode (R3, R4). -/
  latch : ModeLatch
  /-- Registers, pins, buffers, tables, engines. -/
  m : Mach
  /-- Commands that wait, first in, first out. -/
  pending : List Instr
deriving DecidableEq, Repr

/-- The block at VAUX power-on (R634), before AUX good: no mode latched, every register at its reset value (an empty
register file reads so), no command waiting. -/
def State.reset : State := { latch := {}, m := {}, pending := [] }

end Sys2Proof.Machine
end

