-- ==== Sys2Proof/Machine/Ops.lean ====
section
/-! DEFINITION. Sys2Proof/Machine/Ops.lean: the operations every meaning is built from: register fields, events and
counters, the free values, messages sent, the timebase reading, CRC-32C, and what detecting an error does (the journal,
its coalescing, the first-error and violation records). -/
namespace Sys2Proof.Machine

/-- What a command answers. -/
abbrev Res := Host.Outcome State Fault Refusal

/-! ### Registers -/

/-- A register's contents, by its BAR0 offset. -/
def Mach.reg (m : Mach) (off : Nat) : Word := SMap.get (regReset off) m.regs off

/-- Write a register whole. -/
def Mach.setReg (m : Mach) (off : Nat) (v : Word) : Mach :=
  { m with regs := SMap.set (regReset off) m.regs off v }

/-- The value of a field. -/
def Mach.rd (m : Mach) (f : Fld) : Nat := ((m.reg f.off).toNat >>> f.lo) % 2 ^ f.w

/-- A word with one field replaced. -/
def putField (w : Word) (lo width v : Nat) : Word :=
  let mask := BitVec.ofNat 64 ((2 ^ width - 1) <<< lo)
  (w &&& ~~~mask) ||| BitVec.ofNat 64 ((v % 2 ^ width) <<< lo)

/-- Write a field, the register's other bits as they are. -/
def Mach.wr (m : Mach) (f : Fld) (v : Nat) : Mach :=
  m.setReg f.off (putField (m.reg f.off) f.lo f.w v)

/-- A one-bit field as a Bool. -/
def Mach.flag (m : Mach) (f : Fld) : Bool := m.rd f != 0

/-- Write a one-bit field. -/
def Mach.wrB (m : Mach) (f : Fld) (b : Bool) : Mach := m.wr f (if b then 1 else 0)

/-- Set an event bit (RW1C: it stays until software clears it). -/
def Mach.raise (m : Mach) (f : Fld) : Mach := m.wr f 1

/-- Set an event bit where a condition holds. -/
def Mach.raiseIf (m : Mach) (c : Bool) (f : Fld) : Mach := if c then m.raise f else m

/-- Add to a field that wraps. -/
def Mach.add (m : Mach) (f : Fld) (n : Nat) : Mach := m.wr f (m.rd f + n)

/-- Add to a field that saturates. -/
def Mach.addSat (m : Mach) (f : Fld) (n : Nat) : Mach := m.wr f (min (m.rd f + n) (2 ^ f.w - 1))

/-- Add to a native counter, 64 bits without pause (R506). -/
def Mach.count (m : Mach) (off : Nat) (n : Nat) : Mach := m.setReg off (m.reg off + BitVec.ofNat 64 n)

/-- Return every register of a range of BAR0 to its reset value. -/
def Mach.resetRegs (m : Mach) (lo hi : Nat) : Mach := { m with regs := SMap.drop m.regs lo hi }

/-- Bit n of a natural number. -/
def bit (v n : Nat) : Bool := (v >>> n) % 2 == 1

/-- A natural number with bit n set or cleared. -/
def withBit (v n : Nat) (b : Bool) : Nat := if b then v ||| (1 <<< n) else v - (if bit v n then 1 <<< n else 0)

/-- Two's complement reading of the low w bits. -/
def sext (v w : Nat) : Int := if v % 2 ^ w < 2 ^ (w - 1) then (v % 2 ^ w : Nat) else ((v % 2 ^ w : Nat) : Int) - 2 ^ w

/-! ### Messages, free values, time -/

/-- Send a message. -/
def Mach.send (m : Mach) (x : Msg) : Mach := { m with out := m.out ++ [x] }

/-- Take the next free value. -/
def Mach.free (m : Mach) : Word × Mach := (Config.freeWord m.freeIx, { m with freeIx := m.freeIx + 1 })

/-- `TB_NS` (R519). -/
def Mach.tbNs (m : Mach) : Nat := m.tb / 2 ^ 32 % 2 ^ 64

/-! ### Summary interrupts (R625 to R627) -/

/-- The summary bit of an event register (R625), by its BAR0 offset; its enables stand four bytes on. -/
def eventGroup (off : Nat) : Option Nat :=
  if off < 0x100000 then (if off = GLB_ACC_EVENT ∨ off = GLB_PLANE_EVENT then some 10 else none)
  else if off < 0x200000 then
    (if 0x101000 ≤ off ∧ off < 0x103000 then (if off % 0x40 = 0x1C then some 0 else none)
     else if off = ORG_EVENT ∨ off = WKT_PWR_EVENT ∨ off = WKT_THERM_EVENT then some 0 else none)
  else if off < 0x1000000 then
    (if off = TB_EVENT then some 1 else if off = ERR_EVENT then some 2
     else if off = PVT_EVENT ∨ off = PVT_LOSS_EVENT then some 3 else if off = LVR_EVENT ∨ off = LVR_SPEC_EVENT then some 4
     else if off = SEQ_EVENT then some 5 else if off = CPE_EVENT then some 6 else if off = DOM_EVENT then some 7 else none)
  else if off < 0x2000000 then
    (let l := off % 0x10000
     if (l / 0x1000 = 2 ∨ l / 0x1000 = 4) ∧ l % 0x100 = 8 then some 8 else if l = 0x6020 ∨ l = 0x8880 then some 8 else none)
  else if off < 0x2200000 then (if off % 0x800 = 8 then some 9 else none)
  else none

/-- `GLB_IRQ_STATUS` (R625): bits whose sources hold an event with its enable. -/
def Mach.irqStatus (m : Mach) : Nat :=
  m.regs.foldl (fun s (x : Nat × Word) =>
    match eventGroup x.1 with
    | some b => if x.2 &&& m.reg (x.1 + 4) ≠ 0 then withBit s b true else s
    | none =>
      if 0x40A0000 ≤ x.1 ∧ x.1 < 0x40A1000 ∧ x.1 % 0x80 = 0xC then
        (if x.2.toNat &&& m.rd (CNT_FB_CTRL_IRQ_EN ((x.1 - 0x40A0000) / 0x80)) ≠ 0 then withBit s 5 true else s)
      else s) 0

/-- C of R627: summary bits that the mask lets through. -/
def Mach.irqOn (m : Mach) : Nat := m.irqStatus &&& (0x7FF - m.rd GLB_IRQ_MASK_MASK)

/-- Signal a vector of the management endpoint, or set its Pending bit while its table entry masks it (R627). -/
def Mach.signalVec (m : Mach) (v : Nat) : Mach :=
  if m.flag (MSIX_CTRL_MASKED v) then m.wr MSIX_PBA_PENDING (withBit (m.rd MSIX_PBA_PENDING) v true) else m.send (.msix v)

/-- Note every vector whose C has risen (R627): SUMMARY_VECTOR_SIGNAL signals it. -/
def Mach.signal (m : Mach) (was : Nat) : Mach := { m with irqOwed := m.irqOwed ||| (m.irqOn &&& (0x7FF - was)) }

/-- Run one command on everything but the queue and the mode latch: what was sent by the command before is gone; summary
interrupts that the command raises are noted. -/
def act (f : Mach → Mach) (s : State) : Res := .next { s with m := (f { s.m with out := [] }).signal s.m.irqOn }

/-- As act, for a meaning that also reads the latched mode. -/
def actL (f : ModeLatch → Mach → Mach) (s : State) : Res := .next { s with m := (f s.latch { s.m with out := [] }).signal s.m.irqOn }

/-! ### Bytes and CRC-32C -/

/-- The low n bytes of a value, least significant first. -/
def leBytes : Nat → Nat → List Byte
  | 0, _ => []
  | n + 1, v => BitVec.ofNat 8 v :: leBytes n (v / 256)

/-- The value that bytes spell, least significant first. -/
def ofLe : List Byte → Nat
  | [] => 0
  | b :: t => b.toNat + 256 * ofLe t

/-- One bit of the reflected CRC-32C (polynomial 0x82F63B78). -/
def crcBit (c : BitVec 32) : BitVec 32 := if c.getLsbD 0 then (c >>> 1) ^^^ 0x82F63B78 else c >>> 1

/-- One byte of the CRC. -/
def crcByte (c : BitVec 32) (b : Byte) : BitVec 32 :=
  crcBit (crcBit (crcBit (crcBit (crcBit (crcBit (crcBit (crcBit (c ^^^ b.zeroExtend 32))))))))

/-- CRC-32C of bytes, continued from an earlier value. -/
def crc32cFrom (c : BitVec 32) (bs : List Byte) : BitVec 32 := ~~~(bs.foldl crcByte (~~~c))

/-- CRC-32C of bytes (R77, R588). -/
def crc32c (bs : List Byte) : BitVec 32 := crc32cFrom 0 bs

/-! ### Domain records -/

/-- A domain's record. -/
def Mach.dom (m : Mach) (d : Nat) : DomRec := SMap.get {} m.doms d

/-- Write a domain's record. -/
def Mach.setDom (m : Mach) (d : Nat) (r : DomRec) : Mach := { m with doms := SMap.set {} m.doms d r }

/-- Change a domain's record. -/
def Mach.updDom (m : Mach) (d : Nat) (f : DomRec → DomRec) : Mach := m.setDom d (f (m.dom d))

/-! ### Errors (R574, R587 to R591) -/

/-- n of R587: 0 where the journal is off. -/
def Mach.jrnLog2 (m : Mach) : Nat :=
  let n := m.rd ERR_JRN_CFG_LOG2_ENTRIES
  if 10 ≤ n && n ≤ 24 then n else 0

/-- The 60 bytes of a journal record before its CRC (R588). -/
def journalBody (e : ErrRec) (time gen count seq : Nat) : List Byte :=
  leBytes 8 time ++ leBytes 4 seq ++ leBytes 1 e.cls.code ++ leBytes 1 e.block ++ leBytes 2 e.code ++
  leBytes 2 (e.port.getD 0xFFFF) ++ leBytes 2 (e.dom.getD 0xFFFF) ++ leBytes 2 gen ++ leBytes 2 (min count 0xFFFF) ++
  leBytes 8 e.addr ++ leBytes 4 e.loc ++ leBytes 4 e.synd ++ ((e.info ++ List.replicate 20 0).take 20)

/-- Unread records of the journal, HEAD − TAIL modulo 2^32. -/
def Mach.jrnFill (m : Mach) : Nat :=
  (m.rd ERR_JRN_HEAD_COUNT + 2 ^ 32 - m.rd ERR_JRN_TAIL_COUNT) % 2 ^ 32

/-- Whether the journal takes a record of this class now (R587): a corrected one below 15/16 of the ring, any other
one below the whole ring. -/
def Mach.jrnTakes (m : Mach) (c : ErrClass) : Bool :=
  let n := m.jrnLog2
  n != 0 && (if c = .corrected then m.jrnFill * 16 < 15 * 2 ^ n else m.jrnFill < 2 ^ n)

/-- Write a record to the journal, or drop it (R587). The second component is the record's SEQ, 0xFFFF_FFFF where it
was not written. -/
def Mach.journal (m : Mach) (e : ErrRec) (time gen count : Nat) : Mach × Nat :=
  if m.jrnTakes e.cls then
    let seq := m.rd ERR_JRN_HEAD_COUNT
    let body := journalBody e time gen count seq
    let at_ := m.rd ERR_JRN_BASE_BASE * 64 + 64 * (seq % 2 ^ m.jrnLog2)
    let m := { m with ddr := Mem.writeBytes m.ddr at_ (body ++ leBytes 4 (crc32c body).toNat) }
    (m.add ERR_JRN_HEAD_COUNT 1, seq)
  else if m.jrnLog2 = 0 then (m, 0xFFFFFFFF)
  else
    let m := m.addSat ERR_JRN_DROP_COUNT 1
    (m.raiseIf (e.cls != .corrected) ERR_EVENT_JRN_FULL, 0xFFFFFFFF)

/-- Fill a domain's first-error record, or count a further contained error in it (R591). -/
def Mach.firstError (m : Mach) (d : Nat) (e : ErrRec) (seq : Nat) : Mach :=
  let r := m.dom d
  if r.ferr.valid then
    m.setDom d { r with ferr := { r.ferr with count := min (r.ferr.count + 1) 0xFFFFFFFF } }
  else
    let f : FErr := { addr := e.addr, time := m.tbNs, port := e.port.getD 0xFFFF, block := e.block, valid := true,
                      code := e.code, gen := r.gen, count := 0, seq := seq }
    (m.setDom d { r with ferr := f }).raise ERR_EVENT_DOM_FERR

/-- Whether two corrected errors merge (R589): the same BLOCK, CODE and LOCATION. -/
def ErrRec.merges (a b : ErrRec) : Bool := a.block = b.block && a.code = b.code && a.loc = b.loc

/-- Detect an error (R574, R587, R589, R591): the events of its class are raised; a corrected error joins its window,
unless COALESCE is 0; any other is written to the journal; a contained one fills its domain's first-error record. -/
def Mach.error (m : Mach) (e : ErrRec) : Mach :=
  let gen := match e.dom with | some d => (m.dom d).gen | none => 0
  let m := m.raise ERR_EVENT_RECORD
  let m := m.raiseIf (e.cls = .contained) ERR_EVENT_CONTAINED
  let m := m.raiseIf (e.cls = .portFatal) ERR_EVENT_PORT_FATAL
  if e.cls = .corrected ∧ m.rd ERR_CTRL_COALESCE ≠ 0 then
    if m.merging.any (fun g => g.e.merges e) then
      { m with merging := m.merging.map fun g => if g.e.merges e then { g with count := g.count + 1 } else g }
    else { m with merging := m.merging ++ [{ e := e, time := m.tbNs, gen := gen, count := 1 }] }
  else
    let (m, seq) := m.journal e m.tbNs gen 1
    match e.cls, e.dom with
    | .contained, some d => m.firstError d e seq
    | _, _ => m

/-- A refused access (R341): the violation record takes the first, and counts the further ones. -/
def Mach.violation (m : Mach) (d : Nat) (v : Viol) : Mach :=
  let r := m.dom d
  let m := m.count (CNT_DOM d 11) 1
  if r.viol.valid then
    m.setDom d { r with viol := { r.viol with count := min (r.viol.count + 1) 0xFFFFFFFF } }
  else
    (m.setDom d { r with viol := { v with time := m.tbNs, valid := true, gen := r.gen, count := 0 } }).raise DOM_EVENT_VIOLATION

end Sys2Proof.Machine
end

