-- ==== Sys2Proof/Machine/PortOps.lean ====
section
/-! DEFINITION. Sys2Proof/Machine/PortOps.lean: what a port is: the port map, roles, bindings, pooled ports and LDs, VF
ranges, expander bits (06). -/
namespace Sys2Proof.Machine

/-- The tile of a port or lane (R13). -/
def tileOf (p : Nat) : Nat := p / 16

/-- The width nibble of a port number in its tile's map (R167). -/
def Mach.nibble (m : Mach) (p : Nat) : Nat := (m.rd (TILE_PORTMAP_MAP (tileOf p)) >>> (4 * (p % 16))) % 16

/-- Whether a port starts at this number. -/
def Mach.portExists (m : Mach) (p : Nat) : Bool := p < 1024 && m.nibble p != 0

/-- Lanes of a port: 1, 2, 4, 8 or 16. -/
def Mach.portLanes (m : Mach) (p : Nat) : Nat := 2 ^ (m.nibble p - 1)

/-- The port that a lane belongs to, where it belongs to one. -/
def Mach.portOfLane (m : Mach) (l : Nat) : Option Nat :=
  (List.range 16).findSome? fun o =>
    let p := tileOf l * 16 + o
    if m.portExists p && p ≤ l && l < p + m.portLanes p then some p else none

/-- A map is valid (R167): each width code is at most 5, each port starts at a multiple of its width, and no two ports
share a lane. -/
def mapValid (map : Nat) : Bool :=
  let nib := fun o => (map >>> (4 * o)) % 16
  (List.range 16).all fun o =>
    nib o == 0 || (nib o ≤ 5 && o % 2 ^ (nib o - 1) == 0 &&
      (List.range 16).all fun o' => !(o < o' && o' < o + 2 ^ (nib o - 1)) || nib o' == 0)

/-- Every port of the map, ascending. -/
def Mach.allPorts (m : Mach) : List Nat := (List.range 1024).filter m.portExists

/-- ROLE of a port (R169). -/
def Mach.role (m : Mach) (p : Nat) : Nat := m.rd (TILE_PORT_CTRL_ROLE p)

def Mach.isDown (m : Mach) (p : Nat) : Bool := m.portExists p && m.role p == 0
def Mach.isUp (m : Mach) (p : Nat) : Bool := m.portExists p && m.role p == 1
def Mach.isFabric (m : Mach) (p : Nat) : Bool := m.portExists p && m.role p == 2

/-- A port that speaks the Zitch link: fabric with PROTO 1. -/
def Mach.isZitch (m : Mach) (p : Nat) : Bool := m.isFabric p && m.flag (TILE_PORT_CTRL_PROTO p)

/-- Upstream ports, ascending: VCS n is headed by the n-th (R173). -/
def Mach.upstreamPorts (m : Mach) : List Nat := (List.range 1024).filter m.isUp

/-- The VCS that an upstream port heads (R173). -/
def Mach.vcsOf (m : Mach) (up : Nat) : Nat := (m.upstreamPorts.takeWhile (· < up)).length

/-- What a port holds beyond its registers. -/
def Mach.px (m : Mach) (p : Nat) : PortX := SMap.get {} m.ports p

/-- Change what a port holds beyond its registers. -/
def Mach.updPx (m : Mach) (p : Nat) (f : PortX → PortX) : Mach :=
  { m with ports := SMap.set {} m.ports p (f (m.px p)) }

/-- A vPPB's record. -/
def Mach.vp (m : Mach) (up v : Nat) : Vppb := SMap.get {} m.vppbs (up * 65 + v)

/-- Change a vPPB's record. -/
def Mach.updVp (m : Mach) (up v : Nat) (f : Vppb → Vppb) : Mach :=
  { m with vppbs := SMap.set {} m.vppbs (up * 65 + v) (f (m.vp up v)) }

/-- The binding of a port or LD (R178). -/
def Mach.bindOf (m : Mach) (p ld : Nat) : Option Bind := SMap.find m.binds (p * 16 + ld)

/-- The first binding of a port: the port's own, or that of its lowest bound LD. -/
def Mach.bound (m : Mach) (p : Nat) : Option Bind := (List.range 16).findSome? (m.bindOf p)

/-- The port or LD bound to a vPPB. -/
def Mach.boundTo (m : Mach) (up v : Nat) : Option (Nat × Nat) :=
  m.binds.findSome? fun (k, b) => if b.up = up ∧ b.vppb = v then some (k / 16, k % 16) else none

/-- A pooled port or LD (R178): a downstream port, or LD of it, that is bound to no vPPB, and whose device is
multi-logical exactly where an LD is named (R326). -/
def Mach.pooled (m : Mach) (p ld : Nat) (mld : Bool) : Bool :=
  m.isDown p && mld == m.flag (TILE_PORT_STATUS_MLD p) &&
  (if mld then ld < 16 && (m.px p).lds > ld else ld == 0) && (m.bindOf p ld).isNone

/-- A port with no binding: its errors go to the journal and to D0 (R199). -/
def Mach.portPooled (m : Mach) (p : Nat) : Bool := m.isDown p && ((m.bound p).isNone || m.flag (TILE_PORT_STATUS_MLD p))

/-- VF range of the service PF of an upstream port (R176): first VF and count. -/
def Mach.vfRange (m : Mach) (up : Nat) : Nat × Nat :=
  let share := fun p => ((m.boot.policy.vfShare.find? (·.1 = p)).map (·.2)).getD 0
  let lo := ((m.upstreamPorts.takeWhile (· < up)).map share).sum
  (lo, min (share up) (4095 - lo))

/-- The service PF's upstream port that holds a VF number. -/
def Mach.vfPort (m : Mach) (vf : Nat) : Option Nat :=
  m.upstreamPorts.find? fun p => let r := m.vfRange p; r.1 ≤ vf && vf < r.1 + r.2

/-- The domain of an upstream port, where it belongs to one (R322). -/
def Mach.portDom (m : Mach) (p : Nat) : Option Nat := SMap.find m.domPort p

/-- The upstream ports of a domain. -/
def Mach.domPorts (m : Mach) (d : Nat) : List Nat := (m.domPort.filter (·.2 = d)).map (·.1)

/-- Function domains of a host domain (R321). -/
def Mach.children (m : Mach) (d : Nat) : List Nat :=
  (m.doms.filter fun (_, r) => r.kind = .func && r.parent = d && r.state ≠ .free).map (·.1)

/-- A port's link is up (`TILE_PORT_STATUS.LINK_UP`). -/
def Mach.linkUp (m : Mach) (p : Nat) : Bool := m.flag (TILE_PORT_STATUS_LINK_UP p)

/-- LINK_DIS of a port: of its Zitch registers where it speaks Zitch, of its port control too (R166, R169). -/
def Mach.linkDis (m : Mach) (p : Nat) : Bool :=
  m.flag (TILE_PORT_CTRL_LINK_DIS p) || (m.isZitch p && m.flag (TILE_ZL_CTRL_LINK_DIS p))

/-- The port admits messages: its link is up, no flush runs, it is not contained, and no orderly core reset, DORMANT entry
or wake withholds credits (R89, R225, R562). -/
def Mach.admits (m : Mach) (p : Nat) : Bool :=
  m.linkUp p && !(m.px p).flushing && !(m.px p).held && m.boot.orderly.isNone &&
  m.rd WKT_PWR_STATUS_STATE < 3 && m.rd WKT_BOOT_STATUS_STAGE == 3

/-- A write to a TILE_ or LANE_ register of tile t: while the tile is gated it is stored, to be applied at ungating (R558). -/
def Mach.orShut (m : Mach) (t off v : Nat) (f : Mach → Mach) : Mach :=
  if bit (m.rd WKT_SHUTTER_STATUS_TILE) t then { m with shutWr := m.shutWr ++ [(off, v)] } else f m

/-- Drive an expander output bit (R194). -/
def Mach.expDrive (m : Mach) (b : Nat) (v : Bool) : Mach := { m with expOut := withBit m.expOut b v }

/-- A log of an error on a port goes where R199 gives: an upstream port's AER, the bound vPPB's AER, or, for pooled and
fabric ports, D0's FM API event records. -/
def Mach.portLog (m : Mach) (p block code : Nat) : Mach :=
  let w := block * 65536 + code
  if m.isUp p then m.updPx p fun x => { x with aer := x.aer ++ [w] }
  else match m.bound p with
    | some b => if m.portPooled p then { m with fm := { m.fm with events := m.fm.events ++ [(block, code, p)] } }
                else m.updVp b.up b.vppb fun v => { v with aer := v.aer ++ [w] }
    | none => { m with fm := { m.fm with events := m.fm.events ++ [(block, code, p)] } }

/-- Whether Shutter gates a tile (R557). -/
def Mach.gated (m : Mach) (t : Nat) : Bool := bit (m.rd WKT_SHUTTER_STATUS_TILE) t

/-- The power state of a switch that runs (R556): TRIM while a tile is gated, else ACTIVE. -/
def Mach.onState (m : Mach) : Nat := if m.rd WKT_SHUTTER_STATUS_TILE = 0 then 0 else 1

/-- A wake source of R568 is taken, where it is enabled: in ENTERING and DORMANT, edge events not in the 80 ns window (R569). -/
def Mach.wakeEdge (m : Mach) (src : Nat) : Mach :=
  let st := m.rd WKT_PWR_STATUS_STATE
  if (st = 3 || st = 4) && bit (m.rd WKT_WAKE_EN_EN) src && !m.pw.window then { m with pw := { m.pw with pend := withBit m.pw.pend src true } }
  else m

end Sys2Proof.Machine
end

