-- ==== Sys2Proof/Machine/DomOps.lean ====
section
/-! DEFINITION. Sys2Proof/Machine/DomOps.lean: Casement matching, translation and the access check (R325 to R341), and
what a rule change does at its commit point (R342 to R346). -/
namespace Sys2Proof.Machine

/-! ### Matching and translation -/

/-- The Casement of a domain whose range holds an address, with its slot (R329). -/
def Mach.casAt (m : Mach) (d a : Nat) : Option (Nat × Casement) :=
  (m.dom d).cas.find? fun (_, c) => c.base ≤ a && a < c.base + 2 ^ c.k

/-- The attributes of R330. -/
def Casement.allows (c : Casement) (n : Need) : Bool :=
  (!n.rd || c.r) && (!n.wr || c.w) && (!n.atomic || (c.a && c.coh))

/-- Members of an interleave set: 2^WAYS (R332). -/
def IlvSet.count (s : IlvSet) : Nat := 2 ^ s.ways

/-- Granularity of an interleave set in bytes. -/
def IlvSet.bytes (s : IlvSet) : Nat := 256 * 2 ^ s.gran

/-- A mirror pair's member. -/
def MirPair.mem (p : MirPair) (i : Nat) : Member := if i = 0 then p.m0 else p.m1

/-- A mirror member's state. -/
def MirPair.st (p : MirPair) (i : Nat) : MirState := if i = 0 then p.st0 else p.st1

/-- Set a mirror member's state. -/
def MirPair.setSt (p : MirPair) (i : Nat) (s : MirState) : MirPair := if i = 0 then { p with st0 := s } else { p with st1 := s }

/-- The member that a read goes to (R335): by READ_SEL, but only to a member in sync. -/
def MirPair.readFrom (p : MirPair) (a : Nat) : Nat :=
  let w := if p.readSel then (a / 4096) % 2 else 0
  if p.st w = .inSync then w else 1 - w

/-- An interleave set; a mirror pair. -/
def Mach.ilvSet (m : Mach) (i : Nat) : IlvSet := SMap.get {} m.ilv i
def Mach.mirPair (m : Mach) (i : Nat) : MirPair := SMap.get {} m.mir i

/-- Where a matched Casement sends an address (R331). -/
def Mach.translate (m : Mach) (c : Casement) (a : Nat) : Xlat :=
  let s := a - c.base + c.offset
  let coh := if c.coh then some (c.cohBase + (a - c.base)) else none
  let x : Xlat := { port := 0, dpa := s, coh := coh, hedge := c.hedge, spec := c.spec }
  let send := fun (x : Xlat) (mb : Member) (dpa : Nat) =>
    { x with port := mb.port, ld := if mb.mld then some mb.ld else none, dpa := dpa }
  if c.ilv then
    let st := m.ilvSet (c.target % 1024)
    let g := s / st.bytes
    let mb := SMap.get {} st.members (g % st.count)
    send x mb (mb.dpaBase + g / st.count * st.bytes + s % st.bytes)
  else if c.mirror then
    let i := c.target % 512
    let p := m.mirPair i
    let w := p.readFrom a
    { send x (p.mem w) ((p.mem w).dpaBase + s) with pair := some i, member := w }
  else
    { x with port := c.target % 1024, ld := if bit c.target 14 then some (c.target / 1024 % 16) else none }

/-- The default map (R337): ports of [2^51, 2^52), pooled ports and LDs only. -/
def Mach.defaultMap (m : Mach) (a : Nat) : Option Xlat :=
  if 2 ^ 51 ≤ a ∧ a < 2 ^ 52 then
    let p := (a - 2 ^ 51) / 2 ^ 41
    if m.flag (TILE_PORT_STATUS_MLD p) then
      let ld := a / 2 ^ 37 % 16
      if m.pooled p ld true then some { port := p, ld := some ld, dpa := a % 2 ^ 37 } else none
    else if m.pooled p 0 false then some { port := p, dpa := (a - 2 ^ 51) % 2 ^ 41 } else none
  else none

/-- The lowest Casement of a domain that begins above an address and below an end; else that end. -/
def Mach.casNext (m : Mach) (d a e : Nat) : Nat :=
  (m.dom d).cas.foldl (fun e x => if a < x.2.base && x.2.base < e then x.2.base else e) e

/-- One address of an access: the translation and the end of the range that the same rule allows, or the refusal. A domain's own Casements
stand before D0's, and these before the default map (R337). -/
def Mach.checkByte (m : Mach) (d : Nat) (priv : Bool) (n : Need) (a : Nat) : Verdict × Nat :=
  let dflt : Verdict × Nat :=
    match (if n.atomic then none else m.defaultMap a) with
    | some x => (.allow x, m.casNext d a (m.casNext 0 a (a - a % 2 ^ 37 + 2 ^ 37)))
    | none => (.refuse a 4 0xFFFF, a)
  let by_ := fun (slot : Nat) (c : Casement) (next : Nat) =>
    if c.privOnly && !priv then (.refuse a 3 slot, a)
    else if c.allows n then (.allow (m.translate c a), next)
    else (.refuse a 2 slot, a)
  match m.casAt d a with
  | some (slot, c) => by_ slot c (c.base + 2 ^ c.k)
  | none =>
    if !priv then (.refuse a 1 0xFFFF, a)
    else if d = 0 then dflt
    else match m.casAt 0 a with
      | some (slot, c) => by_ slot c (m.casNext d a (c.base + 2 ^ c.k))
      | none => dflt

/-- The access check of R339 over bytes [a, e): rule after rule, at most as many as there are Casements and default-map
slices to meet. -/
def Mach.checkFrom (m : Mach) (d : Nat) (priv : Bool) (n : Need) (e : Nat) : Nat → Nat → Verdict
  | 0, a => .refuse a 1 0xFFFF
  | fuel + 1, a =>
    match m.checkByte d priv n a with
    | (.refuse b c s, _) => .refuse b c s
    | (.allow x, next) =>
      if e ≤ next then .allow x
      else match m.checkFrom d priv n e fuel next with
        | .allow _ => .allow x
        | r => r

/-- The access check (R339): the translation is that of the first byte. -/
def Mach.check (m : Mach) (d : Nat) (priv : Bool) (n : Need) (a len : Nat) : Verdict :=
  m.checkFrom d priv n (a + len) 2048 a

/-- What a request needs (R330). -/
def ReqKind.need : ReqKind → Need
  | .readShared => { rd := true, caching := true }
  | .readOwn => { rd := true, wr := true, caching := true }
  | .upgrade => { rd := true, wr := true, caching := true }
  | .ncRead | .ioRead | .cleanEvict | .memSpecRd => { rd := true }
  | .ncWrite _ | .ioWrite | .writeBack _ => { wr := true }
  | .atomic _ _ _ _ => { atomic := true }
  | .biConflict | .cacheMsg _ => {}
  | .otherM2S _ => { rd := true }

/-- ACCESS of the violation record (R341). -/
def Need.code (n : Need) : Nat :=
  (if n.rd then 1 else 0) + (if n.wr then 2 else 0) + (if n.atomic then 4 else 0) + (if n.caching then 8 else 0)

/-! ### Rule changes -/

/-- Members of a set that a Casement may name (R326): pooled, MLD as the device is. -/
def Mach.memberOk (m : Mach) (b : Member) : Bool := m.pooled b.port b.ld b.mld && b.dpaBase % 4096 == 0

/-- A valid interleave set (R326, R332). -/
def Mach.ilvValid (m : Mach) (i : Nat) : Bool :=
  let s := m.ilvSet i
  1 ≤ s.ways && s.ways ≤ 4 && s.gran ≤ 6 && (List.range s.count).all fun w => m.memberOk (SMap.get {} s.members w)

/-- A valid mirror pair (R326, R333). -/
def Mach.mirValid (m : Mach) (i : Nat) : Bool :=
  let p := m.mirPair i
  m.memberOk p.m0 && m.memberOk p.m1

/-- Valid Casements that name an interleave set, or a mirror pair. -/
def Mach.ilvRefs (m : Mach) (i : Nat) : Nat :=
  (m.doms.map fun (_, r) => (r.cas.filter fun (_, c) => c.ilv && c.target % 1024 == i).length).sum
def Mach.mirRefs (m : Mach) (i : Nat) : Nat :=
  (m.doms.map fun (_, r) => (r.cas.filter fun (_, c) => c.mirror && c.target % 512 == i).length).sum

/-- Casements in use in the pool (`CSM_POOL`). -/
def Mach.poolUsed (m : Mach) : Nat := (m.doms.map fun (_, r) => r.cas.length).sum

/-- The record's fields as a Casement (R325). -/
def CasBody.toCas (b : CasBody) : Casement :=
  { base := b.base / 4096 * 4096, k := b.base / 64 % 64, r := bit b.attr 1, w := bit b.attr 2, a := bit b.attr 3,
    spec := bit b.attr 4, coh := bit b.attr 5, hedge := b.attr / 64 % 4, privOnly := bit b.attr 8, ilv := bit b.attr 9,
    mirror := bit b.attr 10, target := b.target, offset := b.offset / 4096 * 4096,
    cohBase := b.cohBase }

/-- Reserved bits of R325 set in a record, COH_BASE only with COH (R326). -/
def CasBody.reserved (b : CasBody) : Bool :=
  b.base % 64 != 0 || b.attr / 2 ^ 11 != 0 || b.owner / 4096 != 0 || b.offset % 4096 != 0 ||
  (bit b.attr 5 && b.cohBase / 2 ^ 54 != 0) ||
  (if bit b.attr 9 then b.target / 1024 != 0 else if bit b.attr 10 then b.target / 512 != 0 else b.target / 2 ^ 15 != 0)

/-- Range part of R326. -/
def Casement.rangeOk (c : Casement) : Bool := 12 ≤ c.k && c.k ≤ 52 && c.base % 2 ^ c.k == 0

/-- Target part of R326. -/
def Mach.targetOk (m : Mach) (c : Casement) : Bool :=
  !(c.ilv && c.mirror) &&
  (if c.ilv then m.ilvValid (c.target % 1024) else if c.mirror then m.mirValid (c.target % 512)
   else m.pooled (c.target % 1024) (c.target / 1024 % 16) (bit c.target 14)) &&
  (!c.coh || c.cohBase % 4096 == 0)

/-- Whether a Casement's range lies within another's. -/
def Casement.within (c p : Casement) : Bool := p.base ≤ c.base && c.base + 2 ^ c.k ≤ p.base + 2 ^ p.k

/-- Whether two ranges overlap. -/
def Casement.overlaps (c d : Casement) : Bool := c.base < d.base + 2 ^ d.k && d.base < c.base + 2 ^ c.k

/-- Whether attributes stay within a parent's (R327). -/
def Casement.narrower (c p : Casement) : Bool :=
  (!c.r || p.r) && (!c.w || p.w) && (!c.a || p.a) && (!c.spec || p.spec) && (!c.coh || p.coh) && !c.privOnly

/-- A function-domain Casement under its parent's (R327, R345): its range, the AND of the attributes, the parent's
target and a translation equal to the parent's byte for byte. -/
def Casement.under (c p : Casement) : Casement :=
  { c with r := c.r && p.r, w := c.w && p.w, a := c.a && p.a, spec := c.spec && p.spec, coh := c.coh && p.coh,
           privOnly := false, hedge := p.hedge, ilv := p.ilv, mirror := p.mirror, target := p.target,
           offset := p.offset + (c.base - p.base), cohBase := (p.cohBase + (c.base - p.base)) % 2 ^ 64 }

/-- The parent Casement that a function domain's range lies in. -/
def Mach.parentCas (m : Mach) (d : Nat) (c : Casement) : Option Casement :=
  ((m.dom (m.dom d).parent).cas.find? fun (_, p) => c.within p).map (·.2)

/-- HPA_BIAS disagrees (R328) at some valid upstream-port member of the Casement's hedgerow that is a port of the
domain. -/
def Mach.biasBad (m : Mach) (d : Nat) (c : Casement) : Bool :=
  c.coh && (List.range 64).any fun i =>
    m.flag (PVT_MEMBER_VALID c.hedge i) && !m.flag (PVT_MEMBER_KIND c.hedge i) &&
    m.portDom (m.rd (PVT_MEMBER_ID c.hedge i)) == some d &&
    m.rd (PVT_MEMBER_BIAS_HPA_BIAS c.hedge i) != (c.base + 2 ^ 64 - c.cohBase) % 2 ^ 64

/-- Whether a caller's admin queue may set Casements of a domain (R342). -/
def Mach.mayRule (m : Mach) (caller d : Nat) : Bool :=
  d != 0 && (m.dom d).state != .free && (caller == 0 || ((m.dom d).kind == .func && (m.dom d).parent == caller))

/-- SET_CASEMENT (R342): the sub-code of the refusal, or the slot's new contents. The checks run in the order 1, 7, 2, 3,
4, 5, 6. -/
def Mach.ruleSet (m : Mach) (caller d slot : Nat) (b : CasBody) : Except Nat (Option Casement) :=
  let r := m.dom d
  if !m.mayRule caller d then .error 1
  else if b.reserved then .error 7
  else if !bit b.attr 0 then .ok none
  else
    let c := b.toCas
    let others := SMap.del r.cas slot
    if !c.rangeOk || (r.kind = .host && !m.targetOk c) then .error 2
    else if others.any (fun (_, o) => c.overlaps o) then .error 3
    else
      let full := (SMap.find r.cas slot).isNone && (m.poolUsed ≥ 65536 || r.cas.length ≥ 256)
      if r.kind = .func then
        match m.parentCas d c with
        | some p => if !c.narrower p then .error 4 else if full then .error 6 else .ok (some (c.under p))
        | none => .error 4
      else if m.biasBad d c then .error 5
      else if full then .error 6
      else .ok (some c)

/-- Whether replacing a Casement takes coherent coverage away (R346). -/
def takesCoverage (old new : Option Casement) : Bool :=
  match old with
  | none => false
  | some o => o.coh && (match new with
    | none => true
    | some n => !n.coh || (o.r && !n.r) || (o.w && !n.w) || !o.within n || o.hedge != n.hedge ||
                (n.cohBase + (o.base - n.base)) != o.cohBase)

/-- R345 for one function domain: every Casement of it follows its parent's, or is freed. -/
def Mach.reparent (m : Mach) (d : Nat) : Mach :=
  let r := m.dom d
  let cas := r.cas.filterMap fun (s, c) => (m.parentCas d c).map fun p => (s, c.under p)
  if cas = r.cas then m else m.setDom d { r with cas := cas, ruleEpoch := m.epoch }

/-- The commit point (R343, R345): the global epoch rises, the changed domain's epoch takes it, and the function domains
follow. -/
def Mach.commit (m : Mach) (c : CasChange) : Mach :=
  let m := { m with epoch := (m.epoch + 1) % 2 ^ 32 }
  match c with
  | .slot d s new =>
    let r := m.dom d
    let cas := match new with | some x => SMap.ins r.cas s x | none => SMap.del r.cas s
    let m := m.setDom d { r with cas := cas, ruleEpoch := m.epoch }
    (m.children d).foldl Mach.reparent m
  | .freeAll d =>
    let m := m.setDom d { m.dom d with cas := [], ruleEpoch := m.epoch }
    (m.children d).foldl Mach.reparent m
  | .slots d l _ =>
    let r := m.dom d
    let cas := l.foldl (fun (t : SMap Casement) (x : Nat × Option Casement) => match x.2 with | some c => SMap.ins t x.1 c | none => SMap.del t x.1) r.cas
    let m := m.setDom d { r with cas := cas, ruleEpoch := m.epoch }
    (m.children d).foldl Mach.reparent m
  | .fabric f d => { m with domFabric := match d with | some x => SMap.ins m.domFabric f x | none => SMap.del m.domFabric f }

/-- A generation rises by one modulo 65,536 (R348). -/
def Mach.bumpGen (m : Mach) (d : Nat) : Mach := m.updDom d fun r => { r with gen := (r.gen + 1) % 65536 }

/-- A mirror member is marked failed (R334). -/
def Mach.mirFail (m : Mach) (pair i : Nat) : Mach :=
  let p := m.mirPair pair
  if p.st i = .failed then m
  else (({ m with mir := SMap.set {} m.mir pair (p.setSt i .failed) }).raise DOM_EVENT_MIRROR_FAIL).error
    { cls := .corrected, block := 8, code := 1, port := some (p.mem i).port }

/-- Every mirror member on a port, or on one LD of it, is marked failed (R334). -/
def Mach.mirFailPort (m : Mach) (p : Nat) (ld : Option Nat) : Mach :=
  m.mir.foldl (fun m (i, q) =>
    let hit := fun (b : Member) => b.port == p && (match ld with | some x => b.mld && b.ld == x | none => true)
    let m := if hit q.m0 then m.mirFail i 0 else m
    if hit q.m1 then m.mirFail i 1 else m) m

end Sys2Proof.Machine
end

