-- ==== Sys2Proof/Machine/LvrOps.lean ====
section
/-! DEFINITION. Sys2Proof/Machine/LvrOps.lean: Louvre as the other blocks use it: metering and colour (R375 to R378), the
shaping buckets (R379), the choice of traffic class at an egress port (R381, R382), device load (R383). -/
namespace Sys2Proof.Machine

/-- A bucket after a time: filled at a rate in Mbit/s up to a burst in bytes, in units of 1/8000 byte. -/
def fill (level : Int) (rate burst dt : Nat) : Int := min (level + (rate * dt : Nat)) ((burst * 8000 : Nat) : Int)

/-- An entry with its buckets filled up to now. -/
def LvrEnt.upTo (e : LvrEnt) (now : Nat) : LvrEnt :=
  let dt := now - e.last
  { e with tc := fill e.tc e.cir e.cbs dt, tp := fill e.tp e.pir e.pbs dt, shp := fill e.shp e.shpRate e.shpBurst dt, last := now }

/-- An entry with full buckets (R376, R380). -/
def LvrEnt.full (e : LvrEnt) (now : Nat) : LvrEnt :=
  { e with tc := ((e.cbs * 8000 : Nat) : Int), tp := ((e.pbs * 8000 : Nat) : Int), shp := ((e.shpBurst * 8000 : Nat) : Int), last := now }

/-- The valid entry of a (domain, egress port) pair, with its index (R373). -/
def Mach.lvrOf (m : Mach) (d p : Nat) : Option (Nat × LvrEnt) := m.lvr.find? fun (_, e) => e.dom = d && e.port = p

/-- The two-rate three-colour marker of R376 on a message of b bytes: the colour (0 green, 1 yellow, 2 red) and the
buckets after. -/
def LvrEnt.meter (e : LvrEnt) (pre b : Nat) : Nat × LvrEnt :=
  let u : Int := ((b * 8000 : Nat) : Int)
  let pre := if e.aware then pre else 0
  if pre ≥ 2 ∨ e.tp < u then (2, e)
  else if pre = 1 ∨ e.tc < u then (1, { e with tp := e.tp - u })
  else (0, { e with tp := e.tp - u, tc := e.tc - u })

/-- Meter a request at its tracker allocation (R375 to R377): the colour, the traffic class it leaves with, and the state
with the entry's buckets and the colour counters moved on. -/
def Mach.colour (m : Mach) (d p vc tc pre slots : Nat) (keepsTc : Bool) : Nat × Nat × Mach :=
  if !m.flag LVR_CTRL_POLICE_EN || !(vc = 1 || vc = 2 || vc = 7) then (0, tc, m)
  else match m.lvrOf d p with
    | some (i, e) =>
      if !e.polEn then (0, tc, m)
      else
        let (c, e) := (e.upTo m.now).meter pre (slots * 16)
        let e := if c = 2 then { e with red := min (e.red + 1) 0xFFFFFFFF }
                 else if c = 1 then { e with yellow := min (e.yellow + 1) 0xFFFFFFFF } else e
        let m := { m with lvr := SMap.ins m.lvr i e }
        let m := if c = 2 then m.count (CNT_DOM d 10) 1 else if c = 1 then m.count (CNT_DOM d 9) 1 else m
        (c, if c = 2 && !keepsTc then 7 else tc, m)
    | none => (0, tc, m)

/-- The shaping entry of a pair (R379). -/
def Mach.shaper (m : Mach) (d p : Nat) : Option Nat :=
  match m.lvrOf d p with | some (i, e) => if e.shpEn then some i else none | none => none

/-- Whether a shaped message may leave its ingress tile now: its bucket holds more than 0 bytes (R379). -/
def Mach.shapeOk (m : Mach) (s : Option Nat) : Bool :=
  match s with
  | none => true
  | some i => !m.flag LVR_CTRL_SHAPE_EN || match SMap.find m.lvr i with
    | some e => !e.shpEn || decide (0 < (e.upTo m.now).shp)
    | none => true

/-- Take a message's metered size from its bucket when its first cell is matched (R379). -/
def Mach.shapeTake (m : Mach) (s : Option Nat) (slots : Nat) : Mach :=
  match s with
  | none => m
  | some i => if !m.flag LVR_CTRL_SHAPE_EN then m else match SMap.find m.lvr i with
    | some e => let e := e.upTo m.now
                { m with lvr := SMap.ins m.lvr i { e with shp := e.shp - ((slots * 16 * 8000 : Nat) : Int) } }
    | none => m

/-- Weight W_c of a tile's profile (R382); 0 acts as 1. -/
def Mach.weight (m : Mach) (t c : Nat) : Nat :=
  let prof := (m.rd (LVR_TILE_PROF_PROF (t / 8)) >>> (4 * (t % 8))) % 8
  max 1 ((m.rd (LVR_PROF_W prof) >>> (8 * (c - 1))) % 256)

/-- YELLOW_MULT as it acts (R381). -/
def Mach.yellowMult (m : Mach) : Nat := max 1 (m.rd LVR_CTRL_YELLOW_MULT)

/-- The deficit cell of a port and traffic class; cell 0 holds the class of TC1 to TC6 whose turn it is, cell 7 the cell
times since TC7 was served. -/
def Mach.drr (m : Mach) (p c : Nat) : Nat := SMap.get 0 m.egDrr (p * 8 + c)
def Mach.setDrr (m : Mach) (p c v : Nat) : Mach := { m with egDrr := SMap.set 0 m.egDrr (p * 8 + c) v }

/-- One round of the deficit round-robin among TC1 to TC6 (R381): from the class whose turn it is, the first ready one
whose deficit covers its head's cost; a class that is passed over gains its quantum when its turn comes. -/
def Mach.drrPick (m : Mach) (p : Nat) (cost : Nat → Option Nat) : Nat → Mach × Option Nat
  | 0 => (m, none)
  | fuel + 1 =>
    let c := if m.drr p 0 = 0 then 1 else m.drr p 0
    match cost c with
    | some k =>
      if k ≤ m.drr p c then (m.setDrr p c (m.drr p c - k), some c)
      else
        let c' := if c = 6 then 1 else c + 1
        let m := (m.setDrr p c (m.drr p c + m.weight (tileOf p) c * 64)).setDrr p 0 c'
        m.drrPick p cost fuel
    | none => (m.setDrr p 0 (if c = 6 then 1 else c + 1)).drrPick p cost fuel

/-- The traffic class that an egress port serves next (R381), given each class's ready head and its cost in bytes. -/
def Mach.pickTc (m : Mach) (p : Nat) (cost : Nat → Option Nat) : Mach × Option Nat :=
  let floor := m.rd LVR_CTRL_TC7_FLOOR
  if floor ≠ 0 ∧ (cost 7).isSome ∧ 2 ^ (floor + 4) ≤ m.drr p 7 then (m.setDrr p 7 0, some 7)
  else
    let m := if (cost 7).isSome then m.setDrr p 7 (m.drr p 7 + 1) else m
    if (cost 0).isSome then (m, some 0)
    else if (List.range 6).any fun i => (cost (i + 1)).isSome then
      match m.drrPick p cost 4096 with
      | (m, some c) => (m, some c)
      | (m, none) => (m, (List.range 6).findSome? fun i => (cost (i + 1)).map fun _ => i + 1)
    else if (cost 7).isSome then (m.setDrr p 7 0, some 7)
    else (m, none)

/-! ### Device load (R383) -/

/-- The recorded DevLoad of a port (`LVR_DEVLOAD_STATE`): 0 Light to 3 Severe. -/
def Mach.devLoad (m : Mach) (p : Nat) : Nat := (m.rd (LVR_DEVLOAD_STATE_LOAD (p / 16)) >>> (2 * (p % 16))) % 4

/-- Record a port's DevLoad; the first Severe Overload raises DEVLOAD_SEVERE (R384). -/
def Mach.setDevLoad (m : Mach) (p load : Nat) : Mach :=
  let old := m.devLoad p
  let w := m.rd (LVR_DEVLOAD_STATE_LOAD (p / 16))
  let m := m.wr (LVR_DEVLOAD_STATE_LOAD (p / 16)) (w - old * 4 ^ (p % 16) + load % 4 * 4 ^ (p % 16))
  m.raiseIf (load % 4 = 3 && old != 3) LVR_EVENT_DEVLOAD_SEVERE

/-- The switch's own load for a port, from the egress cells held on its VC1 and VC2 (R383). -/
def Mach.ownLoad (m : Mach) (p : Nat) : Nat :=
  let cells := SMap.get 0 m.egOcc (p * 8 + 1) + SMap.get 0 m.egOcc (p * 8 + 2)
  let md := m.rd LVR_DEVLOAD_CFG_MOD_CELLS
  let sv := m.rd LVR_DEVLOAD_CFG_SEV_CELLS
  let sv := if sv ≤ md then md + 1 else sv
  if cells * 2 < md then 0 else if cells < md then 1 else if cells < sv then 2 else 3

/-- The load that acts on a port: the greater of the two (R383, R384). -/
def Mach.load (m : Mach) (p : Nat) : Nat := max (m.devLoad p) (m.ownLoad p)

end Sys2Proof.Machine
end

