-- ==== Sys2Proof/Machine/ZitchOps.lean ====
section
/-! DEFINITION. Sys2Proof/Machine/ZitchOps.lean: the sending side of a Zitch link as the egress buffer uses it (R143, R147
to R151): the replay buffer and the credit counts. -/
namespace Sys2Proof.Machine

def Mach.z (m : Mach) (p : Nat) : Zx := SMap.get {} m.zx p
def Mach.updZ (m : Mach) (p : Nat) (f : Zx → Zx) : Mach := { m with zx := SMap.set {} m.zx p (f (m.z p)) }

/-- Trained width in lanes. -/
def Mach.zWidth (m : Mach) (p : Nat) : Nat := 2 ^ m.rd (TILE_ZL_STATUS_WIDTH p)

/-- Flits of replay buffer at the trained width (R143). -/
def Mach.zBufSize (m : Mach) (p : Nat) : Nat := 256 * m.zWidth p / 16

/-- A new message may be sent (R143, R150, R156): Z.ACTIVE, room in the replay buffer, no drain and no width change under
way, the partner's initial credits seen. -/
def Mach.zRoom (m : Mach) (p : Nat) : Bool :=
  let z := m.z p
  m.rd (TILE_ZL_STATUS_STATE p) == 5 && z.buf.length < m.zBufSize p && z.drain.isNone && z.initSeen &&
  (match z.doing with | some o => o.kind != 2 | none => true)

/-- Sequence a flit of a TYPE: it takes the next number and stays in the replay buffer (R136, R143). A DATA flit of this
model carries one message (assumption log 12). -/
def Mach.zPut (m : Mach) (p typ : Nat) : Mach :=
  let z := m.z p
  let m := m.updZ p fun z => { z with txSeq := (z.txSeq + 1) % 4096, buf := z.buf ++ [(z.txSeq, typ)] }
  (m.wr (TILE_ZL_STATUS_REPLAY_OCC p) (m.z p).buf.length).send (.zitch p (.flit typ z.txSeq))

/-- Slots first transmitted on a VC (R151). -/
def Mach.zSent (m : Mach) (p v n : Nat) : Mach :=
  m.updZ p fun z => { z with sent := SMap.set 0 z.sent v ((SMap.get 0 z.sent v + n) % 2 ^ 32) }

end Sys2Proof.Machine
end

