-- ==== Sys2Proof/Machine/SwitchOps.lean ====
section
/-! DEFINITION. Sys2Proof/Machine/SwitchOps.lean: the tile slices and the planes (07): tracker entries and their quota
classes, virtual output queues, cells and resequencing, egress buffers, credits, and how a request is answered. -/
namespace Sys2Proof.Machine

/-! ### Tracker entries (R208, R209) -/

/-- Entries a quota class holds in a tile (`TILE_TRK_USE.IN_USE`). -/
def Mach.inUse (m : Mach) (t q : Nat) : Nat := (m.trk.filter fun (k, e) => k / 2048 == t && e.qclass == q).length

/-- Entries in use in a tile. -/
def Mach.trkUsed (m : Mach) (t : Nat) : Nat := (m.trk.filter fun (k, _) => k / 2048 == t).length

/-- A tile's free entry of lowest index. -/
def Mach.freeEntry (m : Mach) (t : Nat) : Option Nat :=
  (List.range 2048).findSome? fun i => if (SMap.find m.trk (t * 2048 + i)).isNone then some (t * 2048 + i) else none

def Mach.qMin (m : Mach) (t q : Nat) : Nat := m.rd (TILE_TRK_QCLASS_MIN t q)
def Mach.qMax (m : Mach) (t q : Nat) : Nat := m.rd (TILE_TRK_QCLASS_MAX t q)

/-- Whether a class may take an entry now (R208). -/
def Mach.mayTake (m : Mach) (t q : Nat) : Bool :=
  let free := 2048 - m.trkUsed t
  let u := m.inUse t q
  if u < m.qMin t q && free > 0 then true
  else
    let others := ((List.range 16).map fun c => if c = q then 0 else m.qMin t c - m.inUse t c).sum
    u < m.qMax t q && free > others

/-- Requests waiting in a class queue. -/
def Mach.waitQ (m : Mach) (t q : Nat) : List Waiting := SMap.get [] m.trkWait (t * 16 + q)

/-- Set a class queue. -/
def Mach.setWaitQ (m : Mach) (t q : Nat) (l : List Waiting) : Mach := { m with trkWait := SMap.set [] m.trkWait (t * 16 + q) l }

/-- The class served next (R209): waiting classes below their MIN in ascending order, then the others round-robin. -/
def Mach.nextClass (m : Mach) (t : Nat) : Option Nat :=
  let ready := fun q => !(m.waitQ t q).isEmpty && m.mayTake t q
  match (List.range 16).find? fun q => ready q && m.inUse t q < m.qMin t q with
  | some q => some q
  | none =>
    let rr := SMap.get 0 m.trkRr t
    ((List.range 16).map fun i => (rr + i) % 16).find? ready

/-- A tracker entry. -/
def Mach.entry (m : Mach) (k : Nat) : Option Trk := SMap.find m.trk k

/-- Write a tracker entry; free one. -/
def Mach.setEntry (m : Mach) (k : Nat) (e : Trk) : Mach := { m with trk := SMap.ins m.trk k e }
def Mach.updEntry (m : Mach) (k : Nat) (f : Trk → Trk) : Mach :=
  match m.entry k with | some e => m.setEntry k (f e) | none => m

/-! ### Ingress slots (R202, R206) -/

/-- Slots that a request occupies (R202): 16 bytes of header, and its data; a partial write's byte mask (R241), an atomic's
operands (R312). -/
def ReqKind.slots (k : ReqKind) (len : Nat) : Nat :=
  match k with
  | .ncWrite full => 1 + (len + 15) / 16 + (if full then 0 else 1)
  | .writeBack _ | .ioWrite => 1 + (len + 15) / 16
  | .atomic op _ _ _ => if op = 9 then 4 else 3
  | _ => 1

def Req.slots (r : Req) : Nat := r.kind.slots r.len

/-- Slots of a response. -/
def Rsp.slots (len : Nat) : Rsp → Nat
  | .data _ _ _ => 1 + (len + 15) / 16
  | _ => 1

/-- Take slots of a receive allocation; return them as credits to the partner (R148, R206). VC 8 stands for a message that
holds no slots. -/
def Mach.ibTake (m : Mach) (p v n : Nat) : Mach :=
  { m with ibuf := SMap.set 0 m.ibuf (p * 8 + v) (SMap.get 0 m.ibuf (p * 8 + v) + n),
           ibTimes := SMap.ins m.ibTimes (p * 8 + v) (SMap.get [] m.ibTimes (p * 8 + v) ++ [(m.now, n)]) }
/-- Slots leave an ingress buffer: those of the oldest message that has as many. -/
def ibDrop (n : Nat) : List (Nat × Nat) → List (Nat × Nat)
  | [] => []
  | x :: rest => if x.2 < n then x :: ibDrop n rest else if x.2 = n then rest else (x.1, x.2 - n) :: rest
def Mach.ibFree (m : Mach) (p v n : Nat) : Mach :=
  if n = 0 ∨ p ≥ 1024 ∨ v ≥ 8 then m
  else
    let l := ibDrop n (SMap.get [] m.ibTimes (p * 8 + v))
    ({ m with ibuf := SMap.set 0 m.ibuf (p * 8 + v) (SMap.get 0 m.ibuf (p * 8 + v) - n),
              ibTimes := SMap.set [] m.ibTimes (p * 8 + v) l }).send (.credit p v n)

/-- The port whose ingress buffer took a request. -/
def ReqSrc.port? : ReqSrc → Option Nat
  | .port p => some p
  | .fabric p _ => some p
  | _ => none

/-- A block of the switch has consumed a request (R206): its slots are free, where no cell of it carries them. -/
def Mach.freeSlots (m : Mach) (r : Req) : Mach :=
  match r.src.port? with | some p => m.ibFree p r.vc r.slots | none => m
def Mach.dropSlots (m : Mach) (k : Nat) : Mach :=
  match m.entry k with
  | some e => if e.held then (m.setEntry k { e with held := false }).freeSlots e.req else m
  | none => m

/-- Free a tracker entry and the device tag it holds (R182, R582). -/
def Mach.freeEntryAt (m : Mach) (k : Nat) : Mach :=
  let m := m.dropSlots k
  { m with trk := SMap.del m.trk k, tags := m.tags.filter fun (_, e) => e / 1024 != k }

/-- Initial credits of a VC at a width (R150). -/
def zInit (v width : Nat) : Nat :=
  let full := [256, 4096, 16384, 4096, 16384, 2048, 2048, 1024]
  full.getD v 0 * width / 16

/-- The receive allocation in force (`TILE_IBUF_CUR`), and as last written (`TILE_IBUF_ALLOC.SLOTS`) (R204). -/
def Mach.ibufCur (m : Mach) (p v : Nat) : Nat := (SMap.find m.ibCur (p * 8 + v)).getD (zInit v (m.portLanes p))
def Mach.ibufAlloc (m : Mach) (p v : Nat) : Nat := (SMap.find m.ibNew (p * 8 + v)).getD (m.ibufCur p v)

/-- Waiting allocations of a port take effect at a full training or link-up (R204). -/
def Mach.ibApply (m : Mach) (p : Nat) : Mach :=
  let mine := fun (e : Nat × Nat) => e.1 / 8 == p
  { m with ibCur := (m.ibNew.filter mine).foldl (fun t (e : Nat × Nat) => SMap.ins t e.1 e.2) m.ibCur,
           ibNew := m.ibNew.filter fun e => !mine e }

/-! ### Egress buffer (R217 to R220) -/

/-- Cells reserved by a (port, VC) pair, by a port, and from the tile's shared pool. -/
def Mach.occ (m : Mach) (p v : Nat) : Nat := SMap.get 0 m.egOcc (p * 8 + v)
def Mach.occPort (m : Mach) (p : Nat) : Nat := ((List.range 8).map (m.occ p)).sum

/-- Ports of a tile. -/
def Mach.tilePorts (m : Mach) (t : Nat) : List Nat := ((List.range 16).map fun o => t * 16 + o).filter m.portExists

/-- The tile's shared pool (R217): 8,192 cells less the sum of MIN over its ports. -/
def Mach.sharedPool (m : Mach) (t : Nat) : Nat :=
  8192 - ((m.tilePorts t).map fun p => ((List.range 8).map fun v => m.rd (TILE_EBUF_VC_MIN p v)).sum).sum

/-- Cells of the shared pool in use. -/
def Mach.sharedUse (m : Mach) (t : Nat) : Nat :=
  ((m.tilePorts t).map fun p => ((List.range 8).map fun v => m.occ p v - m.rd (TILE_EBUF_VC_MIN p v)).sum).sum

/-- egress_admit of R217 for a message of n cells. -/
def Mach.egAdmit (m : Mach) (p v n : Nat) : Bool :=
  if m.occ p v + n ≤ m.rd (TILE_EBUF_VC_MIN p v) then true
  else m.occ p v < m.rd (TILE_EBUF_VC_MAX p v) && m.occPort p < m.rd (TILE_EBUF_PORTMAX_MAX p) &&
       m.sharedUse (tileOf p) + n ≤ m.sharedPool (tileOf p)

def Mach.setOcc (m : Mach) (p v n : Nat) : Mach := { m with egOcc := SMap.set 0 m.egOcc (p * 8 + v) n }

/-- Cells of a message: 8 slots each (R210). -/
def Pkt.cells (k : Pkt) : Nat := (k.slots + 7) / 8

/-- An egress queue (R220). -/
def Mach.egq (m : Mach) (p tc v : Nat) : List Pkt := SMap.get [] m.egress ((p * 8 + tc) * 8 + v)
def Mach.setEgq (m : Mach) (p tc v : Nat) (l : List Pkt) : Mach :=
  { m with egress := SMap.set [] m.egress ((p * 8 + tc) * 8 + v) l }

/-- Link credits toward the partner of a (port, VC) (R220). -/
def Mach.credits (m : Mach) (p v : Nat) : Nat := SMap.get 0 m.linkCr (p * 8 + v)
def Mach.setCredits (m : Mach) (p v n : Nat) : Mach := { m with linkCr := SMap.set 0 m.linkCr (p * 8 + v) n }

/-- Credits that a message costs: its slots on a Zitch link (R148), one message credit of its type elsewhere. -/
def Mach.cost (m : Mach) (k : Pkt) : Nat := if m.isZitch k.port then k.slots else 1

/-- A free device tag of an egress tile (R182). -/
def Mach.freeTag (m : Mach) (t : Nat) : Option Nat :=
  (List.range 8192).find? fun i => (SMap.find m.tags (t * 8192 + i)).isNone

/-- Whether a message needs a device tag: a request to a CXL device that expects a response. -/
def Pkt.needsTag (k : Pkt) : Bool := k.entry.isSome && k.rsp.isNone

/-- Whether a head message may leave now: link credit (R220), its posted stamp (R222), and a device tag (R182). -/
def Mach.txReady (m : Mach) (k : Pkt) : Bool :=
  m.linkUp k.port && m.cost k ≤ m.credits k.port k.vc && (!m.isZitch k.port || m.zRoom k.port) &&
  (match k.stamp with
   | some s => s ≤ SMap.get 0 m.postedTx (tileOf k.port * 1024 + k.srcPort)
   | none => true) &&
  (!k.needsTag || k.posted || (m.freeTag (tileOf k.port)).isSome)

/-- The VC of a class whose head may leave, in round-robin order from VC0 (R220). -/
def Mach.readyVc (m : Mach) (p tc : Nat) : Option Nat :=
  (List.range 8).find? fun v => match m.egq p tc v with | k :: _ => m.txReady k | [] => false

/-- Move a class record one message on, when a message of it has been transmitted (R223). -/
def Mach.classDone (m : Mach) (k : Pkt) : Mach :=
  let key := (k.srcPort * 64 + tileOf k.port) * 8 + k.vc
  let c := SMap.get {} m.classes key
  { m with classes := SMap.set {} m.classes key { c with untx := c.untx - 1 } }

/-- Bytes that a request of a tracker entry moves at its target: a line of a shared region, whatever part of it the request names (R237,
R313, R314); else what the request names. -/
def Trk.devLen (e : Trk) : Nat := if e.x.coh.isSome then 64 else e.req.len

/-- The request that a message carries to its target, as it leaves the port. -/
def Pkt.devMsg (k : Pkt) (len tag : Nat) : Msg :=
  let d := k.dst.getD (k.port, none, 0)
  .devReq d.1 d.2.1 tag k.kind d.2.2 len k.data k.mask k.poison

/-- Transmit one message (R182, R220, R222): credits and egress cells are used up, a request takes its device tag, a
posted request is finished. -/
def Mach.transmit (m : Mach) (k : Pkt) : Mach :=
  let p := k.port
  let m := (m.setCredits p k.vc (m.credits p k.vc - m.cost k)).setOcc p k.vc (m.occ p k.vc - k.cells)
  let m := if m.isZitch p then (m.zPut p 1).zSent p k.vc k.slots else m
  let m := (m.classDone k).count (CNT_TILE (tileOf p) (6 * (p % 16) + 1)) 1
  let m := m.count (CNT_TILE (tileOf p) (6 * (p % 16) + 3)) k.slots
  match k.rsp with
  | some r => m.send (.hostRsp p k.tag r (m.load p))
  | none =>
    match k.entry with
    | none => m
    | some key => match m.entry key with
      | none => m
      | some e =>
        if k.posted then
          let i := tileOf p * 1024 + k.srcPort
          let m := { m with postedTx := SMap.set 0 m.postedTx i (SMap.get 0 m.postedTx i + 1) }
          (m.send (k.devMsg e.devLen 0)).freeEntryAt key
        else
          let tag := (m.freeTag (tileOf p)).getD 0
          let m := { m with tags := SMap.ins m.tags (tileOf p * 8192 + tag) (key * 1024 + p % 1024) }
          (m.setEntry key (if k.spec then { e with specTag := some tag } else e)).send (k.devMsg e.devLen tag)

/-- Send what a port can send now: classes by Louvre's choice, VCs with credit (R220, R381). -/
def Mach.egPump (m : Mach) (p : Nat) : Nat → Mach
  | 0 => m
  | fuel + 1 =>
    let cost := fun tc => (m.readyVc p tc).bind fun v => (m.egq p tc v).head?.map fun k =>
      k.slots * 16 * (if k.colour = 1 then m.yellowMult else 1)
    match m.pickTc p cost with
    | (m', some tc) =>
      match m.readyVc p tc with
      | some v => match m.egq p tc v with
        | k :: rest => ((m'.setEgq p tc v rest).transmit k).egPump p fuel
        | [] => m
      | none => m
    | (_, none) => m

/-- How many messages one command may let a port send: every one that has credit. -/
def pumpFuel : Nat := 64

/-- A message reaches its egress queue; toward a port that is down, a response is discarded and counted (R225), as is a
request that a flush has already answered. -/
def Mach.toEgress (m : Mach) (k : Pkt) : Mach :=
  let gone := match k.entry with | some key => (m.entry key).isNone | none => false
  if (k.rsp.isSome || gone) ∧ !m.linkUp k.port then
    (((m.setOcc k.port k.vc (m.occ k.port k.vc - k.cells)).classDone k).addSat (TILE_FLUSH_COUNT_DISCARDS (tileOf k.port)) 1)
  else (m.setEgq k.port k.tc k.vc (m.egq k.port k.tc k.vc ++ [{ k with t1 := m.now }])).egPump k.port pumpFuel

/-! ### Virtual output queues, cells, resequencing (R207, R210 to R216) -/

/-- Index of a (source tile, destination tile, traffic class). -/
def voqKey (src dst tc : Nat) : Nat := (src * 64 + dst) * 8 + tc
def Mach.voq (m : Mach) (key : Nat) : Voq := SMap.get {} m.voqs key
def Mach.setVoq (m : Mach) (key : Nat) (v : Voq) : Mach := { m with voqs := SMap.set {} m.voqs key v }

/-- Planes in service (`GLB_PLANE_STATUS.IN_SERVICE`). -/
def Mach.planes (m : Mach) : List Nat := (List.range 4).filter fun n => bit (m.rd GLB_PLANE_STATUS_IN_SERVICE) n

/-- The plane that carries the cell with a sequence number: the planes in service in turn. -/
def Mach.planeFor (m : Mach) (s : Nat) : Nat :=
  let l := m.planes
  l.getD (s % l.length) 0

/-- Cut a message into cells (R210): the last one carries its end. -/
def Mach.cut (m : Mach) (k : Pkt) (seq n : Nat) : List Cell :=
  (List.range n).map fun i =>
    let s := (seq + i) % 65536
    { seq := s, plane := m.planeFor s, srcPort := k.srcPort, srcVc := k.srcVc,
      slots := if i + 1 = n then k.slots - 8 * (n - 1) else 8, last := if i + 1 = n then some k else none }

/-- Let a VOQ's messages enter the planes (R212, R213, R216): each sub-queue (port, VC) in order, a head only with egress
admission for the whole message, fewer than 256 cells retained and a bucket that is not empty; a head that must wait
blocks only its own sub-queue. -/
def Mach.voqStep (m : Mach) (key : Nat) : List Pkt → List (Nat × Nat) → List Pkt → Mach × List Pkt
  | [], _, left => (m, left)
  | k :: rest, blocked, left =>
    let v := m.voq key
    let n := k.cells
    if !blocked.contains (k.port, k.vc) && m.egAdmit k.port k.vc n && v.retained.length + n ≤ 256 && m.shapeOk k.shaped
       && !m.planes.isEmpty then
      let cells := m.cut k v.nextSeq n
      let m := m.setVoq key { v with nextSeq := (v.nextSeq + n) % 65536, retained := v.retained ++ cells }
      let m := (m.setOcc k.port k.vc (m.occ k.port k.vc + n)).shapeTake k.shaped k.slots
      let m := m.count (CNT_TILE (key / 512) 100) n
      m.voqStep key rest blocked left
    else m.voqStep key rest ((k.port, k.vc) :: blocked) (left ++ [k])

/-- Pump one VOQ. -/
def Mach.voqPump (m : Mach) (key : Nat) : Mach :=
  let (m, left) := m.voqStep key (m.voq key).q [] []
  let v := m.voq key
  m.setVoq key { v with q := left }

/-- Pump every VOQ that holds a message, lowest first: the egress space that one event frees may serve any of them
(R224). -/
def Mach.pumpAll (m : Mach) : Mach := (m.voqs.filter fun (_, v) => !v.q.isEmpty).foldl (fun m (k, _) => m.voqPump k) m

/-- A port sends what it can, and the space that this frees is used (R224). -/
def Mach.serve (m : Mach) (p : Nat) : Mach := (m.egPump p pumpFuel).pumpAll

/-- The source port of a message for ordering (R221): agents count as the agent port of their tile, 1024 + tile. -/
def agentPort (t : Nat) : Nat := 1024 + t

/-- Join the VOQ, after the class record has admitted the message (R223). -/
def Mach.joinVoq (m : Mach) (src : Nat) (k : Pkt) : Mach :=
  let key := voqKey src (tileOf k.port) k.tc
  let v := m.voq key
  (m.setVoq key { v with q := v.q ++ [k] }).voqPump key

/-- A message enters the switch toward its egress port: the posted stamp (R222) and the class record (R223). -/
def Mach.enter (m : Mach) (src : Nat) (k : Pkt) (stamped : Bool) : Mach :=
  let pk := k.srcPort * 64 + tileOf k.port
  let sent := SMap.get 0 m.postedSent pk
  let k := if stamped then { k with stamp := some sent } else k
  let m := if k.posted then { m with postedSent := SMap.set 0 m.postedSent pk (sent + 1) } else m
  let key := pk * 8 + k.vc
  let c := SMap.get {} m.classes key
  if !c.fence.isEmpty || (c.untx > 0 && c.tc != k.tc) then
    { m with classes := SMap.set {} m.classes key { c with fence := c.fence ++ [k] } }
  else
    ({ m with classes := SMap.set {} m.classes key { c with tc := k.tc, untx := c.untx + 1 } }).joinVoq src k

/-- CLASS_FENCE_RELEASE (R223): the earlier class has nothing untransmitted left, so the waiting messages are admitted in
order, up to the next change of class. -/
def Mach.fenceRelease (m : Mach) (src key : Nat) : List Pkt → Mach
  | [] => m
  | k :: rest =>
    let c := SMap.get {} m.classes key
    if c.untx > 0 && c.tc != k.tc then m
    else
      let m := { m with classes := SMap.set {} m.classes key { tc := k.tc, untx := c.untx + 1, fence := rest } }
      (m.joinVoq src k).fenceRelease src key rest

/-! ### Answers -/

/-- A generation discard (R350): counted, never delivered. -/
def Mach.genDiscard (m : Mach) (d t : Nat) : Mach := (m.count (CNT_DOM d 12) 1).count (CNT_TILE t 104) 1

/-- The VC of a response (R203). -/
def Rsp.vc : Rsp → Nat
  | .data _ _ _ => 4
  | _ => 3

/-- Whether a request expects data (R225, R243). -/
def ReqKind.expectsData : ReqKind → Bool
  | .readShared | .readOwn | .ncRead | .ioRead | .atomic _ _ _ _ => true
  | .otherM2S d | .cacheMsg d => d
  | _ => false

/-- Whether an atomic's operation and size are in R310. -/
def atomicSupported (op size : Nat) : Bool := (op ≤ 9 && (size == 4 || size == 8)) || (op == 9 && size == 16)

/-- The response of a flush, a refusal or a timeout by the form of the request (R225, R340, R581, R633): io is what a
CXL.io non-posted request gets. -/
def Req.failRsp (r : Req) (io : Rsp) : Rsp :=
  if r.zitch then (if r.kind = .biConflict then .biConflictAck else .zPoison)
  else match r.kind with
    | .ioRead | .ioWrite | .atomic _ _ _ _ => io
    | .biConflict => .biConflictAck
    | k => if k.expectsData then .data 0 true 0 else .cmp 0

/-- Poison that came from a device reaches a requester (R584): its domain's first-error record is filled. -/
def Mach.devPoison (m : Mach) (d p a : Nat) : Mach :=
  m.firstError d { cls := .contained, block := 1, code := 2, port := some p, dom := some d, addr := a } 0xFFFFFFFF

/-- Answer a tracker entry's requester (R26, R225, R227, R350): an internal agent takes the answer from agentDone; a port's
goes through the planes from the tile `from_`, or, synthesised by the switch, straight into the egress buffer (R219). An
answer of an old generation, or toward a port that went down, is discarded and counted; a request that has its answer gets
no other (R582). On a CXL port an NDR goes beside the data of a shared line, and where the opcode expects one (R241, R633). -/
def Mach.answer (m : Mach) (key : Nat) (r : Rsp) (why : EndWhy) (from_ : Option Nat) : Mach :=
  match m.entry key with
  | none => m
  | some e =>
    if e.answered then m
    else
    let m := (m.setEntry key { e with answered := true }).dropSlots key
    if e.gen != (m.dom e.dom).gen then m.genDiscard e.dom (key / 2048)
    else
      let m := match r with | .data _ false _ => m.count (CNT_DOM e.dom 1) e.req.len | _ => m
      let m := match r with
        | .data _ true _ => if why = .real && !e.synth then m.devPoison e.dom e.x.port e.req.addr else m
        | _ => m
      let put := fun (p : Nat) (r : Rsp) (m : Mach) =>
        let k : Pkt := { port := p, vc := r.vc, tc := e.tc, slots := r.slots e.req.len, srcPort := agentPort (key / 2048),
                         srcVc := 8, rsp := some r, tag := e.req.tag, t0 := e.t0 }
        match from_ with
        | some t => m.enter t { k with srcPort := e.x.port } (match e.req.kind with | .ioRead => true | _ => false)
        | none => (m.setOcc p k.vc (m.occ p k.vc + k.cells)).toEgress k
      let io := match e.req.kind with | .ioRead | .atomic _ _ _ _ => true | _ => false
      let toPort := fun (p : Nat) =>
        if e.orphan then m.addSat (TILE_FLUSH_COUNT_DISCARDS (tileOf p)) 1
        else match r with
          | .data _ _ g => if !e.req.zitch && (e.x.coh.isSome || e.req.bothRsp) && !io
                           then put p (.cmp g) (put p r m) else put p r m
          | _ => put p r m
      match e.req.src with
      | .port p => toPort p
      | .fabric p _ => toPort p
      | s => { m with agentDone := m.agentDone ++ [{ src := s, addr := e.req.addr, rsp := r, why := why }] }

/-! ### Requests toward devices -/

/-- How a device sees a request (R246, R300). -/
def ReqKind.atDevice : ReqKind → ReqKind
  | .readShared | .readOwn | .upgrade => .ncRead
  | .writeBack _ => .ncWrite true
  | k => k

/-- Whether a device request writes. -/
def ReqKind.writes : ReqKind → Bool
  | .ncWrite _ | .writeBack _ | .ioWrite => true
  | _ => false

/-- Send a request of a tracker entry to one target (R25 steps 5 to 7). -/
def Mach.issueTo (m : Mach) (key : Nat) (e : Trk) (port : Nat) (ld : Option Nat) (dpa : Nat) (kind : ReqKind)
    (data mask : Nat) (poison spec : Bool) : Mach :=
  let t := key / 2048
  let sp := match e.req.src with | .port p => p | .fabric p _ => p | _ => agentPort t
  let keeps := match e.req.kind with | .writeBack _ | .cleanEvict | .biConflict => true | _ => false
  let vc := if kind.writes then (if kind = .ioWrite then e.req.vc else 2) else if e.req.vc = 2 then 1 else e.req.vc
  let vc := if e.scavenger then 7 else vc
  let slots := kind.slots e.devLen
  let (c, tc, m) := m.colour e.dom port vc e.tc 0 slots keeps
  -- the first message of the request carries its slots, unless what is sent is no longer the request as it came
  let carries := e.held && slots == e.req.slots && !spec
  let m := if e.held && !spec && !carries then m.freeSlots e.req else m
  let k : Pkt := { port := port, vc := vc, tc := tc, slots := slots, srcPort := sp, srcVc := if carries then e.req.vc else 8,
                   posted := kind = .ioWrite, entry := some key, kind := kind, dst := some (port, ld, if e.x.coh.isSome then dpa / 64 * 64 else dpa), data := data,
                   mask := mask, poison := poison, spec := spec, colour := c, shaped := m.shaper e.dom port, t0 := e.t0 }
  let m := m.setEntry key { e with tc := tc, held := e.held && spec, outs := if spec || k.posted then e.outs else e.outs ++ [port] }
  let m := if kind.writes then m.count (CNT_DOM e.dom 2) e.devLen else m
  m.enter t k (e.req.kind = .ioRead)

/-- The targets of an access (R331, R333, R336): the translation's own; for a write to a mirror pair, each member that
takes it, or none yet where its chunk is at the cursor. The Bool says that the write waits. -/
def Mach.targets (m : Mach) (x : Xlat) (wr : Bool) : Bool × List (Nat × Option Nat × Nat) :=
  match x.pair, wr with
  | some i, true =>
    let p := m.mirPair i
    let off := x.dpa - (p.mem x.member).dpaBase
    let at_ := fun (j : Nat) => let b := p.mem j; (b.port, (if b.mld then some b.ld else none), b.dpaBase + off)
    let resync := p.st0 = .resync || p.st1 = .resync
    if resync && p.cursor * 4096 ≤ off && off < p.cursor * 4096 + 4096 then (true, [])
    else (false, ((List.range 2).filter fun j =>
      p.st j = .inSync || (p.st j = .resync && off < p.cursor * 4096)).map at_)
  | _, _ => (false, [(x.port, x.ld, x.dpa)])

/-- Send a request of a tracker entry to its target or targets. A write to the chunk at a mirror cursor waits (R336); a
pair without a member left answers as a down port does (R334). -/
def Mach.issue (m : Mach) (key : Nat) (kind : ReqKind) (data mask : Nat) (poison spec : Bool) : Mach :=
  match m.entry key with
  | none => m
  | some e =>
    match m.targets e.x kind.writes with
    | (true, _) => { m with mirWait := m.mirWait ++ [{ key := key, kind := kind, data := data, mask := mask, poison := poison }] }
    | (false, []) => m.setEntry key { e with synth := true,
                                             arrived := e.arrived ++ [if kind.writes then .cmp 0 else .data 0 true 0] }
    | (false, l) => l.foldl (fun m (p, ld, dpa) =>
        match m.entry key with
        | some e => m.issueTo key e p ld dpa kind data mask poison spec
        | none => m) m

/-- Writes that waited at a mirror cursor go out, as far as they wait no more (R336). -/
def Mach.mirRelease (m : Mach) : Mach :=
  m.mirWait.foldl (fun (m : Mach) (w : MirWait) => m.issue w.key w.kind w.data w.mask w.poison false) { m with mirWait := [] }

/-- Send a tracker entry's own request to its target. -/
def Mach.forward (m : Mach) (key : Nat) : Mach :=
  match m.entry key with
  | none => m
  | some e => (m.setEntry key { e with phase := .atTarget }).issue key e.req.kind.atDevice e.req.data e.req.mask e.req.poison false

/-- A finished entry is freed, or stays until its discarded speculative read has returned (R182, R303). -/
def Mach.release (m : Mach) (key : Nat) : Mach :=
  match m.entry key with
  | none => m
  | some e => if e.specTag.isSome then m.setEntry key { e with phase := .draining } else m.freeEntryAt key

/-- The tile slice through which a source enters (R16, R17): a port's own tile; for a thread ⌊core × 2⌋ + (thread mod 2);
for the copy engine that of the chunk's destination (R432); for other agents that of the port they reach. -/
def Req.tile (r : Req) (dst : Nat) : Nat :=
  match r.src with
  | .port p => tileOf p
  | .fabric p _ => tileOf p
  | .thread th => th / 8 * 2 + th % 8 % 2
  | .copy _ t => t
  | _ => tileOf dst

end Sys2Proof.Machine
end

