-- ==== Sys2Proof/Machine/PrivetOps.lean ====
section
/-! DEFINITION. Sys2Proof/Machine/PrivetOps.lean: Privet (08 to 10): its two tiers, summary and change ring, the busy-line
table, snoops, tenures, flows and their ends, lost lines, the speculation gate, atomics. -/
namespace Sys2Proof.Machine

/-! ### Lines and the tiers (R235, R254 to R265) -/

/-- A line: hedgerow × 2^48 + coherence address [53:6] (R235). -/
def lineKey (hr a : Nat) : Nat := hr * 2 ^ 48 + a / 64 % 2 ^ 48

def keyHr (k : Nat) : Nat := k / 2 ^ 48 % 4
def keyLine (k : Nat) : Nat := k % 2 ^ 48

/-- The line of a tracker entry's translation. -/
def Xlat.line (x : Xlat) : Nat := lineKey x.hedge (x.coh.getD 0)

/-- Tier-1 set (R255). -/
def t1Set (k : Nat) : Nat := (keyLine k % 2 ^ 18) ^^^ (keyHr k <<< 16)

/-- The 8 bytes that the hashes read (R258). -/
def keyBytes (k : Nat) : List Byte := leBytes 8 ((keyHr k <<< 48) ||| keyLine k)

/-- Whether there is a tier 2 (R257). -/
def Mach.t2On (m : Mach) : Bool := m.rd PVT_T2_CFG_LOG2_ENTRIES ≥ 2

/-- A line's bucket (R258). -/
def Mach.bucket (m : Mach) (k : Nat) : Nat := (crc32c (keyBytes k)).toNat % 2 ^ (m.rd PVT_T2_CFG_LOG2_ENTRIES - 2)

/-- The four counters of a line (R262). -/
def sumIdx (k : Nat) : List Nat :=
  let x := (crc32c (keyBytes k)).toNat
  let y := (crc32cFrom (~~~(0x5A5A5A5A : BitVec 32)) (keyBytes k)).toNat
  (List.range 4).map fun i => (x + i * y) % 2 ^ 24

def Mach.sumAt (m : Mach) (i : Nat) : Nat := SMap.get 0 m.summary i
def Mach.sumSet (m : Mach) (i v : Nat) : Mach := { m with summary := SMap.set 0 m.summary i v }

/-- Saturated counters (`PVT_SUM_SAT.COUNT`). -/
def Mach.sumSat (m : Mach) : Nat := (m.summary.filter fun (_, v) => v == 15).length

/-- Whether the summary reports an entry for a line (R262, R263). -/
def Mach.sumHit (m : Mach) (k : Nat) : Bool := m.rebuilding || (sumIdx k).all fun i => m.sumAt i != 0

/-- Start a summary rebuild (R263): a start during one is ignored. The counters of a running rebuild stand for the part
of the walk already done; REBUILD_DONE leaves them as the whole walk does. -/
def Mach.rebuild (m : Mach) : Mach := if m.rebuilding then m else { m with rebuilding := true, summary := [] }

/-- An insertion into tier 2 raises the line's counters (R263). -/
def Mach.sumInc (m : Mach) (k : Nat) : Mach :=
  if m.rebuilding then m
  else
    let m := (sumIdx k).foldl (fun m i => if m.sumAt i < 15 then m.sumSet i (m.sumAt i + 1) else m) m
    if m.sumSat > m.rd PVT_SUM_CFG_REBUILD_AT then m.rebuild else m

/-- A removal or promotion lowers them (R263). -/
def Mach.sumDec (m : Mach) (k : Nat) : Mach :=
  if m.rebuilding then m
  else (sumIdx k).foldl (fun m i => if m.sumAt i < 15 then m.sumSet i (m.sumAt i - 1) else m) m

/-- The tier-1 place of a line. -/
def Mach.t1Find (m : Mach) (k : Nat) : Option (Nat × PvtEnt) := m.t1.find? fun (_, e) => e.key == k

/-- The tier-2 place of a line. -/
def Mach.t2Find (m : Mach) (k : Nat) : Option (Nat × PvtEnt) := m.t2.find? fun (_, e) => e.key == k

/-- Entries of a hedgerow in tier 1 and tier 2 (`PVT_HR_USE`). -/
def Mach.hrT1 (m : Mach) (h : Nat) : Nat := (m.t1.filter fun (_, e) => keyHr e.key == h).length
def Mach.hrT2 (m : Mach) (h : Nat) : Nat := (m.t2.filter fun (_, e) => keyHr e.key == h).length

/-- Take an entry out of tier 2. -/
def Mach.t2Del (m : Mach) (i k : Nat) : Mach := ({ m with t2 := SMap.del m.t2 i }).sumDec k

/-- Put an entry into tier 2. -/
def Mach.t2Put (m : Mach) (i : Nat) (e : PvtEnt) : Mach := ({ m with t2 := SMap.ins m.t2 i { e with age := 0 } }).sumInc e.key

/-! ### The change ring (R291, R292) -/

/-- The ring's capacity. -/
def ringSize : Nat := 523776

def Mach.ringFull (m : Mach) : Bool := m.ring.length ≥ ringSize

def Mach.ringPut (m : Mach) (r : RingRec) : Mach := { m with ring := m.ring ++ [r] }

/-- A change of a set other than an allocation: recorded once per change bit. -/
def Mach.ringChange (m : Mach) (set : Nat) : Mach :=
  if m.changed.contains set then m else { m with changed := m.changed ++ [set], ring := m.ring ++ [.changed set] }

/-! ### Members (R234, R236, R283) -/

/-- Departed members of a hedgerow, as a mask (R283). -/
def Mach.departed (m : Mach) (h : Nat) : Nat := m.rd (PVT_HR_DEPARTED_MASK h)

/-- The valid member that a requester is, in a hedgerow (R234, R237). -/
def Mach.memberOf (m : Mach) (h : Nat) (src : ReqSrc) : Option Nat :=
  let is := fun kind id => (List.range 64).find? fun i =>
    m.flag (PVT_MEMBER_VALID h i) && m.flag (PVT_MEMBER_KIND h i) == kind && m.rd (PVT_MEMBER_ID h i) == id
  match src with
  | .port p => is false p
  | .fabric _ fid => is true fid
  | _ => none

/-- The upstream port of a member; a fabric ID is reached over the Zitch port that its requests came through, which the
model does not follow: none. -/
def Mach.memberPort (m : Mach) (h i : Nat) : Option Nat :=
  if m.flag (PVT_MEMBER_KIND h i) then none else some (m.rd (PVT_MEMBER_ID h i))

/-- A member's link is up. -/
def Mach.memberUp (m : Mach) (h i : Nat) : Bool := match m.memberPort h i with | some p => m.linkUp p | none => true

/-- The members that a snoop of the whole hedgerow goes to (R293, R577): valid and not departed. -/
def Mach.allMembers (m : Mach) (h : Nat) : Nat :=
  ((List.range 64).map fun i => if m.flag (PVT_MEMBER_VALID h i) && !bit (m.departed h) i then 1 <<< i else 0).sum

/-- The host domain of a member (R286). -/
def Mach.memberDom (m : Mach) (h i : Nat) : Nat :=
  if m.flag (PVT_MEMBER_KIND h i) then (SMap.find m.domFabric (m.rd (PVT_MEMBER_ID h i))).getD 0
  else (m.portDom (m.rd (PVT_MEMBER_ID h i))).getD 0

/-! ### A line's entry -/

def Mach.line (m : Mach) (k : Nat) : Option Line := SMap.find m.lines k
def Mach.setLine (m : Mach) (k : Nat) (l : Line) : Mach := { m with lines := SMap.ins m.lines k l }
def Mach.updLine (m : Mach) (k : Nat) (f : Line → Line) : Mach :=
  match m.line k with | some l => m.setLine k (f l) | none => m

/-- The line's entry, wherever it is, as it stands. -/
def Mach.rawEnt (m : Mach) (k : Nat) : Option PvtEnt :=
  match (m.line k).bind (·.held) with
  | some e => some e
  | none => match m.t1Find k with
    | some (_, e) => some e
    | none => (m.t2Find k).map (·.2)

/-- The line's entry as a lookup reads it: departed members masked out of PRESENCE (R283). -/
def Mach.ent (m : Mach) (k : Nat) : Option PvtEnt :=
  match m.rawEnt k with
  | some e => let p := e.pres &&& (2 ^ 64 - 1 - m.departed (keyHr k)); if p = 0 then none else some { e with pres := p }
  | none => none

/-- The line is held Modified by a departed member, whose walk has still to reach it (R287). -/
def Mach.deadOwned (m : Mach) (k : Nat) : Bool :=
  match m.rawEnt k with
  | some e => e.m && e.pres &&& (2 ^ 64 - 1 - m.departed (keyHr k)) == 0
  | none => false

/-- Members of a mask. -/
def members (mask : Nat) : List Nat := (List.range 64).filter (bit mask)

/-- The owner of a line held in M. -/
def PvtEnt.owner (e : PvtEnt) : Nat := ((List.range 64).find? (bit e.pres)).getD 0

/-- Set a line's state (R250, R284): PRESENCE without departed members; in tier 1 the entry is rewritten or freed; an
entry that is in no tier yet waits with the line for a tier-1 way. -/
def Mach.putEnt (m : Mach) (k : Nat) (isM : Bool) (pres : Nat) : Mach :=
  let pres := pres &&& (2 ^ 64 - 1 - m.departed (keyHr k))
  match m.t1Find k with
  | some (i, e) =>
    let m := m.ringChange (t1Set k)
    if pres = 0 then { m with t1 := SMap.del m.t1 i } else { m with t1 := SMap.ins m.t1 i { e with m := isM, pres := pres } }
  | none =>
    m.updLine k fun l => { l with held := if pres = 0 then none else some { key := k, m := isM, pres := pres } }

/-- AGE of a set on a hit or an allocation (R255). -/
def Mach.touch (m : Mach) (set way oldAge : Nat) : Mach :=
  { m with t1 := m.t1.map fun (i, e) =>
      if i / 16 = set then
        if i % 16 = way then (i, { e with age := 0 })
        else if e.age < oldAge then (i, { e with age := min 15 (e.age + 1) }) else (i, e)
      else (i, e) }

/-- Take a line for a flow (R244, R301): its busy-line entry, one more flow start of its set, a tier-1 hit's AGE, a tier-2
hit's entry out of tier 2. -/
def Mach.takeLine (m : Mach) (k : Nat) (b : FlowBy) : Mach :=
  let old := m.line k
  let set := t1Set k
  let m := { m with flowCnt := SMap.set 0 m.flowCnt set ((SMap.get 0 m.flowCnt set + 1) % 131072) }
  let (m, held) := match m.t1Find k with
    | some (i, e) => (m.touch set (i % 16) e.age, none)
    | none => match m.t2Find k with
      | some (i, e) => (m.t2Del i k, some e)
      | none => (m, none)
  let held := match old.bind (·.held) with | some e => some e | none => held
  m.setLine k { by_ := b, held := held, queue := match old with | some l => l.queue | none => [] }

/-! ### Snoops (R236, R242, R278, R289) -/

/-- The domain for whose request a line's flow runs. -/
def Mach.flowDom (m : Mach) (l : Line) : Option Nat :=
  match l.by_ with | .entry k => (m.entry k).map (·.dom) | .evict => none

/-- Transmit a snoop, and count it (R508, R511). -/
def Mach.snoopOut (m : Mach) (k g : Nat) (inv : Bool) : Mach :=
  let h := keyHr k
  let m := m.count (CNT_PVT h (if inv then 6 else 7)) 1
  let m := match (m.line k).bind m.flowDom with | some d => m.count (CNT_DOM d 7) 1 | none => m
  m.send (.biSnp h g ((keyLine k * 64 + m.rd (PVT_MEMBER_BIAS_HPA_BIAS h g)) % 2 ^ 64) inv)

/-- Snoop a member: the snoop waits for the member's tenure (R278) or its link (R289), or leaves now. -/
def Mach.snoop (m : Mach) (k g : Nat) (inv : Bool) : Mach :=
  let st : SnoopSt := if m.tenures.contains (k * 64 + g) then .tenure else if !m.memberUp (keyHr k) g then .down else .sent
  let m := m.updLine k fun l => { l with snoops := SMap.ins l.snoops g { inv := inv, st := st } }
  if st = .sent then m.snoopOut k g inv else m

/-- Snoop every member of a mask. -/
def Mach.snoopAll (m : Mach) (k mask : Nat) (inv : Bool) : Mach := (members mask).foldl (fun m g => m.snoop k g inv) m

/-- A grant of S or M starts a tenure (R278, R279). -/
def Mach.startTenure (m : Mach) (k h : Nat) : Mach :=
  if m.rd (PVT_HR_PROG_TENURE (keyHr k)) = 0 || m.tenures.contains (k * 64 + h) then m
  else { m with tenures := m.tenures ++ [k * 64 + h] }

/-! ### The speculation gate and its monitor (R298 to R308) -/

/-- Whether speculation is on for a domain. -/
def Mach.specOn (m : Mach) (d : Nat) : Bool := !bit (m.rd (LVR_SPEC_STATE_OFF (d / 32))) (d % 32)

/-- Whether a request is one that R298 speculates, speculation on. -/
def Trk.eligibleKind (e : Trk) : Bool :=
  e.x.coh.isSome && e.x.spec && match e.req.kind with | .readShared | .readOwn | .ncRead => true | _ => false

/-- Discard a speculative read (R303): counted; its data is dropped, now or when it arrives. -/
def Mach.specDrop (m : Mach) (key : Nat) : Mach :=
  match m.entry key with
  | none => m
  | some e =>
    if e.gate = .closed ∨ e.gate = .opened then
      ((m.setEntry key { e with gate := .discarded, buf := none }).count (CNT_DOM e.dom 6) 1).count (CNT_PVT e.x.hedge 5) 1
    else m

/-- 65,536 CORE cycles in nanoseconds, rounded down (R301). -/
def specLimit : Nat := 43690

/-- The lookup's verdict on a speculative read (R301, R305, R306): idle says that the line had no flow and that this
request is the one taken first. -/
def Mach.judge (m : Mach) (key : Nat) (idle : Bool) : Mach :=
  match m.entry key with
  | none => m
  | some e =>
    if !e.eligible then m
    else
      let k := e.x.line
      let ok := idle && SMap.get 0 m.flowCnt (t1Set k) == e.cnt0 && m.now - e.time0 ≤ specLimit &&
        (match m.ent k with | some x => !x.m | none => true) && !m.deadOwned k
      let m := if m.flag LVR_SPEC_CFG_ADAPT_EN then
          let w := SMap.get {} m.specWin e.dom
          let w : SpecWin := { eligible := w.eligible + 1, conflicts := w.conflicts + (if ok then 0 else 1) }
          { m with specWin := SMap.set {} m.specWin e.dom w }
        else m
      if e.gate = .closed then
        if ok && e.gen == (m.dom e.dom).gen then m.updEntry key fun e => { e with gate := .opened } else m.specDrop key
      else m

/-! ### Lost lines (R286, R289, R290) -/

/-- Entries of the lost-line log: 0 where it is off. -/
def Mach.lostSize (m : Mach) : Nat :=
  let n := m.rd PVT_LOST_CFG_LOG2_ENTRIES
  if 8 ≤ n && n ≤ 20 then 2 ^ n else 0

/-- Write a record to the lost-line log, or count it as dropped (R290). -/
def Mach.lostLog (m : Mach) (rec : List Byte) : Mach :=
  let n := m.lostSize
  let fill := (m.rd PVT_LOST_HEAD_COUNT + 2 ^ 32 - m.rd PVT_LOST_TAIL_COUNT) % 2 ^ 32
  if n = 0 then m
  else if fill ≥ n then (m.addSat PVT_LOST_DROP_COUNT 1).raise PVT_LOSS_EVENT_LOST_FULL
  else
    let at_ := m.rd PVT_LOST_BASE_BASE * 32 + 32 * (m.rd PVT_LOST_HEAD_COUNT % n)
    ({ m with ddr := Mem.writeBytes m.ddr at_ rec }).add PVT_LOST_HEAD_COUNT 1

/-- The poison write of a lost line (R286): checked against the member's host domain, then D0; both members of a mirror
pair. The values are the DPA and port of the record, POISON_FAILED and MIRROR. -/
def Mach.poisonLine (m : Mach) (k g : Nat) : Mach × Nat × Nat × Bool × Bool :=
  let h := keyHr k
  let hpa := (keyLine k * 64 + m.rd (PVT_MEMBER_BIAS_HPA_BIAS h g)) % 2 ^ 64
  let d := m.memberDom h g
  match m.check d true { wr := true } hpa 64 with
  | .refuse a c s =>
    (m.violation d { addr := a, source := 0x8003, kind := 0, cause := c, access := 2, slot := s }, 0, 0xFFFF, true, false)
  | .allow x =>
    let l := (m.targets x true).2
    let up := l.filter fun t => m.linkUp t.1
    let m := up.foldl (fun m (p, ld, dpa) => m.send (.poisonWrite p ld dpa)) m
    (m, x.dpa, x.port, up.length < l.length || l.isEmpty, x.pair.isSome)

/-- A line that a member held Modified is lost (R286): poison is written, the line is I, the log has its record. -/
def Mach.lineLost (m : Mach) (k g cause : Nat) : Mach :=
  let h := keyHr k
  let d := m.memberDom h g
  let (m, dpa, port, failed, mir) := m.poisonLine k g
  let rec_ := leBytes 8 (keyLine k * 64 + h * 2 ^ 54 + g * 2 ^ 56) ++ leBytes 8 m.tbNs ++ leBytes 8 dpa ++ leBytes 2 port ++
    leBytes 1 cause ++ leBytes 1 ((if failed then 1 else 0) + (if mir then 2 else 0)) ++ leBytes 2 d ++ leBytes 2 (m.dom d).gen
  let m := ((m.lostLog rec_).raise PVT_LOSS_EVENT_LINE_LOST).count (CNT_PVT h 18) 1
  let m := match m.t1Find k with
    | some (i, _) => { (m.ringChange (t1Set k)) with t1 := SMap.del m.t1 i }
    | none => match m.t2Find k with
      | some (i, _) => m.t2Del i k
      | none => m
  m.updLine k fun l => { l with held := none }

/-! ### Atomics (R309 to R318) -/

/-- One operation of R310 on an old value of size bytes: the new value, and whether the line is written. -/
def atomicNew (op size old a b : Nat) : Nat × Bool :=
  let w := 8 * size
  let r := 2 ^ w
  let a := a % r
  match op with
  | 0 => ((old + a) % r, true)
  | 1 => (old &&& a, true)
  | 2 => (old ||| a, true)
  | 3 => (old ^^^ a, true)
  | 4 => (if sext a w < sext old w then a else old, true)
  | 5 => (if sext old w < sext a w then a else old, true)
  | 6 => (min old a, true)
  | 7 => (max old a, true)
  | 8 => (a, true)
  | _ => if old = a then (b % r, true) else (old, false)

/-- n bytes of a line at an offset; the line with them replaced. -/
def lineGet (data off n : Nat) : Nat := data / 2 ^ (8 * off) % 2 ^ (8 * n)
def linePut (data off n v : Nat) : Nat :=
  data - lineGet data off n * 2 ^ (8 * off) + v % 2 ^ (8 * n) * 2 ^ (8 * off)

/-- Bytes of a write laid over a line by its byte mask (R246). -/
def lineMerge (old new mask : Nat) : Nat :=
  (List.range 64).foldl (fun d i => if bit mask i then linePut d i 1 (lineGet new i 1) else d) old

/-- The refusal of an atomic whose operand line is poisoned, by its source (R318). -/
def Req.poisonRsp (r : Req) : Rsp := if r.zitch then .zPoison else .data 0 true 0

/-- Perform an atomic of a tracker entry on its line's buffer, which the entry `holder` keeps (R313, R314, R316, R318): the
write is issued first, then the completion is queued. -/
def Mach.atomicDo (m : Mach) (k key holder : Nat) : Mach :=
  match m.line k, m.entry key with
  | some l, some e =>
    match e.req.kind, l.data with
    | .atomic op size a b, some (d, poisoned) =>
      if poisoned then m.answer key e.req.poisonRsp .real (some (key / 2048))
      else if e.answered then m
      else
        let off := e.req.addr % 64
        let old := lineGet d off size
        let (new, wr) := atomicNew op size old a b
        let d' := if wr then linePut d off size new else d
        let m := m.setLine k { l with data := some (d', false) }
        let m := if wr then m.issue holder (.ncWrite true) d' (2 ^ 64 - 1) false false else m
        let m := (m.count (CNT_DOM e.dom 8) 1).count (CNT_PVT (keyHr k) 15) 1
        m.answer key (.data old false 0) .real (some (key / 2048))
    | _, _ => m
  | _, _ => m

/-! ### Losses and escalation (R280) -/

/-- A request counts a loss; past STARVE_LIMIT it is escalated, which ends an atomic hold of its line (R315). -/
def Mach.loss (m : Mach) (key : Nat) : Mach :=
  match m.entry key with
  | none => m
  | some e =>
    let h := e.x.hedge
    let m := m.setEntry key { e with losses := e.losses + 1 }
    if e.escalated || e.losses + 1 ≤ max 1 (m.rd (PVT_HR_PROG_STARVE_LIMIT h)) then m
    else
      let m := (m.updEntry key fun e => { e with escalated := true }).raise PVT_LOSS_EVENT_STARVE
      (m.count (CNT_PVT h 17) 1).updLine e.x.line fun l => { l with hold := false }

/-! ### Flows (R245 to R250) -/

/-- The grant that goes with an answer: none where the data was synthesised or the request already timed out (R633). -/
def Trk.grant (e : Trk) (g : Nat) : Nat := if e.synth || e.answered then 0 else g

/-- The flow's request has its answer; the entry is freed unless writes or an atomic hold keep it. -/
def Mach.finishAnswer (m : Mach) (k key : Nat) (r : Rsp) (keep : Bool) : Mach :=
  let m := (m.answer key r .real (some (key / 2048))).updLine k fun l => { l with done := true }
  if keep then m.updEntry key fun e => { e with phase := .writing } else m.release key

/-- Issue the write of a write-back that its flow took as the data of record (R247, R274). -/
def Mach.writeRecord (m : Mach) (k : Nat) : Mach :=
  match (m.line k).bind (·.wb) with
  | none => m
  | some (_, wk) => match m.entry wk with
    | none => m
    | some we => m.issue wk (.ncWrite true) we.req.data (2 ^ 64 - 1) we.req.poison false

/-- The flow ends with these results: snoops and data are there (R245 to R247, R313). -/
def Mach.flowFinish (m : Mach) (k : Nat) (l : Line) : Mach :=
  match l.by_ with
  | .evict =>
    -- R260, R293: write-back data is written; the line ends in I, in both tiers.
    let m := (m.writeRecord k).updLine k fun l => { l with held := none, done := true }
    let m := match m.t1Find k with | some (i, _) => { m with t1 := SMap.del m.t1 i } | none => m
    let m := match m.t2Find k with | some (i, _) => m.t2Del i k | none => m
    { m with toEvict := m.toEvict.filter (· != k),
             recover := (m.recover.map fun (s, ks) => (s, ks.filter (· != k))).filter fun (_, ks) => !ks.isEmpty }
  | .entry key =>
    match m.entry key with
    | none => m.updLine k fun l => { l with done := true }
    | some e =>
      let h := e.x.hedge
      let me := if e.demoted then none else m.memberOf h e.req.src
      let hb := match me with | some i => 1 <<< i | none => 0
      let pres := match m.ent k with | some x => x.pres | none => 0
      let left := if l.wasM then l.kept else pres
      let (d, p) := l.data.getD (0, false)
      -- R247: where an owner's data is forwarded, the speculative read is discarded.
      let m := if l.wb.isSome then m.specDrop key else m
      match l.kind with
      | .readShared =>
        let m := m.writeRecord k
        let g := e.grant 1
        let m := m.putEnt k false (if g = 0 then left else left ||| hb)
        let m := if g = 0 then m else match me with | some i => m.startTenure k i | none => m
        m.finishAnswer k key (.data d p g) false
      | .readOwn =>
        let m := m.writeRecord k
        let g := e.grant 2
        let m := m.putEnt k (g != 0) (if g = 0 then 0 else hb)
        let m := if g = 0 then m else match me with | some i => m.startTenure k i | none => m
        m.finishAnswer k key (.data d p g) false
      | .upgrade =>
        let g := e.grant 2
        let m := m.putEnt k (g != 0) hb
        let m := if g = 0 then m else match me with | some i => m.startTenure k i | none => m
        m.finishAnswer k key (.cmp g) false
      | .ncRead =>
        let m := (m.writeRecord k).putEnt k false left
        m.finishAnswer k key (.data d p 0) false
      | .ncWrite full =>
        let m := m.putEnt k false 0
        let m := m.updLine k fun l => { l with done := true }
        let m := m.updEntry key fun e => { e with phase := .writing }
        match l.wb with
        | some (_, wk) =>
          -- R246: the owner's data merged with h's bytes, then written.
          let d' := lineMerge d e.req.data (if full then 2 ^ 64 - 1 else e.req.mask)
          (m.release wk).issue key (.ncWrite true) d' (2 ^ 64 - 1) (e.req.poison || (p && !full)) false
        | none => m.issue key l.kind e.req.data e.req.mask e.req.poison false
      | .atomic _ _ _ _ =>
        let m := (m.writeRecord k).putEnt k false 0
        if e.synth then m.finishAnswer k key (e.req.failRsp .ur) false
        else
          let m := m.updLine k fun l => { l with done := true, wb := none }
          let m := m.updEntry key fun e => { e with phase := .writing }
          let m := m.atomicDo k key key
          if p || e.answered then (m.updLine k fun l => { l with data := none }).release key
          else
            let hold := m.rd (PVT_HR_PROG_TENURE (keyHr k)) != 0 && !(l.queue.any fun q => match m.entry q with | some x => x.escalated | none => false)
            (m.updLine k fun l => { l with hold := hold }).count (CNT_PVT (keyHr k) 16) 1
      | _ => m.updLine k fun l => { l with done := true }

/-- Carry a flow on as far as it can go: it finishes once no snoop is awaited and it has the data it needs; a flow whose
owner answered clean reads memory now (R276); after the snoops of a lost bucket the line is I and the flow starts anew
(R577). While the change ring is full, a change of tier 1 waits (R292). -/
def Mach.lineTry (m : Mach) (k : Nat) : Mach :=
  match m.line k with
  | none => m
  | some l =>
    if !l.started || l.done || l.ownerWait || !l.snoops.isEmpty || m.ringFull then m
    else if l.prelude_ then
      (m.writeRecord k).updLine k fun l => { l with prelude_ := false, started := false, held := none, wb := none, data := none, kept := 0 }
    else if l.needData && l.data.isNone then
      if l.reading then m
      else match l.by_ with
        | .entry key => (m.updLine k fun l => { l with reading := true }).issue key .ncRead 0 (2 ^ 64 - 1) false false
        | .evict => m
    else m.flowFinish k l

/-- Data for a line's flow has arrived in its entry's line buffer: memory data never replaces the data of record (R274). -/
def Mach.flowData (m : Mach) (k d : Nat) (p : Bool) : Mach :=
  (m.updLine k fun l => if l.wb.isSome then l else { l with data := some (d, p) }).lineTry k

/-- Start a line's flow for a request carried out as `kind` (R246, R313), the line's state as the lookup found it. -/
def Mach.flowStart (m : Mach) (k key : Nat) (kind : ReqKind) : Mach :=
  match m.line k, m.entry key with
  | some l, some e =>
    let h := e.x.hedge
    let me := if e.demoted then none else m.memberOf h e.req.src
    let hb := match me with | some i => 1 <<< i | none => 0
    let x := m.ent k
    let pres := match x with | some y => y.pres | none => 0
    let isM := match x with | some y => y.m | none => false
    let mine := isM && pres == hb
    if m.lostBuckets.contains (m.bucket k) && m.t2On && (m.t1Find k).isNone && !l.prelude_ && x.isNone && l.held.isNone
       && l.kind != .biConflict then
      -- R577: first every member is snooped, and the line is I after that (the mark keeps it from a second round).
      let m := m.setLine k { l with started := true, prelude_ := true, kind := .biConflict }
      (m.snoopAll k (m.allMembers h) true).lineTry k
    else
      let l0 : Line := { l with started := true, kind := kind, wasM := isM, snoops := [], kept := 0, needData := false,
                                reading := false, data := none, wb := none, ownerWait := false }
      let run := fun (need : Bool) (mask : Nat) (inv : Bool) =>
        let m := m.setLine k { l0 with needData := need }
        let m := if need && !isM then
            match e.gate, e.buf with
            | .opened, some (d, p) => m.updLine k fun l => { l with reading := true, data := some (d, p) }
            | .opened, none => m.updLine k fun l => { l with reading := true }
            | _, _ => (m.updLine k fun l => { l with reading := true }).issue key .ncRead 0 (2 ^ 64 - 1) false false
          else m
        (m.snoopAll k mask inv).lineTry k
      let now := fun (r : Rsp) => (m.setLine k l0).finishAnswer k key r false
      match kind with
      | .readShared =>
        if mine then m.setLine k { l0 with ownerWait := true } else run true (if isM then pres else 0) false
      | .readOwn =>
        if mine then m.setLine k { l0 with ownerWait := true } else run true (if isM then pres else pres &&& (2 ^ 64 - 1 - hb)) true
      | .upgrade =>
        if mine then now (.cmp (e.grant 2))
        else if !isM && pres &&& hb != 0 then run false (pres &&& (2 ^ 64 - 1 - hb)) true
        else now (.cmp 0)
      | .cleanEvict =>
        let m' := if (isM && mine) || (!isM && pres &&& hb != 0) then (m.setLine k l0).putEnt k false (pres &&& (2 ^ 64 - 1 - hb))
                  else m.setLine k l0
        m'.finishAnswer k key (.cmp 0) false
      | .ncRead => run true (if isM then pres else 0) false
      | .ncWrite _ => run isM pres true
      | .atomic _ _ _ _ => run true pres true
      | _ => m
  | _, _ => m

/-- Whether a line's flow is this tracker entry's and has not begun: its row may be carried out now. A line held Modified
by a departed member waits for the walk (R287). -/
def Mach.flowReady (m : Mach) (key : Nat) : Option Nat :=
  match m.entry key with
  | none => none
  | some e =>
    let k := e.x.line
    match m.line k with
    | some l => if l.by_ = .entry key && !l.started && e.phase = .privet && !m.deadOwned k && !m.ringFull then some k else none
    | none => none

/-! ### Write-backs and snoop responses (R249, R271 to R276) -/

/-- A write-back of this port with a lower number has not been taken (R271). -/
def Mach.wbBefore (m : Mach) (src : ReqSrc) (stamp : Nat) : Bool :=
  let mine := fun (r : Req) => r.src == src && r.stamp < stamp && (match r.kind with | .writeBack _ => true | _ => false)
  m.trk.any (fun (_, e) => mine e.req && e.phase != .writing && e.phase != .atTarget && e.phase != .draining) ||
  m.trkWait.any fun (_, l) => l.any fun w => mine w.req

/-- The source that a member's messages come from. -/
def Mach.memberSrc (m : Mach) (h i : Nat) (r : Req) : Bool :=
  match r.src with
  | .port p => !m.flag (PVT_MEMBER_KIND h i) && m.rd (PVT_MEMBER_ID h i) == p
  | .fabric _ f => m.flag (PVT_MEMBER_KIND h i) && m.rd (PVT_MEMBER_ID h i) == f
  | _ => false

/-- A snoop response takes effect (R274, R275, R289): BIRspS from a member that crossed, or to BISnpInv, is followed by a
further BISnpInv; a response with no snoop outstanding is discarded and recorded. -/
def Mach.birspTake (m : Mach) (b : BiRsp) : Mach :=
  let stray := m.error { cls := .corrected, block := 4, code := 0xA, port := m.memberPort b.hr b.member,
                         dom := some (m.memberDom b.hr b.member), addr := keyLine b.key * 64 }
  match m.line b.key with
  | none => stray
  | some l => match SMap.find l.snoops b.member with
    | some sn =>
      if sn.st ≠ .sent then stray
      else
        let crossed := match l.wb with | some (g, _) => g == b.member | none => false
        if b.s && (crossed || sn.inv) then
          (m.setLine b.key { l with snoops := SMap.ins l.snoops b.member { inv := true, st := .sent } }).snoopOut b.key b.member true
        else
          (m.setLine b.key { l with snoops := SMap.del l.snoops b.member,
                                    kept := if b.s then l.kept ||| (1 <<< b.member) else l.kept }).lineTry b.key
    | none => stray

/-- A snoop response waits where a write-back of its port with a lower number is still to be taken (R271). -/
def Mach.birspHeld (m : Mach) (b : BiRsp) : Bool :=
  let mine := fun (r : Req) => m.memberSrc b.hr b.member r && r.stamp < b.stamp && (match r.kind with | .writeBack _ => true | _ => false)
  m.trk.any (fun (_, e) => mine e.req && e.phase != .writing && e.phase != .atTarget && e.phase != .draining) ||
  m.trkWait.any fun (_, l) => l.any fun w => mine w.req

/-- The waiting snoop responses that may be taken now, in order of arrival. -/
def Mach.birspPump (m : Mach) : Mach :=
  m.birsps.foldl (fun m b => if m.birspHeld b then m else ({ m with birsps := m.birsps.erase b }).birspTake b) m

/-- A write-back is taken (R246, R249, R273, R274): Cmp at once, its entry stays for the memory write. -/
def Mach.wbTaken (m : Mach) (key : Nat) : Mach :=
  (m.answer key (.cmp 0) .real (some (key / 2048))).updEntry key fun e => { e with phase := .writing }

/-- The line's flow awaits a snoop response of this member, or this member's own write-back (R245, R248). -/
def Line.awaits (l : Line) (g : Nat) (owner : Bool) : Bool := l.started && !l.done && ((SMap.find l.snoops g).isSome || (l.ownerWait && owner))

/-- A write-back meets a snoop to its writer (R274): its data is the data of record of the snooping flow; an earlier one of
the same flow is written at once. -/
def Mach.wbCross (m : Mach) (k key g : Nat) : Mach :=
  match m.line k, m.entry key with
  | some l, some e =>
    let m := m.wbTaken key
    let m := if l.wb.isSome then m.writeRecord k else m
    let m := m.updLine k fun l => { l with wb := some (g, key), data := some (e.req.data, e.req.poison), queue := l.queue.filter (· != key) }
    m.birspPump
  | _, _ => m

/-- A write-back arrives for a request of the same member that waits on it (R248): it is applied and written. -/
def Mach.wbOwn (m : Mach) (k key g : Nat) (toS : Bool) : Mach :=
  match m.entry key with
  | none => m
  | some e =>
    let m := (m.wbTaken key).putEnt k false (if toS then 1 <<< g else 0)
    let m := m.updLine k fun l => { l with queue := l.queue.filter (· != key) }
    (m.issue key (.ncWrite true) e.req.data (2 ^ 64 - 1) e.req.poison false).birspPump

/-! ### Evictions, spills and allocation (R255, R260, R261) -/

/-- Eviction flows that run, or wait on a line of their own. -/
def Mach.evicting (m : Mach) : Nat := (m.lines.filter fun (_, l) => l.by_ == .evict && !l.done).length

/-- MAX_EVICT as it acts. -/
def Mach.maxEvict (m : Mach) : Nat := min 2048 (max 1 (m.rd PVT_EVICT_CFG_MAX_EVICT))

/-- Room for one more busy-line entry (R244). -/
def Mach.busyRoom (m : Mach) : Bool := m.lines.length < 32768

/-- Make an entry an eviction flow on its own line (R260): none where it has to wait (R261). -/
def Mach.evictEnt (m : Mach) (e : PvtEnt) : Option Mach :=
  if m.evicting ≥ m.maxEvict then none
  else match m.line e.key with
    | some l => if l.done then some (m.setLine e.key { by_ := .evict, held := some e, queue := l.queue }) else none
    | none => if m.busyRoom then some (m.setLine e.key { by_ := .evict, held := some e }) else none

/-- The bucket victim (R260): the S entry with the fewest presence bits, ties to the lowest slot; slot 0 where all are M. -/
def bucketVictim (l : List (Nat × PvtEnt)) : Nat × PvtEnt :=
  let n := fun (e : PvtEnt) => (members e.pres).length
  match l.filter fun (_, e) => !e.m with
  | x :: rest => rest.foldl (fun b y => if n y.2 < n b.2 then y else b) x
  | [] => l.headD (0, { key := 0, m := false, pres := 0 })

/-- Spill an entry to tier 2 (R260, R265): into a free slot of its bucket, in place of the bucket victim, or, with no tier 2
or at the quota, as an eviction flow. None where it has to wait. -/
def Mach.spill (m : Mach) (e : PvtEnt) : Option Mach :=
  let h := keyHr e.key
  if !m.t2On || m.hrT2 h ≥ m.rd (PVT_HR_QUOTA_T2_QUOTA h) * 2 ^ 20 then m.evictEnt e
  else
    let b := m.bucket e.key
    match (List.range 4).find? fun s => (SMap.find m.t2 (b * 4 + s)).isNone with
    | some s => some ((m.t2Put (b * 4 + s) e).count (CNT_PVT h 12) 1)
    | none =>
      let (i, v) := bucketVictim (m.t2.filter fun (i, _) => i / 4 == b)
      match m.evictEnt v with
      | none => none
      | some m' =>
        let m' := (((m'.t2Del i v.key).t2Put i e).count (CNT_PVT h 12) 1).count (CNT_PVT h 13) 1
        some ((m'.raise PVT_EVENT_BUCKET_OVERFLOW).ringPut (.victim v.key))

/-- Ways that an allocation may use (R255, R576). -/
def Mach.ways (m : Mach) (k : Nat) : List Nat :=
  let mask := m.rd (PVT_HR_CFG_WAY_MASK (keyHr k))
  (List.range 16).filter fun w => bit mask w && !m.deadWays.contains (t1Set k % 64 * 16 + w)

/-- Allocate the entry that a line holds (R250, R255, R261): none where it has to wait. -/
def Mach.allocate (m : Mach) (k : Nat) (e : PvtEnt) : Option Mach :=
  let set := t1Set k
  let place := fun (m : Mach) (w : Nat) =>
    let m := (m.updLine k fun l => { l with held := none }).ringPut (.alloc k)
    ({ m with t1 := SMap.ins m.t1 (set * 16 + w) { e with age := 0 } }).touch set w 15
  if m.ringFull then none
  else if m.rd (PVT_HR_CFG_WAY_MASK (keyHr k)) = 0 then
    (m.spill e).map fun m' => match m'.line k with
      | some l => if l.by_ = .evict then m' else m'.setLine k { l with held := none }
      | none => m'
  else
    match (m.ways k).find? fun w => (SMap.find m.t1 (set * 16 + w)).isNone with
    | some w => some (place m w)
    | none =>
      let cand := (m.ways k).filterMap fun w => (SMap.find m.t1 (set * 16 + w)).bind fun v =>
        if (m.line v.key).isSome then none else some (w, v)
      match cand with
      | [] => none
      | c :: rest =>
        let (w, v) := rest.foldl (fun b y => if b.2.age < y.2.age then y else b) c
        (m.spill v).map fun m' => place { m' with t1 := SMap.del m'.t1 (set * 16 + w) } w

/-! ### The end of a flow and the line's queue (R245, R270) -/

/-- Group of R270. -/
def Trk.group (e : Trk) : Nat :=
  match e.req.kind with
  | .writeBack _ => 1
  | _ => if e.escalated then 2 else 3

/-- The next request of a line's queue. -/
def Mach.nextOf (m : Mach) (q : List Nat) : Option Nat :=
  let g := fun key => match m.entry key with | some e => e.group | none => 0
  match q.find? (g · ≤ 1) with
  | some x => some x
  | none => match q.find? (g · == 2) with
    | some x => some x
    | none => q.head?

/-- Entries that keep a line busy for the memory writes they issued (R245). -/
def Mach.lineWriters (m : Mach) (k : Nat) : List (Nat × Trk) :=
  m.trk.filter fun (_, e) => e.x.coh.isSome && e.x.line == k && e.phase == .writing

/-- A tracker entry's writes are complete. -/
def Mach.written (m : Mach) (key : Nat) (e : Trk) : Bool :=
  e.outs.isEmpty && e.arrived.isEmpty && !m.mirWait.any (·.key == key)

/-- The flow has ended: the response queued, every snoop answered, every write complete, no hold, no allocation waiting. -/
def Mach.lineEnded (m : Mach) (k : Nat) (l : Line) : Bool :=
  l.done && l.snoops.isEmpty && !l.hold && l.held.isNone && (m.lineWriters k).all fun (i, e) => m.written i e

/-- The line is a recovery line (R293, R295), or one that a walk still has to evict. -/
def Mach.mustEvict (m : Mach) (k : Nat) : Bool := m.recover.any (fun (_, ks) => ks.contains k) || m.toEvict.contains k

end Sys2Proof.Machine
end

