-- ==== Sys2Proof/Machine/Privet.lean ====
section
/-! DEFINITION. Sys2Proof/Machine/Privet.lean: the meanings of Privet's rows (08 to 10). A flow is named by its tracker
entry (tile × 2048 + index), or by its hedgerow and coherence address. A row that names an event which cannot occur in the
state it finds has no effect (assumption log 2). -/
namespace Sys2Proof.Machine

/-! ### Lookups (R256, R270, R277, R301, R385) -/

/-- An entry may present its lookup now: Privet and its hedgerow are enabled (R75, R268, R296), and its requester has not
departed (R284). -/
def Mach.mayPresent (m : Mach) (e : Trk) : Bool :=
  e.phase == .wantLookup && m.flag PVT_CTRL_ENABLE && m.flag (PVT_HR_CFG_ENABLE e.x.hedge) &&
  (match m.memberOf e.x.hedge e.req.src with | some i => !bit (m.departed e.x.hedge) i | none => true)

/-- LKP_WEIGHT as it acts (R385). -/
def Mach.lkpW (m : Mach) (d : Nat) : Nat := max 1 (SMap.get 16 m.lkpWeight d)

/-- The entry of a list that was taken first. -/
def oldest (l : List (Nat × Trk)) : Option (Nat × Trk) :=
  match l with
  | [] => none
  | x :: rest => some (rest.foldl (fun b y => if y.2.seq < b.2.seq then y else b) x)

/-- The next lookup of a tile slice (R280, R385): an escalated one first; else the oldest of the domain whose turn the
deficit round-robin gives. -/
def Mach.chooseLookup (m : Mach) (t : Nat) : Option (Nat × Trk) × Mach :=
  let l := m.trk.filter fun (i, e) => i / 2048 == t && m.mayPresent e
  match oldest (l.filter fun (_, e) => e.escalated) with
  | some x => (some x, m)
  | none =>
    let cur := SMap.get 0 m.lkpLast t
    let left := SMap.get 0 m.lkpDef (t * 4096 + cur)
    let of := fun d => oldest (l.filter fun (_, e) => e.dom == d)
    if left ≥ 1 && (of cur).isSome then
      (of cur, { m with lkpDef := SMap.set 0 m.lkpDef (t * 4096 + cur) (left - 1) })
    else
      let nearest := l.foldl (fun (b : Option Nat) (x : Nat × Trk) =>
        let dist := fun d => (d + 4096 - (cur + 1)) % 4096
        match b with | none => some x.2.dom | some y => if dist x.2.dom < dist y then some x.2.dom else b) none
      match nearest with
      | none => (none, m)
      | some d =>
        let defs := SMap.set 0 (SMap.set 0 m.lkpDef (t * 4096 + cur) 0) (t * 4096 + d) (m.lkpW d - 1)
        (of d, { m with lkpLast := SMap.set 0 m.lkpLast t d, lkpDef := defs })

/-- PRIVET_LOOKUP_PRESENT (R256, R300, R385): the lookup is presented, and the speculative read with it. -/
def privetLookupPresent (t : Tile) (m : Mach) : Mach :=
  match m.chooseLookup t with
  | (none, _) => m
  | (some (key, e), m) =>
    let m := (m.count (CNT_TILE t 98) 1).count (CNT_DOM e.dom 3) 1
    let m := if e.escalated then m.count (CNT_TILE t 99) 1 else m
    let m := m.count (CNT_PVT e.x.hedge 0) 1
    let again := e.eligible
    let m := m.setEntry key { e with phase := .lookup, eligible := e.eligibleKind && !again, time0 := m.now,
                                     cnt0 := SMap.get 0 m.flowCnt (t1Set e.x.line) }
    if e.eligibleKind && !again && m.specOn e.dom && !e.nospec then
      let m := m.updEntry key fun e => { e with gate := .closed }
      let m := (m.count (CNT_DOM e.dom 5) 1).count (CNT_PVT e.x.hedge 4) 1
      m.issue key .ncRead 0 (2 ^ 64 - 1) false true
    else m

def execPrivetLookupPresent (t : Tile) (s : State) : Res := act (privetLookupPresent t) s

/-- Order of simultaneous arrivals within a group (R277): members from PRIO_PTR, then the others by tile slice. -/
def Mach.prio (m : Mach) (key : Nat) (e : Trk) : Nat :=
  match m.memberOf e.x.hedge e.req.src with
  | some i => (i + 64 - m.rd (PVT_HR_PROG_PRIO_PTR e.x.hedge)) % 64
  | none => 64 + key / 2048

/-- Insert by a rank, behind equals. -/
def insertBy (rank : Nat → Nat) (x : Nat) : List Nat → List Nat
  | [] => [x]
  | y :: t => if rank x < rank y then x :: y :: t else y :: insertBy rank x t

def sortBy (rank : Nat → Nat) (l : List Nat) : List Nat := l.foldl (fun acc x => insertBy rank x acc) []

/-- One group of simultaneous arrivals (R277): the order, PRIO_PTR, the losses. -/
def Mach.arriveGroup (m : Mach) (l : List Nat) : Mach × List Nat :=
  let rank := fun key => match m.entry key with | some e => m.prio key e | none => 0
  let s := sortBy rank l
  match s with
  | w :: rest =>
    if rest.isEmpty then (m, s)
    else
      let m := match m.entry w with
        | some e => match m.memberOf e.x.hedge e.req.src with
          | some i => m.wr (PVT_HR_PROG_PRIO_PTR e.x.hedge) ((i + 1) % 64)
          | none => m
        | none => m
      (rest.foldl Mach.loss m, s)
  | [] => (m, [])

/-- A request joins its line (R244, R270): it takes the line, or its queue, or waits for a busy-line entry. Messages that
start no flow only end their lookup. -/
def Mach.join (m : Mach) (key : Nat) : Mach :=
  match m.entry key with
  | none => m
  | some e =>
    let k := e.x.line
    let m := m.setEntry key { e with phase := .privet }
    match e.req.kind with
    | .biConflict | .memSpecRd | .otherM2S _ => m
    | _ =>
      let take := fun (m : Mach) =>
        let m := m.takeLine k (.entry key)
        -- R283: an S entry with no holder left is freed when it is next touched.
        if (m.rawEnt k).isSome && (m.ent k).isNone && !m.deadOwned k then m.putEnt k false 0 else m
      match m.line k with
      | some l => if l.by_ = .entry key && !l.started then take m else m.setLine k { l with queue := l.queue ++ [key] }
      | none => if m.busyRoom then take m
                else { m.updEntry key fun e => { e with phase := .wantBusy } with busyWait := m.busyWait ++ [key] }

/-- What a lookup reads (R256, R262, R511): tier 1, and tier 2 where the summary reports an entry. -/
def Mach.lookupCount (m : Mach) (key : Nat) (copyUsed : Bool) : Mach :=
  match m.entry key with
  | none => m
  | some e =>
    let k := e.x.line
    let h := e.x.hedge
    if (m.t1Find k).isSome then m.count (CNT_PVT h 1) 1
    else if m.t2On && m.sumHit k then
      let m := (m.count (CNT_PVT h 2) 1).count (CNT_DOM e.dom 4) 1
      let m := if (m.t2Find k).isNone then m.count (CNT_PVT h 3) 1 else m
      if copyUsed && m.flag PVT_T2_CFG_MIRROR then
        (m.raise PVT_EVENT_T2_COPY_USED).error { cls := .corrected, block := 4, code := 4, addr := keyLine k * 64, loc := m.bucket k % 4 }
      else m
    else m

/-- The lookups of one line that end together: judged, ordered, joined. -/
def Mach.arriveLine (m : Mach) (l : List Nat) : Mach :=
  let g := fun n => l.filter fun key => match m.entry key with | some e => e.group == n | none => false
  let (m, a) := m.arriveGroup (g 1)
  let (m, b) := m.arriveGroup (g 2)
  let (m, c) := m.arriveGroup (g 3)
  let order := a ++ b ++ c
  let idle := fun (m : Mach) (key : Nat) => match m.entry key with
    | some e => (match m.line e.x.line with | none => true | some l => l.by_ = .entry key && !l.started)
    | none => false
  let m := order.foldl (fun m key => m.judge key (order.head? = some key && idle m key)) m
  order.foldl Mach.join m

/-- Group keys by line, in order of first appearance. -/
def byLine (line : Nat → Nat) : List Nat → List (Nat × List Nat) → List (Nat × List Nat)
  | [], acc => acc
  | x :: t, acc =>
    let k := line x
    byLine line t (if acc.any (·.1 = k) then acc.map fun (a, l) => if a = k then (a, l ++ [x]) else (a, l) else acc ++ [(k, [x])])

/-- PRIVET_LOOKUP_END (R256, R270, R277, R301): these lookups end in one CORE cycle. A lookup of a line in a listed set
waits for the set's recovery (R293). -/
def privetLookupEnd (ends : List (Nat × Bool)) (m : Mach) : Mach :=
  let live := ends.filter fun (key, _) => match m.entry key with
    | some e => e.phase = .lookup && (SMap.find m.recover (t1Set e.x.line)).isNone
    | none => false
  let m := live.foldl (fun m (key, c) => m.lookupCount key c) m
  let line := fun key => match m.entry key with | some e => e.x.line | none => 0
  (byLine line (live.map (·.1)).eraseDups []).foldl (fun m (_, l) => m.arriveLine l) m

def execPrivetLookupEnd (ends : List (Nat × Bool)) (s : State) : Res := act (privetLookupEnd ends) s

/-! ### Flows (R237, R246) -/

/-- A caching request of a non-member is handled as a non-caching access, and raises NONMEMBER (R237). -/
def Mach.noteNonmember (m : Mach) (e : Trk) : Mach :=
  if (m.memberOf e.x.hedge e.req.src).isNone && !e.demoted then
    (m.raise PVT_EVENT_NONMEMBER).count (CNT_PVT e.x.hedge 20) 1 else m

/-- Whether a request is carried out without a member index. -/
def Mach.asNonmember (m : Mach) (e : Trk) : Bool := e.demoted || (m.memberOf e.x.hedge e.req.src).isNone

/-- READ_SHARED (R246). -/
def readShared (key : Nat) (m : Mach) : Mach :=
  match m.flowReady key, m.entry key with
  | some k, some e =>
    if e.req.kind = .readShared then (m.noteNonmember e).flowStart k key (if m.asNonmember e then .ncRead else .readShared) else m
  | _, _ => m

def execReadShared (key : Nat) (s : State) : Res := act (readShared key) s

/-- READ_FOR_OWNERSHIP (R246). -/
def readForOwnership (key : Nat) (m : Mach) : Mach :=
  match m.flowReady key, m.entry key with
  | some k, some e =>
    if e.req.kind = .readOwn then (m.noteNonmember e).flowStart k key (if m.asNonmember e then .ncRead else .readOwn) else m
  | _, _ => m

def execReadForOwnership (key : Nat) (s : State) : Res := act (readForOwnership key) s

/-- UPGRADE (R246; R237 for a non-member). -/
def upgrade (key : Nat) (m : Mach) : Mach :=
  match m.flowReady key, m.entry key with
  | some k, some e => if e.req.kind = .upgrade then (m.noteNonmember e).flowStart k key .upgrade else m
  | _, _ => m

def execUpgrade (key : Nat) (s : State) : Res := act (upgrade key) s

/-- NON_CACHING_READ (R246). -/
def nonCachingRead (key : Nat) (m : Mach) : Mach :=
  match m.flowReady key, m.entry key with
  | some k, some e => if e.req.kind = .ncRead ∨ e.req.kind = .ioRead then m.flowStart k key .ncRead else m
  | _, _ => m

def execNonCachingRead (key : Nat) (s : State) : Res := act (nonCachingRead key) s

/-- CLEAN_EVICT (R239, R246). -/
def cleanEvict (key : Nat) (m : Mach) : Mach :=
  match m.flowReady key, m.entry key with
  | some k, some e => if e.req.kind = .cleanEvict then (m.noteNonmember e).flowStart k key .cleanEvict else m
  | _, _ => m

def execCleanEvict (key : Nat) (s : State) : Res := act (cleanEvict key) s

/-- NON_CACHING_WRITE (R246). -/
def nonCachingWrite (key : Nat) (m : Mach) : Mach :=
  match m.flowReady key, m.entry key with
  | some k, some e =>
    match e.req.kind with
    | .ncWrite full => m.flowStart k key (.ncWrite full)
    | .ioWrite => m.flowStart k key (.ncWrite (e.req.mask == 2 ^ 64 - 1))
    | _ => m
  | _, _ => m

def execNonCachingWrite (key : Nat) (s : State) : Res := act (nonCachingWrite key) s

/-- A write-back that is its line's flow (R246, R249): the recorded owner's changes the state; any other is stray. -/
def Mach.wbFlow (m : Mach) (k key g : Nat) (toS : Bool) : Mach :=
  match m.entry key with
  | none => m
  | some e =>
    let owner := match m.ent k with | some x => x.m && x.pres == 1 <<< g | none => false
    let m := m.updLine k fun l => { l with started := true, done := true, kind := e.req.kind }
    let m := if owner then m.putEnt k false (if toS then 1 <<< g else 0)
      else (((m.raise PVT_EVENT_STRAY_WB).count (CNT_PVT (keyHr k) 11) 1).error
        { cls := .corrected, block := 4, code := 6, port := m.memberPort (keyHr k) g, dom := some e.dom, addr := e.req.addr })
    let m := m.wbTaken key
    (m.issue key (.ncWrite true) e.req.data (2 ^ 64 - 1) e.req.poison false).birspPump

/-- WRITE_BACK (R245, R246, R248, R249, R274): taken ahead of the queue where the line's flow awaits this member. -/
def writeBack (key : Nat) (m : Mach) : Mach :=
  match m.entry key with
  | none => m
  | some e =>
    let k := e.x.line
    match e.req.kind, m.line k with
    | .writeBack toS, some l =>
      if e.phase ≠ .privet then m
      else match (if e.demoted then none else m.memberOf e.x.hedge e.req.src) with
        | none => match m.flowReady key with
          | some k => ((m.noteNonmember e).count (CNT_PVT e.x.hedge 10) 1).flowStart k key (.ncWrite true)
          | none => m
        | some g =>
          let owner := match l.by_ with
            | .entry x => (match m.entry x with | some f => m.memberOf f.x.hedge f.req.src == some g | none => false)
            | .evict => false
          if l.awaits g owner then
            let m := m.count (CNT_PVT e.x.hedge 10) 1
            if l.ownerWait && owner then m.wbOwn k key g toS else m.wbCross k key g
          else match m.flowReady key with
            | some k => (m.count (CNT_PVT e.x.hedge 10) 1).wbFlow k key g toS
            | none => m
    | _, _ => m

def execWriteBack (key : Nat) (s : State) : Res := act (writeBack key) s

/-- BICONFLICT (R251 to R253, R271): answered once every earlier write-back of its port has been taken; every earlier
response of the member for the line has been queued by then, since the line's earlier flows have ended. -/
def biconflict (key : Nat) (m : Mach) : Mach :=
  match m.entry key with
  | none => m
  | some e =>
    if e.req.kind ≠ .biConflict ∨ e.phase ≠ .privet ∨ m.wbBefore e.req.src e.req.stamp then m
    else
      let h := e.x.hedge
      let m := (m.noteNonmember e).count (CNT_PVT h 8) 1
      let asked := match m.memberOf h e.req.src, m.line e.x.line with
        | some g, some l => (SMap.find l.snoops g).isSome
        | _, _ => false
      let m := if asked then m else m.count (CNT_PVT h 9) 1
      (m.answer key .biConflictAck .real (some (key / 2048))).release key

def execBiconflict (key : Nat) (s : State) : Res := act (biconflict key) s

/-- BIRSP (R271, R274 to R276, R289): a snoop response of member i, received on port p. -/
def birsp (p : Port) (h : Hedge) (i : Fin 64) (addr : Nat) (sh : Bool) (m : Mach) : Mach :=
  let b : BiRsp := { hr := h, member := i, key := lineKey h addr, s := sh, stamp := SMap.get 0 m.vc2Rx p }
  { m with birsps := m.birsps ++ [b] }.birspPump

def execBirsp (p : Port) (h : Hedge) (i : Fin 64) (addr : Nat) (sh : Bool) (s : State) : Res := act (birsp p h i addr sh) s

/-- MEM_SPEC_RD (R243): ignored, with no response. -/
def memSpecRd (key : Nat) (m : Mach) : Mach :=
  match m.entry key with
  | some e => if e.req.kind = .memSpecRd ∧ e.phase = .privet then m.release key else m
  | none => m

def execMemSpecRd (key : Nat) (s : State) : Res := act (memSpecRd key) s

/-- PROTOCOL (R243, R633). -/
def protocol (key : Nat) (m : Mach) : Mach :=
  match m.entry key with
  | some e => match e.req.kind with
    | .otherM2S _ =>
      if e.phase = .privet then
        let p := match e.req.src with | .port p => some p | .fabric p _ => some p | _ => none
        let m := (m.raise PVT_EVENT_PROTOCOL).error
          { cls := .contained, block := 4, code := 7, port := p, dom := some e.dom, addr := e.req.addr }
        (m.answer key (e.req.failRsp .ur) .lost (some (key / 2048))).release key
      else m
    | _ => m
  | none => m

def execProtocol (key : Nat) (s : State) : Res := act (protocol key) s

/-- OWNER_WRITEBACK_WAIT_END (R248): the owner's write-back has been applied and written; the request is carried out
against the resulting state. -/
def ownerWritebackWaitEnd (h : Hedge) (addr : Nat) (m : Mach) : Mach :=
  let k := lineKey h addr
  match m.line k with
  | some l => match l.by_ with
    | .entry key => match m.entry key with
      | some e =>
        let mine := match m.ent k, m.memberOf e.x.hedge e.req.src with
          | some x, some g => x.m && x.pres == 1 <<< g
          | _, _ => false
        if l.ownerWait && !mine && (m.lineWriters k).all (fun (i, e) => m.written i e) then m.flowStart k key l.kind else m
      | none => m
    | .evict => m
  | none => m

def execOwnerWritebackWaitEnd (h : Hedge) (addr : Nat) (s : State) : Res := act (ownerWritebackWaitEnd h addr) s

/-- TENURE_END (R278): the tenure of member i ends, and a snoop that waited for it is issued. -/
def tenureEnd (h : Hedge) (addr : Nat) (i : Fin 64) (m : Mach) : Mach :=
  let k := lineKey h addr
  let m := { m with tenures := m.tenures.filter (· != k * 64 + i.val) }
  match m.line k with
  | some l => match SMap.find l.snoops i with
    | some sn => if sn.st = .tenure then m.snoop k i sn.inv else m
    | none => m
  | none => m

def execTenureEnd (h : Hedge) (addr : Nat) (i : Fin 64) (s : State) : Res := act (tenureEnd h addr i) s

/-- MEMORY_READ_DATA (R302, R303): read data of the line reaches the entry's line buffer; gated data stays there until the
lookup confirms it. -/
def memoryReadData (key : Nat) (m : Mach) : Mach :=
  match m.entry key with
  | none => m
  | some e => match e.arrived with
    | .data d p _ :: rest =>
      let m := m.setEntry key { e with arrived := rest, buf := some (d, p) }
      if e.gate = .closed then m
      else match m.line e.x.line with
        | some l => if l.by_ = .entry key && l.started && l.reading then m.flowData e.x.line d p else m
        | none => m
    | _ => m

def execMemoryReadData (key : Nat) (s : State) : Res := act (memoryReadData key) s

/-- MEMORY_WRITE_COMPLETE (R245, R29): a write of the entry completed at its device; a non-caching write answers then. -/
def memoryWriteComplete (key : Nat) (m : Mach) : Mach :=
  match m.entry key with
  | none => m
  | some e => match e.arrived with
    | .cmp _ :: rest =>
      let e := { e with arrived := rest }
      let m := m.setEntry key e
      if !m.written key e then m
      else
        let m := match e.req.kind with
          | .ncWrite _ | .ioWrite | .writeBack _ => if e.answered then m else m.answer key (.cmp 0) .real (some (tileOf e.x.port))
          | _ => m
        let holding := match m.line e.x.line with | some l => l.by_ = .entry key && l.hold | none => false
        if e.phase = .writing && !holding then m.release key else m
    | _ => m

def execMemoryWriteComplete (key : Nat) (s : State) : Res := act (memoryWriteComplete key) s

/-! ### Ends of flows, allocation, evictions -/

/-- LINE_FLOW_END (R245, R270): the line's next request begins, or its busy-line entry is free. A line that recovery or a
walk must evict goes to its eviction first (R293). -/
def lineFlowEnd (h : Hedge) (addr : Nat) (m : Mach) : Mach :=
  let k := lineKey h addr
  match m.line k with
  | none => m
  | some l =>
    if !m.lineEnded k l then m
    else
      let m := (m.lineWriters k).foldl (fun m (i, _) => m.release i) m
      if m.mustEvict k && l.by_ != .evict && m.evicting < m.maxEvict then m.setLine k { by_ := .evict, queue := l.queue }
      else match m.nextOf l.queue with
        | some key => (m.setLine k { by_ := l.by_, queue := l.queue.filter (· != key) }).takeLine k (.entry key)
        | none => { m with lines := SMap.del m.lines k }

def execLineFlowEnd (h : Hedge) (addr : Nat) (s : State) : Res := act (lineFlowEnd h addr) s

/-- BUSY_LINE_ENTRY_GRANT (R244, R280): an escalated request first, else the one that waits longest; the others for its line
count a loss. It presents its lookup again. -/
def busyLineEntryGrant (m : Mach) : Mach :=
  if !m.busyRoom then m
  else
    let esc := m.busyWait.find? fun key => match m.entry key with | some e => e.escalated | none => false
    match (match esc with | some x => some x | none => m.busyWait.head?) with
    | none => m
    | some key =>
      let m := { m with busyWait := m.busyWait.filter (· != key) }
      match m.entry key with
      | none => m
      | some e =>
        let same := m.busyWait.filter fun x => match m.entry x with | some f => f.x.line == e.x.line | none => false
        let m := m.setEntry key { e with phase := .wantLookup }
        let m := if (m.line e.x.line).isNone then m.setLine e.x.line { by_ := .entry key } else m
        same.foldl Mach.loss m

def execBusyLineEntryGrant (s : State) : Res := act busyLineEntryGrant s

/-- TIER1_ALLOCATION (R250, R255, R261, R266): the allocation that a finished flow waits for, or the spill of an entry in a
way that its hedgerow's mask no longer selects. -/
def tier1Allocation (h : Hedge) (addr : Nat) (m : Mach) : Mach :=
  let k := lineKey h addr
  match m.line k with
  | some l => match l.held with
    | some e => if l.done then (m.allocate k e).getD m else m
    | none => m
  | none => match m.t1Find k with
    | some (i, e) =>
      if bit (m.rd (PVT_HR_CFG_WAY_MASK h)) (i % 16) || m.ringFull then m
      else match m.spill e with
        | some m' => { (m'.ringChange (i / 16)) with t1 := SMap.del m'.t1 i }
        | none => m
    | none => m

def execTier1Allocation (h : Hedge) (addr : Nat) (s : State) : Res := act (tier1Allocation h addr) s

/-- Start an eviction flow on a line that is its own (R260): every holder is snooped; for a recovery line every member of
the hedgerow (R293). -/
def Mach.evictStart (m : Mach) (k : Nat) : Mach :=
  match m.line k with
  | none => m
  | some l =>
    if l.by_ ≠ .evict ∨ l.started then m
    else
      let h := keyHr k
      let mask := if m.recover.any (fun (_, ks) => ks.contains k) then m.allMembers h
                  else match m.ent k with | some e => e.pres | none => 0
      let isM := match m.ent k with | some e => e.m | none => false
      let m := (m.setLine k { l with started := true, wasM := isM }).count (CNT_PVT h 14) 1
      (m.snoopAll k mask true).lineTry k

/-- The next line that the quota walk of a hedgerow evicts: ascending buckets (R266). -/
def Mach.quotaNext (m : Mach) (h : Nat) : Option Nat :=
  if m.quotaWalk.contains h && m.hrT2 h > m.rd (PVT_HR_QUOTA_T2_QUOTA h) * 2 ^ 20 then
    (m.t2.find? fun (_, e) => keyHr e.key == h).map fun ((_, e) : Nat × PvtEnt) => e.key
  else none

/-- EVICTION_FLOW (R260, R261, R266, R293, R346, R363): an eviction flow starts on a line that waits for one. -/
def evictionFlow (h : Hedge) (addr : Nat) (m : Mach) : Mach :=
  let k := lineKey h addr
  match m.line k with
  | some _ => m.evictStart k
  | none =>
    if (m.mustEvict k || m.quotaNext h == some k) && m.evicting < m.maxEvict && m.busyRoom then (m.takeLine k .evict).evictStart k
    else m

def execEvictionFlow (h : Hedge) (addr : Nat) (s : State) : Res := act (evictionFlow h addr) s

/-! ### Summary, partitions, configuration (R259, R263, R266 to R268) -/

/-- REBUILD (R263). -/
def execRebuild (s : State) : Res := act Mach.rebuild s

/-- REBUILD_DONE (R263): the walk has counted every entry of tier 2. -/
def rebuildDone (m : Mach) : Mach :=
  if m.rebuilding then
    let inc := fun (s : SMap Nat) (i : Nat) => SMap.set 0 s i (min 15 (SMap.get 0 s i + 1))
    { m with rebuilding := false, summary := m.t2.foldl (fun s ((_, e) : Nat × PvtEnt) => (sumIdx e.key).foldl inc s) [] }.raise PVT_EVENT_REBUILD_DONE
  else m

def execRebuildDone (s : State) : Res := act rebuildDone s

/-- PVT_HR_CFG_WRITE (R265, R266): entries in ways no longer selected spill; one whose spill has to wait follows with
TIER1_ALLOCATION. -/
def pvtHrCfgWrite (h : Hedge) (v : BitVec 32) (m : Mach) : Mach :=
  let m := (m.wr (PVT_HR_CFG_WAY_MASK h) (v.toNat % 2 ^ 16)).wrB (PVT_HR_CFG_ENABLE h) (bit v.toNat 16)
  let out := m.t1.filter fun (i, e) => keyHr e.key == h.val && !bit v.toNat (i % 16)
  out.foldl (fun m ((_, e) : Nat × PvtEnt) => tier1Allocation h (keyLine e.key * 64) m) m

def execPvtHrCfgWrite (h : Hedge) (v : BitVec 32) (s : State) : Res := act (pvtHrCfgWrite h v) s

/-- PVT_HR_QUOTA_WRITE (R266). -/
def pvtHrQuotaWrite (h : Hedge) (v : BitVec 32) (m : Mach) : Mach :=
  let old := m.rd (PVT_HR_QUOTA_T2_QUOTA h)
  let new := v.toNat % 2 ^ 12
  let m := m.wr (PVT_HR_QUOTA_T2_QUOTA h) new
  if new < old then
    if m.hrT2 h ≤ new * 2 ^ 20 then m.raise PVT_EVENT_QUOTA_DONE
    else if m.quotaWalk.contains h then m else { m with quotaWalk := m.quotaWalk ++ [h.val] }
  else m

def execPvtHrQuotaWrite (h : Hedge) (v : BitVec 32) (s : State) : Res := act (pvtHrQuotaWrite h v) s

/-- QUOTA_DONE (R266). -/
def quotaDone (h : Hedge) (m : Mach) : Mach :=
  if m.quotaWalk.contains h.val && m.hrT2 h ≤ m.rd (PVT_HR_QUOTA_T2_QUOTA h) * 2 ^ 20 then
    { m with quotaWalk := m.quotaWalk.filter (· != h.val) }.raise PVT_EVENT_QUOTA_DONE
  else m

def execQuotaDone (h : Hedge) (s : State) : Res := act (quotaDone h) s

/-- A member is declared dead (R282, R283, R289): it is departed from now on; snoops that wait for it on lines it shares,
or whose write-back has been taken, are over; a line it holds Modified waits for the walk. -/
def Mach.memberDead (m : Mach) (h i cause : Nat) : Mach :=
  if bit (m.departed h) i then m
  else
    let m := m.wr (PVT_HR_DEPARTED_MASK h) (withBit (m.departed h) i true)
    let m := (((m.wr PVT_DEAD_LAST_HEDGEROW h).wr PVT_DEAD_LAST_MEMBER i).wr PVT_DEAD_LAST_CAUSE cause).raise PVT_LOSS_EVENT_MEMBER_DEAD
    let m := { m with deadWalks := m.deadWalks ++ [({ hr := h, member := i } : DeadWalk)],
                      validWritten := m.validWritten.filter (· != h * 64 + i),
                      tenures := m.tenures.filter fun x => !(keyHr (x / 64) == h && x % 64 == i) }
    m.lines.foldl (fun m ((k, l) : Nat × Line) =>
      if keyHr k = h ∧ (SMap.find l.snoops i).isSome ∧ (!l.wasM ∨ l.wb.isSome) then
        (m.updLine k fun l => { l with snoops := SMap.del l.snoops i }).lineTry k
      else m) m

/-- MEMBER_DEAD (R282). A link timeout or a surprise removal does not count from a core reset to stage F, nor from the DORMANT commit point
to the end of the wake (R93, R567). -/
def memberDead (h : Hedge) (i : Fin 64) (cause : Fin 4) (m : Mach) : Mach :=
  let held := cause.val < 2 && (m.rd WKT_BOOT_STATUS_STAGE != 3 || m.boot.orderly.isSome || m.pw.committed)
  if m.flag (PVT_MEMBER_VALID h i) && !held then m.memberDead h i cause else m

def execMemberDead (h : Hedge) (i : Fin 64) (cause : Fin 4) (s : State) : Res := act (memberDead h i cause) s

/-- Whether a slot names a port or fabric ID, with VALID 1 or its walk still running (R234). -/
def Mach.slotNames (m : Mach) (h i : Nat) (kind : Bool) (id : Nat) : Bool :=
  (m.flag (PVT_MEMBER_VALID h i) || m.deadWalks.any fun w => w.hr == h && w.member == i) &&
  m.flag (PVT_MEMBER_KIND h i) == kind && m.rd (PVT_MEMBER_ID h i) == id

/-- PVT_MEMBER_WRITE (R234, R267): a write of a slot's `PVT_MEMBER`, or of its `PVT_MEMBER_BIAS`. -/
def pvtMemberWrite (h : Hedge) (i : Fin 64) (bias : Bool) (v : Word) (m : Mach) : Mach :=
  let w := v.toNat
  let valid := m.flag (PVT_MEMBER_VALID h i)
  let kind := bit w 1
  let id := w / 16 % 4096
  let no := m.raise PVT_EVENT_CFG_REFUSED
  if bias then (if valid && w != m.rd (PVT_MEMBER_BIAS_HPA_BIAS h i) then no else m.wr (PVT_MEMBER_BIAS_HPA_BIAS h i) w)
  else if valid then
    if kind != m.flag (PVT_MEMBER_KIND h i) || id != m.rd (PVT_MEMBER_ID h i) then no
    else if bit w 0 then { m with validWritten := m.validWritten ++ [h.val * 64 + i.val] }
    else (m.memberDead h i 3).wr (PVT_MEMBER_VALID h i) 0
  else
    let walking := m.deadWalks.any fun x => x.hr == h.val && x.member == i.val
    let taken := (List.range 4).any fun h' => (List.range 64).any fun i' =>
      !(h' == h.val && i' == i.val) && m.slotNames h' i' kind id
    if bit w 0 && (walking || taken || (!kind && !m.isUp id)) then no
    else
      let m := ((m.wr (PVT_MEMBER_VALID h i) (w % 2)).wrB (PVT_MEMBER_KIND h i) kind).wr (PVT_MEMBER_ID h i) id
      if bit w 0 then { m with validWritten := m.validWritten ++ [h.val * 64 + i.val] } else m

def execPvtMemberWrite (h : Hedge) (i : Fin 64) (bias : Bool) (v : Word) (s : State) : Res := act (pvtMemberWrite h i bias v) s

/-- PVT_CTRL_WRITE (R268). -/
def pvtCtrlWrite (v : BitVec 32) (m : Mach) : Mach :=
  if !bit v.toNat 0 && (List.range 4).any (fun h => m.flag (PVT_HR_CFG_ENABLE h)) then m.raise PVT_EVENT_CFG_REFUSED
  else m.wrB PVT_CTRL_ENABLE (bit v.toNat 0)

def execPvtCtrlWrite (v : BitVec 32) (s : State) : Res := act (pvtCtrlWrite v) s

/-- Bytes of each channel that tier 2 and the shadow take (R259, R291). -/
def t2Bytes (n : Nat) (mirror : Bool) : Nat :=
  if mirror then 2 ^ n * 32 / 8 + 16 * 2 ^ 20 else 2 ^ n * 16 / 8 + 8 * 2 ^ 20

/-- PVT_T2_CFG_WRITE (R257, R259). -/
def pvtT2CfgWrite (v : BitVec 32) (m : Mach) : Mach :=
  let n := v.toNat % 32
  let mir := bit v.toNat 5
  let changes := n != m.rd PVT_T2_CFG_LOG2_ENTRIES || mir != m.flag PVT_T2_CFG_MIRROR
  if m.flag PVT_CTRL_ENABLE || !(n == 0 || 20 ≤ n) || (changes && !m.t2.isEmpty) ||
     (n != 0 && t2Bytes n mir + 2 * 2 ^ 20 > Config.channelBytes) then m.raise PVT_EVENT_CFG_REFUSED
  else (m.wr PVT_T2_CFG_LOG2_ENTRIES n).wrB PVT_T2_CFG_MIRROR mir

def execPvtT2CfgWrite (v : BitVec 32) (s : State) : Res := act (pvtT2CfgWrite v) s

/-! ### Dead hosts (R285 to R290) -/

/-- A dead member whose walk may proceed: its port's flush has raised FLUSH_DONE (R285). -/
def Mach.walkable (m : Mach) (w : DeadWalk) : Bool :=
  match m.memberPort w.hr w.member with | some p => !(m.px p).flushing | none => true

/-- DEAD_HOST_WALK (R285, R286): every line that a walkable departed member holds Modified is poisoned and logged; a snoop
that waits for it is over. -/
def deadHostWalk (m : Mach) : Mach :=
  let ws := m.deadWalks.filter m.walkable
  let owned := fun (e : PvtEnt) => e.m && ws.any fun w => w.hr == keyHr e.key && bit e.pres w.member
  let held := m.lines.filterMap fun (_, l) => l.held
  let lost := ((m.t1.map (·.2)) ++ (m.t2.map (·.2)) ++ held).filter owned
  let m := lost.foldl (fun m e =>
    let wb := match m.line e.key with | some l => l.wb.isSome | none => false
    let m := if wb then m else m.lineLost e.key e.owner 1
    (m.updLine e.key fun l => { l with snoops := SMap.del l.snoops e.owner }).lineTry e.key) m
  { m with deadWalks := m.deadWalks.map fun w => if m.walkable w then { w with passed := true } else w }

def execDeadHostWalk (s : State) : Res := act deadHostWalk s

/-- WALK_DONE (R285). -/
def walkDone (h : Hedge) (i : Fin 64) (m : Mach) : Mach :=
  if m.deadWalks.any fun w => w.hr == h.val && w.member == i.val && w.passed then
    { m with deadWalks := m.deadWalks.filter fun w => !(w.hr == h.val && w.member == i.val) }.raise PVT_LOSS_EVENT_WALK_DONE
  else m

def execWalkDone (h : Hedge) (i : Fin 64) (s : State) : Res := act (walkDone h i) s

/-- DEPARTED_CLEAR (R288). -/
def departedClear (h : Hedge) (i : Fin 64) (m : Mach) : Mach :=
  let walking := m.deadWalks.any fun w => w.hr == h.val && w.member == i.val
  if !walking && (m.memberUp h i || m.validWritten.contains (h.val * 64 + i.val)) then
    m.wr (PVT_HR_DEPARTED_MASK h) (withBit (m.departed h) i false)
  else m

def execDepartedClear (h : Hedge) (i : Fin 64) (s : State) : Res := act (departedClear h i) s

/-- SNOOP_TIMEOUT (R289): the member's hold on this line alone is over; a Modified line is poisoned and logged. -/
def snoopTimeout (h : Hedge) (addr : Nat) (i : Fin 64) (m : Mach) : Mach :=
  let k := lineKey h addr
  match m.line k with
  | none => m
  | some l => match SMap.find l.snoops i with
    | none => m
    | some sn =>
      if sn.st ≠ .sent then m
      else
        let m := (m.raise PVT_LOSS_EVENT_SNOOP_TIMEOUT).count (CNT_PVT h 19) 1
        let m := match m.rawEnt k with
          | some e =>
            if e.m && bit e.pres i then (if l.wb.isSome then m else m.lineLost k i 2)
            else m.putEnt k e.m (withBit e.pres i false)
          | none => m
        (m.updLine k fun l => { l with snoops := SMap.del l.snoops i }).lineTry k

def execSnoopTimeout (h : Hedge) (addr : Nat) (i : Fin 64) (s : State) : Res := act (snoopTimeout h addr i) s

/-- SNOOP_RESEND (R289): the member's link is up again. -/
def snoopResend (h : Hedge) (addr : Nat) (i : Fin 64) (m : Mach) : Mach :=
  let k := lineKey h addr
  match m.line k with
  | none => m
  | some l => match SMap.find l.snoops i with
    | some sn => if sn.st = .down && m.memberUp h i then m.snoop k i sn.inv else m
    | none => m

def execSnoopResend (h : Hedge) (addr : Nat) (i : Fin 64) (s : State) : Res := act (snoopResend h addr i) s

/-- PVT_LOST_TAIL_WRITE (R290). -/
def pvtLostTailWrite (v : BitVec 32) (m : Mach) : Mach := m.wr PVT_LOST_TAIL_COUNT v.toNat

def execPvtLostTailWrite (v : BitVec 32) (s : State) : Res := act (pvtLostTailWrite v) s

/-! ### Shadow and recovery (R291 to R296, R576, R577) -/

/-- The image of a tier-1 set. -/
def Mach.setImage (m : Mach) (set : Nat) : SMap PvtEnt := m.t1.filter fun (i, _) => i / 16 == set

/-- The set that a ring record names. -/
def RingRec.set : RingRec → Nat
  | .changed s => s
  | .alloc k => t1Set k
  | .victim k => t1Set k

/-- SHADOW_FLUSH (R291): the image of every set that a record names goes to the shadow; the records are released, and
changes that waited for the ring go on. -/
def shadowFlush (m : Mach) : Mach :=
  let sets := (m.ring.map RingRec.set).eraseDups
  let sh := sets.foldl (fun sh s => SMap.set [] sh s (m.setImage s)) m.shadow
  let m := { m with shadow := sh, ring := [], changed := [] }
  m.lines.foldl (fun m (k, _) => m.lineTry k) m

def execShadowFlush (s : State) : Res := act shadowFlush s

/-- The recovery lines of a set (R293): from its shadow image and from the ring's records of lines. -/
def Mach.recoveryLines (m : Mach) (set : Nat) : List Nat :=
  let sh := (SMap.get [] m.shadow set).map fun (_, e) => e.key
  let rg := m.ring.filterMap fun r => match r with
    | .alloc k => if t1Set k = set then some k else none
    | .victim k => if t1Set k = set then some k else none
    | .changed _ => none
  (sh ++ rg).eraseDups

/-- PRIVET_RECOVERY (R293): the shadow image of every set that no record names is loaded; the others are listed with their
recovery lines. -/
def privetRecovery (m : Mach) : Mach :=
  if m.recovering then m
  else
    let sets := (m.ring.map RingRec.set).eraseDups
    let t1 := m.shadow.foldl (fun t (s, im) => if sets.contains s then t else im.foldl (fun t (i, e) => SMap.ins t i e) t) m.t1
    let rec_ := sets.foldl (fun r s => let l := m.recoveryLines s; if l.isEmpty then r else SMap.ins r s l) m.recover
    { m with t1 := t1, recover := rec_, recovering := true, ring := [], changed := [] }

def execPrivetRecovery (s : State) : Res := act privetRecovery s

/-- RECOVERY_DONE (R293). -/
def recoveryDone (m : Mach) : Mach :=
  if m.recovering && m.recover.isEmpty then { m with recovering := false }.raise PVT_LOSS_EVENT_RECOVERY_DONE else m

def execRecoveryDone (s : State) : Res := act recoveryDone s

/-- TIER1_UNCORRECTABLE (R295): the entry's set becomes a recovery set. -/
def tier1Uncorrectable (set : Fin 262144) (way : Fin 16) (m : Mach) : Mach :=
  let i := set.val * 16 + way.val
  match SMap.find m.t1 i with
  | none => m
  | some e =>
    let m := m.error { cls := .corrected, block := 4, code := 2, loc := set.val % 64 + way.val * 64 }
    let l := (m.recoveryLines set ++ (m.setImage set).map (fun ((_, x) : Nat × PvtEnt) => x.key) ++ [e.key]).eraseDups
    { m with t1 := SMap.del m.t1 i, recover := SMap.ins m.recover set l }

def execTier1Uncorrectable (set : Fin 262144) (way : Fin 16) (s : State) : Res := act (tier1Uncorrectable set way) s

/-- Privet's state in local DDR5 is lost (R296): tier 2, the shadow and the lost-line log; every hedgerow is disabled. -/
def Mach.stateLost (m : Mach) : Mach :=
  let m := (List.range 4).foldl (fun m h => m.wr (PVT_HR_CFG_ENABLE h) 0) { m with t2 := [], shadow := [], quotaWalk := [] }
  (m.raise PVT_LOSS_EVENT_STATE_LOST).error { cls := .contained, block := 4, code := 9 }

/-- STATE_LOST (R296). -/
def execStateLost (s : State) : Res := act Mach.stateLost s

/-- SPARE_WAY_MAP (R576): the way's entries in the bank are spilled; a spare takes its place, or the way leaves
allocation. -/
def spareWayMap (bank : Fin 64) (way : Fin 16) (m : Mach) : Mach :=
  let out := m.t1.filter fun (i, _) => i / 16 % 64 == bank.val && i % 16 == way.val
  let m := out.foldl (fun m ((i, e) : Nat × PvtEnt) => match m.spill e with
    | some m' => { (m'.ringChange (i / 16)) with t1 := SMap.del m'.t1 i }
    | none => { m with toEvict := m.toEvict ++ [e.key] }) m
  let used := SMap.get 0 m.sparesUsed bank
  let m := if used < 2 then { m with sparesUsed := SMap.set 0 m.sparesUsed bank (used + 1) }
           else { m with deadWays := m.deadWays ++ [bank.val * 16 + way.val] }
  m.error { cls := .corrected, block := 4, code := 3, loc := bank.val + way.val * 64 }

def execSpareWayMap (bank : Fin 64) (way : Fin 16) (s : State) : Res := act (spareWayMap bank way) s

/-- LOST_BUCKET (R577): the bucket is written back empty, its summary counters as they were; a full table is a loss of
Privet's state. -/
def lostBucket (b : Nat) (m : Mach) : Mach :=
  if !m.t2On || b ≥ 2 ^ (m.rd PVT_T2_CFG_LOG2_ENTRIES - 2) then m
  else if m.lostBuckets.contains b then { m with t2 := SMap.drop m.t2 (b * 4) (b * 4 + 4) }
  else if m.lostBuckets.length ≥ 256 then m.stateLost
  else { m with lostBuckets := m.lostBuckets ++ [b], t2 := SMap.drop m.t2 (b * 4) (b * 4 + 4) }.error
    { cls := .corrected, block := 4, code := 5, loc := b % 8 * 64 }

def execLostBucket (b : Nat) (s : State) : Res := act (lostBucket b) s

/-! ### Adaptive speculation (R306 to R308) -/

/-- Switch a domain's speculation. -/
def Mach.setSpec (m : Mach) (d : Nat) (off : Bool) : Mach :=
  m.wr (LVR_SPEC_STATE_OFF (d / 32)) (withBit (m.rd (LVR_SPEC_STATE_OFF (d / 32))) (d % 32) off)

/-- SPEC_WINDOW_CLOSE (R307). -/
def specWindowClose (d : Dom) (m : Mach) : Mach :=
  let w := SMap.get {} m.specWin d
  let size := 2 ^ max 6 (m.rd LVR_SPEC_CFG_WINDOW_LOG2)
  if !m.flag LVR_SPEC_CFG_ADAPT_EN || w.eligible < size then m
  else
    let m := { m with specWin := SMap.del m.specWin d }
    let sw := fun (m : Mach) (off : Bool) => ((m.setSpec d off).wr LVR_SPEC_LAST_DOMAIN d).wrB LVR_SPEC_LAST_OFF off
    if m.specOn d && w.conflicts * 256 > m.rd LVR_SPEC_CFG_HI * size then (sw m true).raise LVR_SPEC_EVENT_SPEC_OFF
    else if !m.specOn d && w.conflicts * 256 < m.rd LVR_SPEC_CFG_LO * size then (sw m false).raise LVR_SPEC_EVENT_SPEC_ON
    else m

def execSpecWindowClose (d : Dom) (s : State) : Res := act (specWindowClose d) s

/-- LVR_SPEC_CFG_WRITE (R308, R319). -/
def lvrSpecCfgWrite (v : BitVec 32) (m : Mach) : Mach :=
  let w := v.toNat
  if w / 2 ^ 16 % 256 ≥ w / 2 ^ 8 % 256 then m.raise LVR_SPEC_EVENT_CFG_REFUSED
  else
    let was := m.flag LVR_SPEC_CFG_ADAPT_EN
    let m := (((m.wrB LVR_SPEC_CFG_ADAPT_EN (bit w 0)).wr LVR_SPEC_CFG_WINDOW_LOG2 (w / 16 % 16)).wr
      LVR_SPEC_CFG_HI (w / 2 ^ 8 % 256)).wr LVR_SPEC_CFG_LO (w / 2 ^ 16 % 256)
    if !bit w 0 then { m.resetRegs (LVR_SPEC_STATE 0) (LVR_SPEC_STATE 128) with specWin := [] }
    else if !was then { m with specWin := [] } else m

def execLvrSpecCfgWrite (v : BitVec 32) (s : State) : Res := act (lvrSpecCfgWrite v) s

/-! ### Atomics (R313 to R317) -/

/-- ATOMIC_OP: the flow of R313 starts on a line that is not held; in a hold the atomic is performed on the line buffer,
ahead of the requests it passes (R316). -/
def atomicOp (key : Nat) (m : Mach) : Mach :=
  match m.entry key with
  | none => m
  | some e => match e.req.kind with
    | .atomic _ _ _ _ =>
      let k := e.x.line
      match m.flowReady key with
      | some k => m.flowStart k key e.req.kind
      | none => match m.line k with
        | some l =>
          match l.by_, l.hold && l.queue.contains key with
          | .entry holder, true =>
            let passed := l.queue.takeWhile (· != key)
            let m := m.setLine k { l with queue := l.queue.filter (· != key) }
            (passed.foldl Mach.loss (m.atomicDo k key holder)).release key
          | _, _ => m
        | none => m
    | _ => m

def execAtomicOp (key : Nat) (s : State) : Res := act (atomicOp key) s

/-- ATOMIC_HOLD_END (R315): the tenure has passed since the first operation. -/
def atomicHoldEnd (h : Hedge) (addr : Nat) (m : Mach) : Mach :=
  let k := lineKey h addr
  match m.line k with
  | some l =>
    if l.hold then
      let m := m.setLine k { l with hold := false }
      match l.by_ with
      | .entry key => (match m.entry key with | some e => if m.written key e then m.release key else m | none => m)
      | .evict => m
    else m
  | none => m

def execAtomicHoldEnd (h : Hedge) (addr : Nat) (s : State) : Res := act (atomicHoldEnd h addr) s

end Sys2Proof.Machine
end

