-- ==== Sys2Proof/Machine/Flush.lean ====
section
/-! DEFINITION. Sys2Proof/Machine/Flush.lean: what a port's going down does (R225 to R227, R200, R636), Viral (R585), and
the containment of a port. -/
namespace Sys2Proof.Machine

/-! ### Viral (R585) -/

/-- Signal Viral on an upstream port where it is enabled: its status bits are set. -/
def Mach.viral (m : Mach) (p : Nat) : Mach :=
  let i := p / 32
  if bit (m.rd (ERR_VIRAL_EN_PORTS i)) (p % 32) && m.isUp p then
    let m := m.wr (ERR_VIRAL_STATUS_PORTS i) (withBit (m.rd (ERR_VIRAL_STATUS_PORTS i)) (p % 32) true)
    (m.updPx p fun x => { x with viral := true }).send (.viral p)
  else m

/-- Viral for a lost CXL.mem write of a domain. -/
def Mach.viralDom (m : Mach) (d : Nat) : Mach := (m.domPorts d).foldl Mach.viral m

/-- A write is lost at a flush (R225, code 0x1,7): recorded, with Viral for a CXL.mem write. -/
def Mach.writeLost (m : Mach) (e : Trk) (p : Nat) : Mach :=
  let m := m.error { cls := .contained, block := 1, code := 7, port := some p, dom := some e.dom, addr := e.req.addr }
  if e.req.kind = .ioWrite ∨ e.req.zitch then m else m.viralDom e.dom

/-! ### Port-down flush (R225) -/

/-- The other member of a mirror pair, as a target. -/
def Mach.otherMember (m : Mach) (x : Xlat) : Option Xlat :=
  match x.pair with
  | none => none
  | some i =>
    let p := m.mirPair i
    let j := 1 - x.member
    if p.st j = .inSync then
      let b := p.mem j
      some { x with port := b.port, ld := if b.mld then some b.ld else none,
                    dpa := b.dpaBase + (x.dpa - (p.mem x.member).dpaBase), member := j }
    else none

/-- A tracker entry's request is taken back from a port: its tags there, its outstanding mark. -/
def Mach.takeBack (m : Mach) (key p : Nat) : Mach :=
  let m := { m with tags := m.tags.filter fun (_, v) => v != key * 1024 + p }
  m.updEntry key fun e => { e with outs := e.outs.erase p }

/-- A private request ends at a lost device: answered as R225 gives, and its entry is free. -/
def Mach.endLost (m : Mach) (key : Nat) (e : Trk) (p : Nat) : Mach :=
  let m := if e.req.kind.writes then m.writeLost e p else m
  (m.answer key (e.req.failRsp .ur) .lost none).release key

/-- One tracker entry with a request outstanding at a port that went down (R225, R304): a mirror-pair read is reissued to the
other member; a mirror-pair write needs only the other member; a shared line's request goes on with a synthesised result;
any other is answered. -/
def Mach.flushEntry (m : Mach) (p key : Nat) : Mach :=
  match m.entry key with
  | none => m
  | some e =>
    let m := m.takeBack key p
    let write := e.req.kind.writes || e.phase == .writing
    match write, m.otherMember e.x with
    | false, some x =>
      (m.updEntry key fun e => { e with x := { e.x with port := x.port, ld := x.ld, dpa := x.dpa, member := x.member }, reissued := true }).issue
        key e.req.kind.atDevice e.req.data e.req.mask e.req.poison false
    | _, _ =>
      if write && e.x.pair.isSome then
        let left := match m.entry key with | some e => !e.outs.isEmpty | none => false
        if left then m
        else if e.x.coh.isSome then m.updEntry key fun e => { e with arrived := e.arrived ++ [.cmp 0] }
        else (m.answer key (.cmp 0) .real none).release key
      else if e.x.coh.isSome then
        if write then (m.writeLost e p).updEntry key fun e => { e with arrived := e.arrived ++ [.cmp 0] }
        else m.updEntry key fun e => { e with arrived := e.arrived ++ [.data 0 true 0], synth := true }
      else m.endLost key e p

/-- A speculative read outstanding at the port (R303, R304): a discarded one is over; any other ends with a synthesised
result. -/
def Mach.flushSpec (m : Mach) (p key : Nat) : Mach :=
  match m.entry key with
  | none => m
  | some e =>
    let m := { m with tags := m.tags.filter fun (_, v) => v != key * 1024 + p }
    if e.phase = .draining then m.freeEntryAt key
    else if e.gate = .discarded then m.setEntry key { e with specTag := none }
    else m.setEntry key { e with specTag := none, arrived := e.arrived ++ [.data 0 true 0], synth := true }

/-- Drop the messages toward a port from one queue: responses are discarded and counted; posted requests count as finished
for those behind them (R222). -/
def Mach.dropPkts (m : Mach) (p : Nat) (reserved : Bool) (l : List Pkt) : Mach × List Pkt :=
  let gone := l.filter fun k => k.port == p
  let m := gone.foldl (fun (m : Mach) (k : Pkt) =>
    let m := if reserved then m.setOcc p k.vc (m.occ p k.vc - k.cells) else m.ibFree k.srcPort k.srcVc k.slots
    let m := m.classDone k
    let i := tileOf p * 1024 + k.srcPort
    let m := if k.posted then
        let m := { m with postedTx := SMap.set 0 m.postedTx i (SMap.get 0 m.postedTx i + 1) }
        match k.entry.bind m.entry, k.entry with
        | some e, some key => (m.writeLost e p).freeEntryAt key
        | _, _ => m
      else m
    if k.rsp.isSome || k.posted then m.addSat (TILE_FLUSH_COUNT_DISCARDS (tileOf p)) 1 else m) m
  (m, l.filter fun k => k.port != p)

/-- The waiting requests that a flush leaves; the tracker entries, those of the port as orphans. -/
def Mach.dropWaiting (m : Mach) (f : Req → Bool) : SMap (List Waiting) :=
  (m.trkWait.map fun (k, l) => (k, l.filter fun w => !f w.req)).filter fun (_, l) => !l.isEmpty
def Mach.orphans (m : Mach) (f : Req → Bool) : SMap Trk :=
  m.trk.map fun (k, e) => if f e.req then (k, { e with orphan := true }) else (k, e)

/-- Snoops outstanding toward a port that went down wait for its link (R289). -/
def Mach.holdSnoops (m : Mach) (p k : Nat) (l : Line) : Line :=
  let f := fun (x : Nat × Snoop) =>
    if x.2.st = .sent ∧ m.memberPort (keyHr k) x.1 = some p then (x.1, { x.2 with st := SnoopSt.down }) else x
  { l with snoops := l.snoops.map f }

/-- The port-down flush (R225 to R227): what holds no tracker entry is discarded and counted; requests from the port run on
without a response; everything outstanding at the port is answered; snoops toward it wait (R289); a mirror member behind
it fails (R334). FLUSH_DONE follows as its own step. -/
def Mach.portDown (m : Mach) (p : Nat) : Mach :=
  let wasUp := m.linkUp p
  if !wasUp && (m.px p).flushing then m
  else
    let m := (m.wr (TILE_PORT_STATUS_LINK_UP p) 0).raiseIf wasUp (TILE_PORT_EVENT_LINK_DOWN p)
    let m := m.updPx p fun x => { x with flushing := true, e7Up := false }
    let from_ := fun (r : Req) => match r.src with | .port q => q == p | .fabric q _ => q == p | _ => false
    let n := (m.trkWait.map fun (_, l) => (l.filter fun w => from_ w.req).length).sum
    let m := m.addSat (TILE_FLUSH_COUNT_DISCARDS (tileOf p)) (n + (SMap.get [] m.pipes p).length)
    let m := (SMap.get [] m.pipes p).foldl (fun (m : Mach) (x : Pipe) => m.freeSlots x.req) m
    let m := m.trkWait.foldl (fun (m : Mach) (x : Nat × List Waiting) =>
      (x.2.filter fun w => from_ w.req).foldl (fun (m : Mach) w => m.freeSlots w.req) m) m
    let m := { m with pipes := SMap.del m.pipes p, trkWait := m.dropWaiting from_,
                      trk := m.orphans from_,
                      linkCr := SMap.drop m.linkCr (p * 8) (p * 8 + 8) }
    -- messages toward the port, in the output queues, behind class changes, and in the egress buffer
    let m := m.voqs.foldl (fun (m : Mach) (kv : Nat × Voq) =>
      let (m, l) := m.dropPkts p false (m.voq kv.1).q
      m.setVoq kv.1 { m.voq kv.1 with q := l }) m
    let m := m.classes.foldl (fun (m : Mach) (kc : Nat × ClassRec) =>
      let c : ClassRec := SMap.get {} m.classes kc.1
      let gone := c.fence.filter fun (k : Pkt) => k.port == p && k.rsp.isSome
      let m := m.addSat (TILE_FLUSH_COUNT_DISCARDS (tileOf p)) gone.length
      { m with classes := SMap.set {} m.classes kc.1 { c with fence := c.fence.filter fun k => k.port != p } }) m
    let m := m.egress.foldl (fun (m : Mach) (ke : Nat × List Pkt) =>
      let (m, l) := m.dropPkts p true ke.2
      { m with egress := SMap.set [] m.egress ke.1 l }) m
    let m := m.mirFailPort p none
    let hit := (m.trk.filter fun (x : Nat × Trk) => x.2.outs.contains p).map fun (x : Nat × Trk) => x.1
    let m := hit.foldl (fun (m : Mach) (key : Nat) => m.flushEntry p key) m
    let spec := (m.tags.filter fun (_, v) => v % 1024 == p).map fun (_, v) => v / 1024
    let m := spec.foldl (fun (m : Mach) (key : Nat) => m.flushSpec p key) m
    ({ m with lines := m.lines.map fun (k, l) => (k, m.holdSnoops p k l) }).mirRelease

/-- The flush is over (R225): FLUSH_DONE is raised, and the port takes requests again. -/
def Mach.flushDone (m : Mach) (p : Nat) : Mach :=
  if (m.px p).flushing then
    (m.updPx p fun x => { x with flushing := false }).raise (TILE_CORE_EVENT_FLUSH_DONE (tileOf p))
  else m

/-! ### Containment (R200, R636) -/

/-- Contain a port as port-fatal: the error is reported where R199 gives; a link that was up is taken down, and held down
by DPC of the bound vPPB where it is enabled there, else by LINK_DIS. -/
def Mach.contain (m : Mach) (p block code : Nat) : Mach :=
  let m := (m.error { cls := .portFatal, block := block, code := code, port := some p }).portLog p block code
  let m := m.raise (TILE_PORT_EVENT_CONTAINED p)
  let up := m.linkUp p
  let m := match m.bound p with
    | some b =>
      if (m.vp b.up b.vppb).dpcEn && !m.portPooled p then
        let m := (m.updVp b.up b.vppb fun v => { v with dpcTrig := true }).wr (TILE_PORT_STATUS_DPC p) 1
        if up then m.updPx p fun x => { x with held := true } else m
      else if !up then m
      else if m.isZitch p then m.wr (TILE_ZL_CTRL_LINK_DIS p) 1 else m.wr (TILE_PORT_CTRL_LINK_DIS p) 1
    | none =>
      if !up then m
      else if m.isZitch p then m.wr (TILE_ZL_CTRL_LINK_DIS p) 1 else m.wr (TILE_PORT_CTRL_LINK_DIS p) 1
  if up then m.portDown p else m

/-- A port trains only once its flush is over, and nothing holds it down (R636). -/
def Mach.mayTrain (m : Mach) (p : Nat) : Bool :=
  m.portExists p && !m.gated (tileOf p) && !(m.px p).flushing && !(m.px p).held && !m.linkDis p && !(m.px p).fmPerst && m.pins.vlanePg

end Sys2Proof.Machine
end

