-- ==== Sys2Proof/Machine/SlotOps.lean ====
section
/-! DEFINITION. Sys2Proof/Machine/SlotOps.lean: the slot channels as a state machine (19), and the PERST# of the ports
that own them (R193 to R198). -/
namespace Sys2Proof.Machine

/-! ### Ports and their channels -/

/-- The channel that powers a port, where it has a slot: 0 to 63 standard, 64 to 71 privileged. -/
def Mach.slotOf (m : Mach) (p : Nat) : Option Nat :=
  if m.portExists p && m.flag (TILE_PORT_SLOT_SLOT_EN p) then
    some (if m.flag (TILE_PORT_SLOT_PRIV p) then 64 + m.rd (TILE_PORT_SLOT_CHANNEL p) % 8 else m.rd (TILE_PORT_SLOT_CHANNEL p))
  else none

/-- The ports that own a channel (R548). -/
def Mach.owners (m : Mach) (c : Nat) : List Nat := (List.range 1024).filter fun p => m.slotOf p == some c

/-- Assert a port's PERST# (R195). -/
def Mach.perstLow (m : Mach) (p : Nat) : Mach :=
  let m := m.updPx p fun x => { x with pvperl := false }
  if m.flag (TILE_PORT_SLOT_PERST_SRC p) then m.expDrive (m.rd (TILE_PORT_SLOT_PERST_BIT p)) false
  else { m with pins := { m.pins with portPerstN := BitVec.ofNat 64 (withBit m.pins.portPerstN.toNat (tileOf p) false) } }

/-- The slot of a port is powered and good, and no power-off is under way. -/
def Mach.slotGood (m : Mach) (p : Nat) : Bool :=
  match m.slotOf p with
  | some c => m.flag (SPC_STATUS_PG c) && !(m.px p).offPending
  | none => true

/-- PORT_PERST_N of a tile may be high (R197): every port that shares it is powered and good. -/
def Mach.tilePerstFree (m : Mach) (t : Nat) : Bool :=
  ((List.range 16).map fun o => t * 16 + o).all fun p =>
    (m.slotOf p).isNone || m.flag (TILE_PORT_SLOT_PERST_SRC p) || m.slotGood p

/-- Deassert a port's PERST#, as far as the ports that share its pin allow (R195, R197). -/
def Mach.perstHigh (m : Mach) (p : Nat) : Mach :=
  if (m.px p).fmPerst then m
  else if m.flag (TILE_PORT_SLOT_PERST_SRC p) && (m.slotOf p).isSome then m.expDrive (m.rd (TILE_PORT_SLOT_PERST_BIT p)) true
  else if m.tilePerstFree (tileOf p) then
    { m with pins := { m.pins with portPerstN := BitVec.ofNat 64 (withBit m.pins.portPerstN.toNat (tileOf p) true) } }
  else m

/-- A bound port's slot status reports through its vPPB. -/
def Mach.updSlotVp (m : Mach) (p : Nat) (f : Vppb → Vppb) : Mach :=
  if m.flag (TILE_PORT_STATUS_MLD p) then m
  else match m.bindOf p 0 with | some b => m.updVp b.up b.vppb f | none => m

/-! ### A channel -/

def Mach.sx (m : Mach) (c : Nat) : SlotX := SMap.get {} m.slots c
def Mach.updSx (m : Mach) (c : Nat) (f : SlotX → SlotX) : Mach := { m with slots := SMap.set {} m.slots c (f (m.sx c)) }

/-- STATE of a channel: 0 Off, 1 Waiting, 2 Ramping, 3 Qualifying, 4 Power good, 5 Retry wait. -/
def Mach.spcSt (m : Mach) (c : Nat) : Nat := m.rd (SPC_STATUS_STATE c)

/-- Stop the fault timer (R534, R537, R541): PG_WARN clears, a qualification interval starts again. -/
def Mach.timerStop (m : Mach) (c : Nat) : Mach :=
  (((m.wr (SPC_STATUS_TIMER c) 0).wr (SPC_STATUS_PG_WARN c) 0)).updSx c fun x =>
    { x with timer := 0, clear := 0, fault := 0, qual := false }

/-- Leave the conducting states: the gate is at its source, power good is low. -/
def Mach.gateOff (m : Mach) (c st : Nat) : Mach :=
  let m := (m.timerStop c).wr (SPC_STATUS_LIMITING c) 0
  let m := (m.wr (SPC_STATUS_PG c) 0).wr (SPC_STATUS_STATE c) st
  { m with slotWait := m.slotWait.filter (· != c) }

/-- Begin to wait for admission (R531, R546). -/
def Mach.spcWait (m : Mach) (c : Nat) : Mach :=
  let m := (m.gateOff c 1).wr (SPC_CTRL_ON c) 1
  { m with slotWait := m.slotWait ++ [c] }

/-- ON is written to 1 (R531, R547): the trip cause and RETRIES clear; a channel that is off or in Retry wait begins to
wait. -/
def Mach.spcOn (m : Mach) (c : Nat) : Mach :=
  let m := (m.wr (SPC_STATUS_TRIP_CAUSE c) 0).wr (SPC_STATUS_RETRIES c) 0
  if m.spcSt c = 0 ∨ m.spcSt c = 5 then m.spcWait c else m

/-- ON is written to 0 (R532, R547). -/
def Mach.spcOff (m : Mach) (c : Nat) : Mach :=
  (((m.gateOff c 0).wr (SPC_CTRL_ON c) 0).wr (SPC_STATUS_RETRIES c) 0).updSx c fun x => { x with ins := none }

/-- What a loss of power does to a port that owns the channel (R195, R197): PERST# is asserted; a bound slot reports a
power fault; the port requests power no more. -/
def Mach.portTrip (m : Mach) (p : Nat) : Mach :=
  let m := ((m.perstLow p).updPx p fun x => { x with powerReq := false, offPending := false }).raise (TILE_PORT_EVENT_SLOT_FAULT p)
  m.updSlotVp p fun v => { v with powerFault := true, powerOff := true }

/-- A channel may retry after a trip with this cause (R547). -/
def Mach.mayRetry (m : Mach) (c cause : Nat) : Bool :=
  [1, 2, 5, 6, 7].contains cause && m.rd (SPC_STATUS_RETRIES c) < m.rd (SPC_CTRL_RETRY_MAX c) &&
  (m.owners c).all fun p => (m.bindOf p 0).isNone

/-- The insertion energy of the insertion that ends now is held (R543), in mJ, saturating. -/
def Mach.holdIns (m : Mach) (c : Nat) : Mach :=
  match (m.sx c).ins with
  | some e => (m.wr (SPC_INS_ENERGY_MJ c) (min (e / 10 ^ 9) (2 ^ 32 - 1))).updSx c fun x => { x with ins := none }
  | none => m

/-- A trip (R533, R535, R539, R547). -/
def Mach.spcTrip (m : Mach) (c cause : Nat) : Mach :=
  let m := m.holdIns c
  let m := (m.gateOff c (if m.mayRetry c cause then 5 else 0)).wr (SPC_CTRL_ON c) 0
  let m := (m.wr (SPC_STATUS_TRIP_CAUSE c) cause).raise (SPC_EVENT_TRIP c)
  let m := m.wakeEdge 3
  let m := m.error { cls := .corrected, block := 9, code := 1, loc := c * 64, port := (m.owners c).head? }
  (m.owners c).foldl Mach.portTrip m

/-- Every slot channel off with cause 8 (R46, R533): those that were on, waiting or about to retry trip. -/
def Mach.allChannelsOff (m : Mach) : Mach :=
  (List.range 72).foldl (fun m c => if m.spcSt c = 0 then m else m.spcTrip c 8) m

/-- Every PORT_PERST_N and every expander PERST# bit is asserted (R198). -/
def Mach.assertAllPerst (m : Mach) : Mach :=
  let m := { m with pins := { m.pins with portPerstN := 0 } }
  (List.range 1024).foldl (fun m p => if (m.slotOf p).isSome then m.perstLow p else m) m

/-- INRUSH_EST over the ramping channels (`ORG_STATUS.RAMP_SUM`). -/
def Mach.rampSum (m : Mach) : Nat :=
  ((List.range 72).map fun c => if m.spcSt c = 2 then m.rd (SPC_RAMP_INRUSH_EST c) else 0).sum

/-- Admit waiting channels in order (R546): each one that fits; one that fits alone in no case, only first in order and
while none ramps. -/
def Mach.stagger (m : Mach) : Bool → List Nat → Mach
  | _, [] => m
  | first, c :: rest =>
    let own := m.rd (SPC_RAMP_INRUSH_EST c)
    let cap := m.rd ORG_CTRL_BUS_INRUSH
    let none_ := (List.range 72).all fun c => m.spcSt c != 2
    if m.rampSum + own ≤ cap || (first && none_ && cap < own) then
      let m := (m.wr (SPC_STATUS_STATE c) 2).updSx c fun x => { x with ins := some 0 }
      ({ m with slotWait := m.slotWait.filter (· != c) }).stagger first rest
    else m.stagger false rest

/-! ### The feeds (R549 to R551) -/

def Mach.fx (m : Mach) (b : Bool) : FeedX := SMap.get {} m.feeds b.toNat
def Mach.updFx (m : Mach) (b : Bool) (f : FeedX → FeedX) : Mach :=
  { m with feeds := SMap.set {} m.feeds b.toNat (f (m.fx b)) }

def feedValid (b : Bool) : Fld := if b then ORG_STATUS_B_VALID else ORG_STATUS_A_VALID
def feedOn (b : Bool) : Fld := if b then ORG_STATUS_B_ON else ORG_STATUS_A_ON
def feedRev (b : Bool) : Fld := if b then ORG_STATUS_B_REV else ORG_STATUS_A_REV
def feedEn (b : Bool) : Fld := if b then ORG_CTRL_EN_B else ORG_CTRL_EN_A
def feedLostEv (b : Bool) : Fld := if b then ORG_EVENT_FEED_B_LOST else ORG_EVENT_FEED_A_LOST

/-- A feed can carry the bus as far as validity and its enable go. -/
def Mach.feedLive (m : Mach) (b : Bool) : Bool := m.flag (feedValid b) && m.flag (feedEn b)

/-- Whether a feed's FET is on under the mode in force (R550). -/
def Mach.feedWanted (m : Mach) (b : Bool) : Bool :=
  let mode := m.rd ORG_CTRL_MODE
  (m.fx b).ready && m.feedLive b &&
  (mode = 0 || mode = 3 || (mode = 2) == b || !m.feedLive (!b))

/-- Set both FETs as the mode has them. -/
def Mach.feedSet (m : Mach) : Mach :=
  let a := m.feedWanted false
  let b := m.feedWanted true
  (m.wrB ORG_STATUS_A_ON a).wrB ORG_STATUS_B_ON b

/-- A feed is lost (R549, R550): its FET turns off; in priority to it, the other one takes over. -/
def Mach.feedLost (m : Mach) (b : Bool) : Mach :=
  let pref := m.rd ORG_CTRL_MODE = (if b then 2 else 1)
  let m := (m.updFx b fun x => { x with ready := false }).raise (feedLostEv b)
  let m := m.feedSet.wakeEdge 4
  m.raiseIf (pref && m.flag (feedOn (!b))) ORG_EVENT_SWITCHOVER

/-- Clear a channel's measurements (R530). -/
def Mach.clrMeas (m : Mach) (c : Nat) : Mach :=
  ((((m.setReg (SPC_PEAK c) 0).setReg (SPC_MIN c) 0xFFFFFFFF).setReg (SPC_ENERGY_ACC c) 0)).updSx c fun x => { x with frac := 0 }

/-- Clear both feeds' measurements (R530). -/
def Mach.clrFeeds (m : Mach) : Mach :=
  [false, true].foldl (fun m b =>
    let f := b.toNat
    (((m.setReg (ORG_PEAK f) 0).setReg (ORG_MIN f) 0xFFFFFFFF).setReg (ORG_ENERGY_ACC f) 0).updFx b fun x => { x with frac := 0 }) m

/-- `ORG_CTRL` takes a value (R530, R549, R550): a feed whose EN falls is lost. -/
def Mach.orgCtrl (m : Mach) (w : Nat) : Mach :=
  let was := fun b => m.flag (feedEn b)
  let m := m.setReg ORG_CTRL (BitVec.ofNat 64 (w / 2 ^ 16 % 2 ^ 16 * 2 ^ 16 + w % 16))
  let m := if was false && !m.flag (feedEn false) then m.feedLost false else m
  let m := if was true && !m.flag (feedEn true) then m.feedLost true else m
  let m := m.feedSet
  if bit w 4 then m.clrFeeds else m

end Sys2Proof.Machine
end

