-- ==== Sys2Proof/Machine/RouteOps.lean ====
section
/-! DEFINITION. Sys2Proof/Machine/RouteOps.lean: how a request enters: its domain (R322), the access check and its refusal
(R339 to R341), the route word (R458 to R460, R465), the tracker entry it takes (R208), and the requests of internal agents
(R16). -/
namespace Sys2Proof.Machine

/-! ### Domain and verdict -/

/-- The protocol of a request (R457): 0 CXL.mem, 1 CXL.io, 2 CXL.cache, 3 Zitch. -/
def Req.proto (r : Req) : Nat :=
  if r.zitch then 3
  else match r.kind with
    | .ioRead | .ioWrite => 1
    | .atomic _ _ _ _ => 1
    | .cacheMsg _ => 2
    | _ => 0

/-- The domain of a request from a port (R322). -/
def Mach.reqDom (m : Mach) (r : Req) : Option Nat :=
  match r.src with
  | .port p => SMap.find m.domPort p
  | .fabric _ f => SMap.find m.domFabric f
  | _ => none

/-- XLATE's verdict (R322, R339, R352): no domain is no match; a disabled domain's memory requests are refused with CAUSE 5. -/
def Mach.verdict (m : Mach) (r : Req) (d : Option Nat) (priv : Bool) : Verdict :=
  match d with
  | none => .refuse r.addr 1 0xFFFF
  | some d =>
    if (m.dom d).state = .disabled then .refuse r.addr 5 0xFFFF
    else m.check d priv r.kind.need r.addr r.len

/-- XLATE's first result (R458). -/
def Verdict.word (v : Verdict) (dflt : Bool) (slot : Nat) : Nat :=
  match v with
  | .allow x =>
    x.port + (match x.ld with | some l => l * 2 ^ 10 + 2 ^ 14 | none => 0) + 2 ^ 15 +
    (if x.coh.isSome then 2 ^ 16 else 0) + (if x.spec then 2 ^ 17 else 0) + x.hedge * 2 ^ 18 +
    (if dflt then 2 ^ 20 else 0) + slot % 256 * 2 ^ 24
  | .refuse _ c s => c * 2 ^ 21 + s % 256 * 2 ^ 24

/-- SOURCE of the violation record (R341): a port, or 0x8000 + the agent. -/
def ReqSrc.code : ReqSrc → Nat
  | .port p => p
  | .fabric p _ => p
  | .copy _ _ | .queue _ => 0x8000
  | .thread _ => 0x8001
  | .hinge _ => 0x8002
  | .privet => 0x8003

/-- KIND of the violation record (R341), for a request with its protocol. -/
def Req.violKind (r : Req) (agent : Nat) : Nat :=
  match r.src with
  | .port _ | .fabric _ _ => if r.proto = 1 then 1 else if r.proto = 3 then 2 else 0
  | _ => agent

/-- A refused access is recorded (R322, R341): in its domain's violation record, or, without a domain, in the journal
(assumption log 20). -/
def Mach.recordRefusal (m : Mach) (r : Req) (d : Option Nat) (addr cause slot agent : Nat) : Mach :=
  match d with
  | some d => m.violation d { addr := addr, source := r.src.code, kind := r.violKind agent, cause := cause,
                              access := r.kind.need.code, slot := slot }
  | none => m.error { cls := .contained, block := 8, code := 0, addr := addr,
                      port := match r.src with | .port p => some p | .fabric p _ => some p | _ => none }

/-- Whether a refused request gets no response: a posted write, a MemSpecRd. -/
def ReqKind.silent : ReqKind → Bool
  | .ioWrite | .memSpecRd => true
  | _ => false

/-- A response that the switch synthesises for a request without a tracker entry enters its port's egress buffer (R219,
R340, R633). -/
def Mach.synth (m : Mach) (r : Req) (p : Nat) (x : Rsp) (tc : Nat) : Mach :=
  let put := fun (x : Rsp) (m : Mach) =>
    let k : Pkt := { port := p, vc := x.vc, tc := tc, slots := x.slots r.len, srcPort := agentPort (tileOf p), srcVc := 8,
                     rsp := some x, tag := r.tag, t0 := m.now }
    (m.setOcc p k.vc (m.occ p k.vc + k.cells)).toEgress k
  match x with
  | .data _ _ _ => if r.bothRsp then put (.cmp 0) (put x m) else put x m
  | _ => put x m

/-- Refuse a request (R340, R460): recorded and answered; its ingress slots are free. -/
def Mach.refuse (m : Mach) (r : Req) (d : Option Nat) (addr cause slot agent : Nat) : Mach :=
  let m := m.recordRefusal r d addr cause slot agent
  match r.src with
  | .port p => let m := (m.count (CNT_TILE (tileOf p) 107) 1).ibFree p r.vc r.slots
               if r.kind.silent then m else m.synth r p (r.failRsp .ur) 1
  | .fabric p _ => let m := (m.count (CNT_TILE (tileOf p) 107) 1).ibFree p r.vc r.slots
                   if r.kind.silent then m else m.synth r p (r.failRsp .ur) 1
  | s => { m with agentDone := m.agentDone ++ [{ src := s, addr := addr, rsp := r.failRsp .ur, why := .refused cause }] }

/-- An atomic of a port that its source may not ask for (R309, R311): its operation or size is not in R310, or on CXL.io no AtomicOp, or it
is not aligned to its size. -/
def Req.atomicBad (r : Req) : Bool :=
  match r.kind, r.src.port? with
  | .atomic op size _ _, some _ => !atomicSupported op size || r.addr % size != 0 || (!r.zitch && !(op == 0 || op == 8 || op == 9))
  | _, _ => false

/-- Refuse an atomic that is misaligned or not supported (R311): Completer Abort, or a poisoned Zitch response. It is no refused access, so
that no record is filled. -/
def Mach.refuseAtomic (m : Mach) (r : Req) : Mach :=
  match r.src.port? with
  | some p => ((m.count (CNT_TILE (tileOf p) 107) 1).ibFree p r.vc r.slots).synth r p (r.failRsp .ca) 1
  | none => m

/-! ### Waiting for a tracker entry (R208, R346) -/

/-- An address of a domain lies in a part whose coherent coverage is being removed (R346). -/
def Mach.removing (m : Mach) (d a : Nat) : Bool :=
  m.changes.any fun c => c.needWalk && match c.change with
    | .slot e s new =>
      let old := SMap.find (m.dom e).cas s
      (e == d || (m.dom d).parent == e) && (match old with
        | some o => o.coh && o.base ≤ a && a < o.base + 2 ^ o.k && takesCoverage (some { o with base := a, k := 0, cohBase := o.cohBase + (a - o.base) }) new
        | none => false)
    | _ => false

/-- The quota class of a domain. -/
def Mach.qclass (m : Mach) (d : Nat) : Nat := (m.dom d).qclass % 16

/-- A routed request waits for its tracker entry (R208): it is the class queue's last. -/
def Mach.await (m : Mach) (w : Waiting) : Mach :=
  let t := w.req.tile w.x.port
  let q := m.qclass w.dom
  let m := if (m.waitQ t q).isEmpty && m.mayTake t q then m else m.count (CNT_TILE t 97) 1
  m.setWaitQ t q (m.waitQ t q ++ [w])

/-- Whether a request may use VC7 (R459): an agent's, or one of a Zitch port. -/
def Req.mayScavenge (r : Req) : Bool :=
  match r.src with
  | .port _ => r.zitch
  | _ => true

/-- The domain whose quota class a request uses that needs no check: its own, or that of the VCS its device is bound in. -/
def Mach.quotaDom (m : Mach) (r : Req) (d : Option Nat) : Nat :=
  match d, r.src with
  | some d, _ => d
  | none, .port p => ((m.bound p).bind fun b => m.portDom b.up).getD 0
  | none, _ => 0

/-- A request leaves its route program (R459, R460). The domain of a request that needs none is its VCS's, for its quota
class. -/
def Mach.routed (m : Mach) (r : Req) (d : Option Nat) (xl : Option Verdict) (w : RouteWord) (pbr : Option Nat)
    (nospec scav : Bool) (agent : Nat) (ep : Option Nat := none) : Mach :=
  let go := fun (m : Mach) (d : Nat) (x : Xlat) =>
    m.await { req := r, dom := d, epoch := ep.getD (m.dom d).ruleEpoch, x := x, tc := w.tc % 8, nospec := nospec,
              scavenger := scav && r.mayScavenge && (r.vc == 1 || r.vc == 2), demoted := r.kind.need.caching && m.removing d r.addr }
  if xl.isSome && w.action % 4 = 0 && r.atomicBad then m.refuseAtomic r
  else match xl with
  | some (.refuse a c s) => m.refuse r d a c s agent
  | _ =>
    if w.action % 4 = 1 then
      match r.src.port? with
      | some p => (m.send (.firmware p r.addr r.data)).freeSlots r
      | none => m
    else if w.action % 4 ≠ 0 then m.refuse r d r.addr 1 0xFFFF agent
    else match xl with
      | some (.allow x) => go m (d.getD 0) x
      | _ =>
        let bound := (r.proto = 1 || r.proto = 2) && r.egress == some w.port
        let far := pbr.isSome && (m.isFabric w.port || m.flag (TILE_PORT_CTRL_PBR_EDGE w.port))
        if bound || far then go m (m.quotaDom r d) { port := w.port, ld := if bound && r.ldId < 16 && m.flag (TILE_PORT_STATUS_MLD w.port) then some r.ldId else none, dpa := r.addr }
        else m.refuse r d r.addr 1 0xFFFF agent

/-! ### The default program (R464, R465) -/

/-- The PBR table entry's port for a request (R464): none where VALID is 0. -/
def Mach.pbrPort (m : Mach) (dst src addr : Nat) : Option Nat :=
  let e := Mem.read m.tbl (8 * (dst % 4096)) 8
  if bit e 42 then
    let h := ((src % 4096) ^^^ (addr / 2 ^ 12 % 4096) ^^^ (addr / 2 ^ 24 % 4096)) % (e / 2 ^ 40 % 4 + 1)
    some (e / 2 ^ (10 * h) % 1024)
  else none

/-- Source PBR ID of a request (R185). -/
def Mach.srcPbr (m : Mach) (r : Req) : Nat :=
  match r.src with
  | .port p => m.rd (TILE_PORT_CTRL_PBR_ID p)
  | .fabric _ f => f
  | _ => 0

/-- A requester on a port is privileged when it is a D0 host (R323). -/
def privOf (d : Option Nat) : Bool := d == some 0

/-- The default program on a request of a port (R465). -/
def Mach.routeDefault (m : Mach) (r : Req) (d : Option Nat) : Mach :=
  if r.vc = 0 then m.routed r d none { port := 0, tc := 0, action := 1 } none false false 0
  else match r.pbr with
    | some dst => match m.pbrPort dst (m.srcPbr r) r.addr with
      | some p => m.routed r d none { port := p, tc := 1, action := 0 } (some dst) false false 0
      | none => m.routed r d none { port := 0, tc := 1, action := 2 } (some dst) false false 0
    | none =>
      match (if r.proto = 1 || r.proto = 2 then r.egress else none) with
      | some p => m.routed r d none { port := p, tc := 1, action := 0 } none false false 0
      | none => m.routed r d (some (m.verdict r d (privOf d))) { port := 0, tc := 1, action := 0 } none false false 0

/-! ### Internal agents (R16, R452) -/

/-- A request of an internal agent enters (R16): it runs the default program, whose XLATE checks it for the agent's domain;
agent is KIND of R341. A disabled domain's own engines have ended with it, so the check alone decides. -/
def Mach.agentReq (m : Mach) (r : Req) (d : Nat) (priv : Bool) (agent : Nat) : Mach :=
  let v := m.check d priv r.kind.need r.addr r.len
  let t := match v with | .allow x => r.tile x.port | .refuse _ _ _ => r.tile 0
  let m := (m.count (CNT_TILE t 106) 1).count (CNT_TILE t 108) 1
  m.routed r (some d) (some v) { port := 0, tc := 1, action := 0 } none false false agent

/-- An agent's non-caching access to n bytes at an address, within one line (R237, R487): the whole line is asked for, and the
check is that of the bytes (R339). -/
def Mach.agentLine (m : Mach) (r : Req) (d : Nat) (priv : Bool) (agent n : Nat) : Mach :=
  match m.check d priv r.kind.need r.addr n with
  | .refuse a c s => m.routed r (some d) (some (.refuse a c s)) { port := 0, tc := 1, action := 0 } none false false agent
  | .allow _ => m.agentReq { r with addr := r.addr - r.addr % 64 } d priv agent

/-- A write of bytes within one line (R237): full-line, or partial with its byte mask. -/
def lineWrite (src : ReqSrc) (a : Nat) (bs : List Byte) : Req :=
  { src := src, kind := .ncWrite (bs.length == 64), addr := a, data := ofLe bs * 2 ^ (8 * (a % 64)),
    mask := (2 ^ bs.length - 1) * 2 ^ (a % 64), vc := 2 }

/-- Bytes cut at line boundaries, with their addresses. -/
def cutLines (a : Nat) : Nat → List Byte → List (Nat × List Byte)
  | 0, _ => []
  | fuel + 1, bs =>
    if bs.isEmpty then []
    else
      let n := 64 - a % 64
      (a, bs.take n) :: cutLines (a + n) fuel (bs.drop n)

/-- Take up a finished request of an agent: the oldest. -/
def Mach.takeDone (m : Mach) (f : ReqSrc → Bool) : Option (AgentDone × Mach) :=
  match m.agentDone.find? fun d => f d.src with
  | some d => some (d, { m with agentDone := m.agentDone.erase d })
  | none => none

/-! ### Tracker entries (R208, R25) -/

/-- The order number of the next entry of a tile. -/
def Mach.nextSeq (m : Mach) (t : Nat) : Nat :=
  (m.trk.filter fun (x : Nat × Trk) => x.1 / 2048 == t).foldl (fun n (x : Nat × Trk) => max n (x.2.seq + 1)) 0

/-- A waiting request takes an entry (R25, R208, R348): stamped with its domain's generation; the request of a coherent
line waits for its lookup, any other goes to its target. -/
def Mach.takeEntry (m : Mach) (t key : Nat) (w : Waiting) (q : Nat) : Mach :=
  let e : Trk := { req := w.req, dom := w.dom, gen := (m.dom w.dom).gen, epoch := w.epoch, qclass := q, x := w.x, tc := w.tc,
                   phase := .wantLookup, held := w.req.src.port?.isSome, seq := m.nextSeq t, t0 := m.now, nospec := w.nospec, scavenger := w.scavenger, demoted := w.demoted }
  let m := ((m.setEntry key e).count (CNT_DOM w.dom 0) 1).count (CNT_TILE t 96) 1
  if w.x.coh.isSome then m
  else match w.req.kind with
    | .memSpecRd => m.release key
    | _ => m.forward key

end Sys2Proof.Machine
end

