-- ==== Sys2Proof/Machine/QueueOps.lean ====
section
/-! DEFINITION. Sys2Proof/Machine/QueueOps.lean: work queues as the rows use them (14): queue memory, MSI-X of functions, the
forward scan and the entry cache, which entry starts next, completion queues with their overflow areas, and how a started
entry ends. -/
namespace Sys2Proof.Machine

/-! ### Entries as bytes (R396) -/

/-- n bytes of an entry at an offset, little-endian; bytes that it does not have read 0. -/
def bget (e : List Byte) (off n : Nat) : Nat := ofLe ((e.drop off).take n)

def entTag (e : List Byte) : Nat := bget e 0 2
def entOp (e : List Byte) : Nat := bget e 2 1
def entLen (e : List Byte) : Nat := bget e 3 1 % 16
def entOwn (e : List Byte) : Bool := bit (bget e 3 1) 7
def entCqe (e : List Byte) : Bool := bit (bget e 4 4) 0
def entFence (e : List Byte) : Bool := bit (bget e 4 4) 1

/-- Index arithmetic modulo 2^32. -/
def u32 (n : Nat) : Nat := n % 2 ^ 32
def u32sub (a b : Nat) : Nat := (a % 2 ^ 32 + 2 ^ 32 - b % 2 ^ 32) % 2 ^ 32

/-- Minimum LEN of an opcode; none for a reserved one (R415). -/
def minLen (op : Nat) : Option Nat :=
  if [0x00, 0x01, 0x40, 0x81, 0x83, 0x84, 0x85, 0x91, 0x92].contains op then some 1
  else if [0x10, 0x11, 0x12, 0x20, 0x30, 0x80, 0x82, 0x90, 0x93, 0xA0, 0xA1, 0xA2, 0xA3].contains op then some 2
  else none

/-- A queue-memory field of a body that is not aligned as its field requires (R413, sub-code 18). -/
def entMisaligned (e : List Byte) : Bool :=
  if entOp e = 0x80 then bget e 0x18 8 % 4096 != 0 || bget e 0x20 8 % 8 != 0 || bget e 0x28 8 % 8 != 0
  else if entOp e = 0x82 then bget e 0x18 8 % 4096 != 0 || bget e 0x20 8 % 8 != 0
  else false

/-! ### Queues -/

def Mach.sq (m : Mach) (d q : Nat) : Option Sq := SMap.find m.sqs (d * 64 + q)
def Mach.cqOf (m : Mach) (d c : Nat) : Option Cq := SMap.find m.cqs (d * 64 + c)
def Mach.setSq (m : Mach) (d q : Nat) (s : Sq) : Mach := { m with sqs := SMap.ins m.sqs (d * 64 + q) s }
def Mach.setCq (m : Mach) (d c : Nat) (s : Cq) : Mach := { m with cqs := SMap.ins m.cqs (d * 64 + c) s }
def Mach.updSq (m : Mach) (d q : Nat) (f : Sq → Sq) : Mach :=
  match m.sq d q with | some s => m.setSq d q (f s) | none => m
def Mach.updCq (m : Mach) (d c : Nat) (f : Cq → Cq) : Mach :=
  match m.cqOf d c with | some s => m.setCq d c (f s) | none => m
def Mach.qif (m : Mach) (d : Nat) : QIface := SMap.get {} m.qifs d
def Mach.updQif (m : Mach) (d : Nat) (f : QIface → QIface) : Mach := { m with qifs := SMap.set {} m.qifs d (f (m.qif d)) }

/-- Queues of a domain. -/
def Mach.sqIds (m : Mach) (d : Nat) : List Nat := (m.sqs.filter fun e => e.1 / 64 == d).map fun e => e.1 % 64
def Mach.cqIds (m : Mach) (d : Nat) : List Nat := (m.cqs.filter fun e => e.1 / 64 == d).map fun e => e.1 % 64

/-- Units of an SQ's ring; entries of a CQ's ring (R393). -/
def Sq.size (s : Sq) : Nat := 2 ^ (s.log2 - 5)
def Cq.size (c : Cq) : Nat := 2 ^ (c.log2 - 4)

/-- The start point: the first entry not started. -/
def Sq.startPt (s : Sq) : Nat := match s.cache with | e :: _ => e.idx | [] => s.fetch

/-- IOVA of a unit of an SQ's ring. -/
def Sq.at (s : Sq) (idx : Nat) : Nat := s.ring + 32 * (idx % s.size)

/-- The queues of functions run in stage F of native mode (R597), while no orderly reset, DORMANT entry or wake stops them (R89, R562, R631). -/
def Mach.queuesRun (m : Mach) : Bool :=
  m.rd WKT_BOOT_STATUS_STAGE == 3 && !m.tfLast && m.boot.orderly.isNone && m.rd WKT_PWR_STATUS_STATE < 3

/-- A posted write to queue memory (R394). -/
def Mach.qWrite (m : Mach) (d a : Nat) (bs : List Byte) : Mach := m.send (.qWrite d a bs)

/-! ### Function interrupts (R409, R630) -/

/-- The function that presents a domain's queues: the service PF of its lowest port, its VF, or the management endpoint for
D0 (assumption log 21). -/
def Mach.fnOf (m : Mach) (d : Nat) : Option Nat :=
  match (m.dom d).kind with
  | .d0 => some 5120
  | .host => (m.domPorts d).head?
  | .func => (m.dom d).vf.map fun v => 1024 + v

/-- A function's MSI-X vector is masked in its table entry. -/
def Mach.fnMasked (m : Mach) (fn v : Nat) : Bool :=
  fn != 5120 && bit (SMap.get 0x100000000 m.fnTbl (fn * 130 + 2 * v + 1)).toNat 32

/-- Raise a vector of a domain's function (R409): sent, or pending while it is masked; none while the domain is frozen and
drained (R362). -/
def Mach.fnIrq (m : Mach) (d v : Nat) : Mach :=
  let quiet := (m.dom d).state = .frozen && !((SMap.find m.hinges d).any fun h => h.op == 1)
  match m.fnOf d, quiet with
  | some fn, false =>
    if m.fnMasked fn v then { m with fnPend := if m.fnPend.contains (fn * 65 + v) then m.fnPend else m.fnPend ++ [fn * 65 + v] }
    else m.send (.fnMsix fn v)
  | _, _ => m

/-! ### Completion queues (R407 to R412) -/

/-- The 16 bytes of a CQ entry at a ring index (R407). -/
def CqEnt.bytes (e : CqEnt) (idx size : Nat) : List Byte :=
  leBytes 2 e.tag ++ leBytes 1 e.status ++ leBytes 1 e.sub ++ leBytes 4 e.sqHead ++ leBytes 2 e.gen ++
  leBytes 1 (e.sqId % 64) ++ leBytes 4 0 ++ leBytes 1 (if idx / size % 2 = 0 then 1 else 0)

/-- Full as the last read of the head shadow has it (R410). -/
def Cq.full (c : Cq) : Bool := u32sub c.idx c.head == c.size

/-- Write one entry into the ring, and count it toward the vector (R407, R409). -/
def Mach.cqRing (m : Mach) (d id : Nat) (e : CqEnt) : Mach :=
  match m.cqOf d id with
  | none => m
  | some c =>
    let m := m.qWrite d (c.ring + 16 * (c.idx % c.size)) (e.bytes c.idx c.size)
    let n := c.since + 1
    let fire := c.irq && (c.coalT = 0 || n ≥ max 1 c.coalN)
    let m := m.setCq d id { c with idx := u32 (c.idx + 1), since := if fire then 0 else n }
    if fire then m.fnIrq d id else m

/-- A read of the head shadow returned (R410), or failed (R395). -/
def Mach.cqHead (m : Mach) (d id : Nat) (h : Option Nat) : Mach :=
  match h with
  | some h => m.updCq d id fun c => { c with head := u32 h }
  | none => m.updCq d id fun c => { c with error := true }

/-- The switch rereads the head shadow of a CQ that seems full, at most once per microsecond (R410). -/
def Mach.cqReread (m : Mach) (d id : Nat) (h : Option Nat) : Mach :=
  match m.cqOf d id with
  | none => m
  | some c =>
    let due := match c.reread with | some t => t + 1000 ≤ m.now | none => true
    if c.full && c.ovf.isEmpty && due then (m.setCq d id { c with reread := some m.now }).cqHead d id h else m

/-- Post a CQ entry (R408, R412): into the ring, or, while the CQ is full or its overflow area holds entries, at the tail of
the overflow area. -/
def Mach.cqPost (m : Mach) (d id : Nat) (e : CqEnt) (h : Option Nat) : Mach :=
  let m := m.cqReread d id h
  match m.cqOf d id with
  | none => m
  | some c =>
    if c.full || !c.ovf.isEmpty then
      let first := c.ovf.isEmpty
      let m := m.setCq d id { c with ovf := c.ovf ++ [e], overflow := c.overflow || first }
      if first then m.fnIrq d 64 else m
    else m.cqRing d id e

/-- Deliver overflowed entries while the ring has room (R412); those of an old generation are removed and counted (R350). -/
def Mach.cqDeliver (m : Mach) (d id : Nat) : Nat → Mach
  | 0 => m
  | fuel + 1 => match m.cqOf d id with
    | none => m
    | some c => match c.ovf with
      | [] => m
      | e :: rest =>
        if e.gen ≠ (m.dom d).gen then ((m.setCq d id { c with ovf := rest }).count (CNT_DOM d 12) 1).cqDeliver d id fuel
        else if c.full then m
        else ((m.setCq d id { c with ovf := rest }).cqRing d id e).cqDeliver d id fuel

/-- Started entries of a domain that will post to a CQ (R412). -/
def Mach.willPost (m : Mach) (d id : Nat) : Nat :=
  ((m.sqIds d).map fun q => match m.sq d q with
    | some s => if s.cq == some id then (s.run.filter fun r => r.posts && !r.done).length else 0
    | none => 0).sum

/-- The reservation rule holds starts on the SQs bound to a CQ (`CQ_STALL`). -/
def Mach.cqStalled (m : Mach) (d : Nat) (s : Sq) : Bool :=
  match s.cq with
  | some c => (match m.cqOf d c with
      | some q => q.held || q.ovf.length + m.willPost d c ≥ 4096
      | none => false)
  | none => false

/-! ### Errors of an SQ (R395, R413) -/

/-- In-place completion of an entry (R406 steps 3 and 4): bytes 4 to 15, then dword 0 with OWN 0. -/
def Mach.inPlace (m : Mach) (d : Nat) (s : Sq) (idx : Nat) (e : List Byte) (r : EntRes) : Mach :=
  let a := s.at idx
  let m := m.qWrite d (a + 4) (leBytes 1 r.status ++ leBytes 1 r.sub ++ leBytes 2 (m.dom d).gen ++ leBytes 8 r.result)
  (m.qWrite d a (leBytes 4 (bget e 0 4 % 2 ^ 31))).count (CNT_DOM d 13) 1

/-- Stop an SQ in ERROR (R395, R413): nothing further starts; vector 64; for faults 16 to 19 an in-place completion with
MALFORMED, and an error CQ entry where the CQ or its overflow area has room. -/
def Mach.sqStop (m : Mach) (d q sub idx : Nat) (e : Option (List Byte)) : Mach :=
  match m.sq d q with
  | none => m
  | some s =>
    let s := { s with error := true, errSub := sub, errIndex := idx, scan := none, rescan := false }
    let m := m.setSq d q s
    let m := match e with
      | none => m
      | some e =>
        let m := m.inPlace d s idx e { status := 4, sub := sub }
        match s.cq with
        | some c => (match m.cqOf d c with
          | some cq => if cq.full && cq.ovf.length + m.willPost d c ≥ 4096 then m
                       else m.cqPost d c { tag := entTag e, status := 4, sub := sub, sqHead := s.head, gen := (m.dom d).gen, sqId := q } (some cq.head)
          | none => m)
        | none => m
    m.fnIrq d 64

/-! ### The forward scan (R400, R403) -/

/-- Room in the entry cache for an entry of LEN units: 16 entries, 1 KiB (R403). -/
def Sq.room (s : Sq) (len : Nat) : Bool :=
  s.cache.length < 16 && (s.cache.map fun e => 32 * entLen e.bytes).sum + 32 * len ≤ 1024

/-- The scan of an SQ in progress, over what its reads return: pass after pass, until a pass ends with no RESCAN, the cache is
full, or a fault stops the SQ. A read that the command does not give ends the pass, as an entry that is not owned. -/
def Mach.scanGo (m : Mach) (d q : Nat) : Nat → QMem → Mach
  | 0, _ => m
  | fuel + 1, mem =>
    match m.sq d q with
    | none => m
    | some s => match s.scan with
      | none => m
      | some t =>
        let passEnd := fun (m : Mach) =>
          if s.rescan then
            match mem.tails with
            | [] => m.setSq d q { s with scan := none, rescan := false }
            | none :: _ => m.sqStop d q 29 s.fetch none
            | some t :: rest =>
              if u32sub t s.head > s.size then m.sqStop d q 20 s.head none
              else (m.setSq d q { s with scan := some (u32 t), rescan := false, bells := s.bells ++ [(u32 t, m.now)] }).scanGo d q fuel
                { mem with tails := rest }
          else m.setSq d q { s with scan := none }
        if s.fetch = t then passEnd m
        else match mem.entries with
          | [] => if s.room 8 then passEnd m else m
          | none :: _ => m.sqStop d q 29 s.fetch none
          | some e :: rest =>
            let len := entLen e
            if !entOwn e then passEnd m
            else if len = 0 || len > 8 || len < (minLen (entOp e)).getD 1 then m.sqStop d q 16 s.fetch (some e)
            else if (minLen (entOp e)).isNone then m.sqStop d q 17 s.fetch (some e)
            else if s.fetch % s.size + len > s.size then m.sqStop d q 19 s.fetch (some e)
            else if entMisaligned e then m.sqStop d q 18 s.fetch (some e)
            else if u32sub t s.fetch < len then passEnd m
            else if !s.room len then m
            else
              let c : Cached := { idx := s.fetch, bytes := e.take (32 * len), gen := (m.dom d).gen }
              (m.setSq d q { s with cache := s.cache ++ [c], fetch := u32 (s.fetch + len) }).scanGo d q fuel { mem with entries := rest }

/-- How many steps a scan may take over what its reads return. -/
def QMem.fuel (mem : QMem) : Nat := mem.tails.length + mem.entries.length + 2

/-- Begin a scan, or flag the one that runs (R400). -/
def Mach.scan (m : Mach) (d q : Nat) (mem : QMem) : Mach :=
  match m.sq d q with
  | none => m
  | some s =>
    if s.scan.isSome then m.setSq d q { s with rescan := true }
    else match mem.tails with
      | [] => m
      | none :: _ => m.sqStop d q 29 s.fetch none
      | some t :: rest =>
        if u32sub t s.head > s.size then m.sqStop d q 20 s.head none
        else (m.setSq d q { s with scan := some (u32 t), rescan := false, bells := s.bells ++ [(u32 t, m.now)] }).scanGo d q mem.fuel
          { mem with tails := rest }

/-- A doorbell of an SQ is taken (R401): the queue exists and is not in ERROR, the domain is Active. -/
def Mach.takesBell (m : Mach) (d q : Nat) : Bool :=
  m.queuesRun && (m.dom d).state == .active && match m.sq d q with | some s => !s.error && !s.closing | none => false

/-- A tail doorbell (R400, R401); a frozen domain's sets its pending-doorbell bit (R362). -/
def Mach.tailBell (m : Mach) (d q : Nat) (mem : QMem) : Mach :=
  if m.takesBell d q then m.scan d q mem
  else if (m.dom d).state = .frozen then m.updSq d q fun s => { s with pendingDb := true }
  else m

/-- A CQ head doorbell (R410, R412, R362): the head shadow is read, and overflowed entries enter the ring. -/
def Mach.headBell (m : Mach) (d c : Nat) (h : Option Nat) : Mach :=
  let ok := (m.dom d).state = .active || (m.dom d).state = .frozen
  match m.cqOf d c with
  | some q => if ok && m.queuesRun && !q.error then (m.cqHead d c h).cqDeliver d c 8192 else m
  | none => m

/-- An invalidate doorbell (R404): the state, and R or the unchanged fetch point. -/
def Mach.invalidate (m : Mach) (d q i : Nat) (mem : QMem) : Mach × Nat :=
  match m.sq d q with
  | none => (m, 0)
  | some s =>
    if (m.dom d).state = .frozen || !m.takesBell d q then (m, s.fetch)
    else
      -- TAIL is what the last scan read, or the fetch point where a scan has reached it
      let tail := s.scan.getD s.fetch
      let tail := match mem.tails with | some t :: _ => u32 t | _ => tail
      if u32sub i s.head < u32sub tail s.head then
        let start := s.startPt
        let after := fun (j : Nat) => u32sub j s.head
        -- the entry that i falls in, else i
        let inEntry := (s.cache.find? fun e => after e.idx ≤ after i && after i < after e.idx + entLen e.bytes).map (·.idx)
        let r := match inEntry with
          | some j => j
          | none => if after i < after start then start else if after s.fetch < after i then s.fetch else u32 i
        let s := { s with cache := s.cache.filter (fun e => after e.idx < after r), fetch := r, scan := none, rescan := false }
        ((m.setSq d q s).scan d q mem, r)
      else (m.setSq d q { s with invalIgnored := true }, s.fetch)

/-! ### Which entry starts next (R401, R402, R412, R421, R427, R446) -/

/-- Copy channels of a domain; of every domain but D0. -/
def Mach.domChans (m : Mach) (d : Nat) : Nat := (m.chans.filter fun e => e.2.entry.dom == d).length
def Mach.tenantChans (m : Mach) : Nat := (m.chans.filter fun e => e.2.entry.dom != 0).length

/-- A free channel may go to a domain (R427). -/
def Mach.chanFree (m : Mach) (d : Nat) : Bool :=
  m.chans.length < 256 &&
  (d == 0 || (m.tenantChans < 256 - m.rd CPE_CTRL_MGR_RSV && m.domChans d < max 1 (m.rd CPE_CTRL_DOM_MAX)))

/-- The free channel of lowest number. -/
def Mach.freeChan (m : Mach) : Nat := ((List.range 256).find? fun c => (SMap.find m.chans c).isNone).getD 0

/-! Threads and their windows (R445, R446) -/

def Mach.seqd (m : Mach) (d : Nat) : SeqDom := SMap.get {} m.seqDom d

/-- Running and frozen threads of a domain (`SEQ_DOM_RUN.THREADS`). -/
def Mach.domThreads (m : Mach) (d : Nat) : Nat :=
  (m.threads.filter fun e => !e.2.manager && e.2.dom == d).length + (m.frozen.filter fun e => e.1 / 64 == d).length

/-- A core takes tenant threads, or manager threads (R445): its mode says so, and all of its running threads are of that
kind. -/
def Mach.coreTakes (m : Mach) (c : Nat) (mgr : Bool) : Bool :=
  let tenant := 2 ≤ c && bit (m.rd SEQ_CORE_MODE_TENANT) (c - 2)
  tenant == !mgr && (m.threads.filter fun e => e.1 / 8 == c).all fun e => e.2.manager == mgr

/-- A window of a size fits at a scratch address of a core. -/
def Mach.scratchFree (m : Mach) (c base size : Nat) : Bool :=
  base + size ≤ 1048576 && (m.threads.filter fun e => e.1 / 8 == c).all fun e =>
    base + size ≤ e.2.base || e.2.base + (e.2.win + 4095) / 4096 * 4096 ≤ base

/-- Where a tenant thread with a window of so many bytes can run (R446): the lowest-numbered tenant core that has a free
thread and a free range, its lowest free thread, the lowest free range (assumption log 22). -/
def Mach.placeThread (m : Mach) (win : Nat) : Option (Nat × Nat) :=
  let size := (win + 4095) / 4096 * 4096
  (List.range 32).findSome? fun c =>
    if !m.coreTakes c false then none
    else
      match (List.range 8).find? fun t => (SMap.find m.threads (8 * c + t)).isNone with
      | none => none
      | some t => ((List.range 256).find? fun k => m.scratchFree c (4096 * k) size).map fun k => (8 * c + t, 4096 * k)

/-- Window bytes of a RUN entry: SCRATCH KiB, where 0 acts as 4 (R446). -/
def runWin (e : List Byte) : Nat := (if bget e 0x1C 4 = 0 then 4 else bget e 0x1C 4) * 1024

/-- Why a RUN is refused (R414, R446): its status and sub-code. -/
def Mach.runRefusal (m : Mach) (d : Nat) (e : List Byte) : Option (Nat × Nat) :=
  let origin := bget e 0x10 8
  let entry := bget e 0x18 4
  if bget e 4 4 / 4 ≠ 0 then some (4, 21)
  else if origin % 4096 != 0 || (origin < 0x20000 && origin != 0x10000) || entry % 4 != 0 || bget e 0x1C 4 > 1024 || entry ≥ runWin e
  then some (4, 40)
  else if (m.seqd d).size = 0 then some (8, 41)
  else if (m.seqd d).maxThreads = 0 then some (9, 42)
  else none

/-- The lowest free local index of a domain (R446). -/
def Mach.freeLocal (m : Mach) (d : Nat) : Option Nat :=
  (List.range (min 64 (m.seqd d).maxThreads)).find? fun i =>
    (SMap.find m.frozen (d * 64 + i)).isNone && !(m.threads.any fun e => !e.2.manager && e.2.dom == d && e.2.local_ == i)

/-- A thread can be assigned to a RUN of a domain now. -/
def Mach.runRoom (m : Mach) (d : Nat) (e : List Byte) : Bool :=
  m.domThreads d < min 64 (m.seqd d).maxThreads && (m.freeLocal d).isSome && (m.placeThread (runWin e)).isSome

def isMover (op : Nat) : Bool := op == 0x10 || op == 0x11 || op == 0x12

/-- Whether the entry at the front of an SQ's cache may start (R401, R402, R412, R421, R427, R446). -/
def Mach.mayStart (m : Mach) (d q : Nat) : Bool :=
  m.queuesRun && (m.dom d).state == .active && match m.sq d q with
    | none => false
    | some s => match s.cache with
      | [] => false
      | e :: _ =>
        let left := s.run.filter fun r => !r.done
        let op := entOp e.bytes
        !s.error && !s.closing && !m.cqStalled d s &&
        (!(entFence e.bytes || op == 0x40) || left.isEmpty) &&
        !(left.any fun r => entOp r.bytes == 0x40) &&
        (!isMover op || m.chanFree d) &&
        (op != 0x30 || (m.runRefusal d e.bytes).isSome || m.runRoom d e.bytes)

/-- The first of a list after a value, round-robin. -/
def after (last : Nat) (l : List Nat) : Option Nat :=
  match l.find? fun x => last < x with | some x => some x | none => l.head?

/-- The SQ whose entry starts next (R401): round-robin among domains, then among a domain's SQs. -/
def Mach.nextStart (m : Mach) (f : Nat → Nat → Bool) (lastDom : Nat) (last : SMap Nat) : Option (Nat × Nat) :=
  let ready := m.sqs.filter fun e => m.mayStart (e.1 / 64) (e.1 % 64) && f (e.1 / 64) (e.1 % 64)
  match after lastDom ((ready.map fun e => e.1 / 64).eraseDups) with
  | none => none
  | some d => (after (SMap.get 64 last d) ((ready.filter fun e => e.1 / 64 == d).map fun e => e.1 % 64)).map fun q => (d, q)

/-- The opcode at the front of an SQ's cache. -/
def Mach.frontOp (m : Mach) (d q : Nat) : Nat :=
  match m.sq d q with | some s => (match s.cache with | e :: _ => entOp e.bytes | [] => 0x100) | none => 0x100

/-- Start the entry at the front of an SQ's cache (R401, R350): stamped at its start; a data mover takes its channel, a RUN
its thread; a scan that waited for room goes on. -/
def Mach.startEntry (m : Mach) (d q : Nat) (mem : QMem) : Mach :=
  match m.sq d q with
  | none => m
  | some s => match s.cache with
    | [] => m
    | c :: rest =>
      let op := entOp c.bytes
      let r : Run := { idx := c.idx, bytes := c.bytes, gen := (m.dom d).gen, posts := s.cq.isSome && entCqe c.bytes && op != 0x01 }
      let m := m.setSq d q { s with cache := rest, run := s.run ++ [r] }
      let ref : EntryRef := { dom := d, q := q, idx := c.idx }
      let m := if isMover op then
          let ch : CopyChan := { entry := ref, sq := s.num, gen := (m.dom d).gen }
          { m with chans := SMap.ins m.chans m.freeChan ch, cpeLastDom := d, cpeLast := SMap.set 64 m.cpeLast d q }
        else if op = 0x30 && (m.runRefusal d c.bytes).isNone then
          match m.placeThread (runWin c.bytes), m.freeLocal d with
          | some (th, base), some ix =>
            let t : Thread := { manager := false, dom := d, gen := (m.dom d).gen, local_ := ix, entry := some ref,
                                base := base, win := runWin c.bytes, scratch := runWin c.bytes / 1024 }
            { m with threads := SMap.ins m.threads th t, runLastDom := d }
          | _, _ => m
        else m
      m.scanGo d q mem.fuel mem

/-! ### A started entry -/

/-- A started entry that has no completion yet. -/
def Mach.run (m : Mach) (e : EntryRef) : Option Run :=
  match m.sq e.dom e.q with
  | some s => s.run.find? fun r => r.idx == e.idx && !r.done
  | none => none

def Mach.updRun (m : Mach) (e : EntryRef) (f : Run → Run) : Mach :=
  m.updSq e.dom e.q fun s => { s with run := s.run.map fun r => if r.idx = e.idx ∧ !r.done then f r else r }

/-- Set what an entry's operation still has to do. -/
def Mach.setWork (m : Mach) (e : EntryRef) (w : Work) : Mach := m.updRun e fun r => { r with work := w }

/-- An entry's operation is over. -/
def Mach.endEntry (m : Mach) (e : EntryRef) (r : EntRes) : Mach := m.setWork e (.finished r)

/-- A nonzero reserved bit of FLAGS, or of the body fields listed by offset and size (R414). -/
def reservedSet (e : List Byte) (l : List (Nat × Nat)) : Bool :=
  bget e 4 4 / 4 != 0 || l.any fun f => bget e f.1 f.2 != 0

/-- Carry out the row of an entry's opcode: the entry is started, fresh, of one of the opcodes, and of its domain's
generation. -/
def Mach.onEntry (m : Mach) (e : EntryRef) (ops : List Nat) (f : Mach → Run → Mach) : Mach :=
  match m.run e with
  | some r => if r.work = .fresh && ops.contains (entOp r.bytes) && r.gen == (m.dom e.dom).gen then f m r else m
  | none => m

/-- A command of SQ 0 on another SQ (R415). -/
def Mach.onAdmin (m : Mach) (e : EntryRef) (ops : List Nat) (f : Mach → Run → Mach) : Mach :=
  m.onEntry e ops fun m r => if e.q ≠ 0 then m.endEntry e { status := 8, sub := 25 } else f m r

/-- DOMAIN of a body: 0xFFFF is the issuing domain (R415). -/
def bodyDom (e : EntryRef) (b : List Byte) (off : Nat) : Nat := if bget b off 2 = 0xFFFF then e.dom else bget b off 2

/-- Authority of "own domain; D0; host for its function domains" (R415), over a domain that is not free. -/
def Mach.mayQueue (m : Mach) (caller d : Nat) : Bool :=
  d < 4096 && (m.dom d).state != .free &&
  (caller == d || caller == 0 || ((m.dom d).kind == .func && (m.dom d).parent == caller))

/-- Authority of "D0; host for its function domains": never over D0. -/
def Mach.mayCommand (m : Mach) (caller d : Nat) : Bool := d < 4096 && m.mayRule caller d

/-- A request of an entry that has not ended: waiting or in the trackers (R406 step 1). -/
def Mach.entryBusy (m : Mach) (e : EntryRef) : Bool :=
  let mine := fun (s : ReqSrc) => s == .queue e
  m.trk.any (fun x => mine x.2.req.src) || m.trkWait.any (fun x => x.2.any fun w => mine w.req.src)

/-- HEAD moves across the entries whose completions are written (R398). -/
def headRun : Nat → List Run → Nat × List Run
  | h, [] => (h, [])
  | h, r :: rest => if r.done then headRun (if r.detached then h else u32 (r.idx + entLen r.bytes)) rest else (h, r :: rest)

/-- A queue that is being destroyed or reset drops what it has not started (R423). -/
def Mach.sqClose (m : Mach) (d q : Nat) : Mach :=
  m.updSq d q fun s => { s with closing := true, fetch := s.startPt, cache := [], scan := none, rescan := false }

/-- No started entry of an SQ is left, but for one. -/
def Mach.sqIdle (m : Mach) (d q : Nat) (but : Option EntryRef) : Bool :=
  match m.sq d q with
  | some s => s.run.all fun r => r.done || but == some { dom := d, q := q, idx := r.idx }
  | none => true

/-- Free an SQ; free a CQ. -/
def Mach.sqFree (m : Mach) (d q : Nat) : Mach := { m with sqs := SMap.del m.sqs (d * 64 + q) }
def Mach.cqFree (m : Mach) (d c : Nat) : Mach := { m with cqs := SMap.del m.cqs (d * 64 + c) }

/-- Reset an SQ to an index (R423). -/
def Mach.sqReset (m : Mach) (d q idx : Nat) : Mach :=
  match m.sq d q with
  | none => m
  | some s =>
    let m := m.setSq d q { s with fetch := u32 idx, head := u32 idx, cache := [], scan := none, rescan := false, error := false,
                                  errSub := 0, errIndex := 0, closing := false, bells := [],
                                  run := (s.run.filter fun r => !r.done).map fun r => { r with detached := true } }
    m.qWrite d s.headSh (leBytes 4 idx)

/-- Reset a CQ to an index (R423): the number of overflowed entries discarded. -/
def Mach.cqReset (m : Mach) (d c idx : Nat) : Mach × Nat :=
  match m.cqOf d c with
  | none => (m, 0)
  | some q => (m.setCq d c { q with idx := u32 idx, head := u32 idx, ovf := [], since := 0, error := false, held := false }, q.ovf.length)

/-- The lowest device-wide queue number that is free (R391). -/
def Mach.freeSqNum (m : Mach) : Nat :=
  let used := m.sqs.map fun e => e.2.num
  ((List.range (used.length + 1)).find? fun n => !used.contains n).getD 0
def Mach.freeCqNum (m : Mach) : Nat :=
  let used := m.cqs.map fun e => e.2.num
  ((List.range (used.length + 1)).find? fun n => !used.contains n).getD 0

/-- Create SQ 0 and CQ 0 of a domain from its admin registers (R425): refused with CFG_ERR for a size outside R393, a ring that
is not aligned to 4 KiB, or a pool that is full. -/
def Mach.openIface (m : Mach) (d : Nat) : Mach :=
  let x := m.qif d
  let sl := x.cfg % 32
  let cl := x.cfg / 2 ^ 8 % 32
  if sl < 12 || 24 < sl || cl < 12 || 24 < cl || x.sqBase % 4096 != 0 || x.cqBase % 4096 != 0 || m.sqs.length ≥ 65536 || m.cqs.length ≥ 65536
  then m.updQif d fun x => { x with cfgErr := true }
  else
    let s : Sq := { num := m.freeSqNum, log2 := sl, ring := x.sqBase, tailSh := x.sqTsh, headSh := x.sqHsh, cq := some 0 }
    let c : Cq := { num := m.freeCqNum, log2 := cl, ring := x.cqBase, headSh := x.cqHsh, irq := bit x.cfg 13, coalN := 1, coalT := 0 }
    let m := ((m.setSq d 0 s).setCq d 0 c).updQif d fun x => { x with ready := true, cfgErr := false }
    m.qWrite d x.sqHsh (leBytes 4 0)

/-- ENABLE cleared, every queue of a domain ends once its started entries have (R425); ENABLE set again meanwhile creates the
two queues anew. -/
def Mach.closeIface (m : Mach) (d : Nat) : Mach :=
  if (m.qif d).closing && (m.sqIds d).all fun q => m.sqIdle d q none then
    let m := (m.sqIds d).foldl (fun m q => m.sqFree d q) m
    let m := (m.cqIds d).foldl (fun m c => m.cqFree d c) m
    let m := m.updQif d fun x => { x with closing := false, ready := false }
    if bit (m.qif d).cfg 16 then m.openIface d else m
  else m

end Sys2Proof.Machine
end

