-- ==== Sys2Proof/Machine/ThreadOps.lean ====
section
/-! DEFINITION. Sys2Proof/Machine/ThreadOps.lean: sequencer threads as the queues, domains and Hinge use them (16): scratch
windows, DM slices, thread contexts, trap records, how a thread traps, ends or freezes. -/
namespace Sys2Proof.Machine

/-! ### Threads, scratch and slices -/

def Mach.thr (m : Mach) (th : Nat) : Option Thread := SMap.find m.threads th
def Mach.setThr (m : Mach) (th : Nat) (t : Thread) : Mach := { m with threads := SMap.ins m.threads th t }
def Mach.updThr (m : Mach) (th : Nat) (f : Thread → Thread) : Mach :=
  match m.thr th with | some t => m.setThr th (f t) | none => m

/-- Local scratch of a thread's core. -/
def Mach.scratch (m : Mach) (th : Nat) : Mem := SMap.get [] m.ls (th / 8)
def Mach.setScratch (m : Mach) (th : Nat) (x : Mem) : Mach := { m with ls := SMap.set [] m.ls (th / 8) x }

/-- First local DDR5 address of a domain's DM slice, and its bytes (R453). -/
def SeqDom.at (s : SeqDom) : Nat := s.base * 2 ^ 20
def SeqDom.bytes (s : SeqDom) : Nat := s.size * 2 ^ 20
def Mach.updSeqd (m : Mach) (d : Nat) (f : SeqDom → SeqDom) : Mach := { m with seqDom := SMap.set {} m.seqDom d (f (m.seqd d)) }

/-- A register of a thread (R449): G0 reads 0. -/
def Thread.reg (t : Thread) (n : Nat) : Word := if n = 0 then 0 else SMap.get 0 t.g n

/-- Write a register of a thread: a write of G0 has no effect (R449, R478). -/
def Thread.setReg (t : Thread) (n : Nat) (v : Word) : Thread := if n = 0 then t else { t with g := SMap.set 0 t.g n v }

/-- A predicate: P0 is true. -/
def Thread.pr (t : Thread) (n : Nat) : Bool := n == 0 || bit t.pred n
def Thread.setPr (t : Thread) (n : Nat) (b : Bool) : Thread := if n = 0 then t else { t with pred := withBit t.pred n b }

/-- A range of local DDR5 holds a line that reads as uncorrectable (R578). -/
def Mach.ddrBadAt (m : Mach) (a n : Nat) : Bool := m.ddrBad.any fun l => l * 64 < a + n && a < l * 64 + 64

/-- Load a thread's window from the DM slice at ORIGIN (R447): bytes beyond the slice's end are 0. -/
def Mach.loadWindow (m : Mach) (th : Nat) (t : Thread) : Mach :=
  let s := m.seqd t.dom
  let n := min t.win (s.bytes - t.origin)
  let ls := SMap.drop (m.scratch th) t.base (t.base + t.win)
  m.setScratch th (Mem.blit ls t.base n m.ddr (s.at + t.origin))

/-- Write a thread's window back to the DM slice at ORIGIN (R472), as far as the slice goes. -/
def Mach.saveWindow (m : Mach) (th : Nat) (t : Thread) : Mach :=
  let s := m.seqd t.dom
  { m with ddr := Mem.blit m.ddr (s.at + t.origin) (min t.win (s.bytes - t.origin)) (m.scratch th) t.base }

/-- `SELF_TIMER` as it reads: it counts down to 0 (assumption log 23). -/
def Mach.timerLeft (m : Mach) (t : Thread) : Nat := t.timer - (m.now - t.timerAt)

/-! ### Thread contexts (R472) -/

/-- The 512 bytes of a thread's context. -/
def Mach.context (m : Mach) (t : Thread) : List Byte :=
  let inbox := (List.range 8).flatMap fun k => match t.inbox[k]? with
    | some x => leBytes 8 x.a.toNat ++ leBytes 8 x.b.toNat ++ leBytes 2 x.sender ++ leBytes 6 0
    | none => leBytes 24 0
  ((List.range 31).flatMap fun i => leBytes 8 (t.reg (i + 1)).toNat) ++
  leBytes 1 (t.pred / 2 * 2 + 1) ++
  leBytes 1 (match t.hold with | some (.wait mask _) => mask | _ => 0) ++
  leBytes 2 t.local_ ++ leBytes 4 t.pc ++ leBytes 8 t.origin ++ leBytes 4 t.scratch ++ leBytes 4 0 ++
  leBytes 8 (t.runNs + (m.now - t.since)) ++ leBytes 1 t.inbox.length ++ leBytes 7 0 ++ inbox ++ leBytes 32 0

/-- A thread from its context, as it is placed again (R472, R370). The destination of a pending WAIT stands in the WAIT
instruction at its PC. -/
def contextThread (c : List Byte) (d gen base : Nat) (entry : Option EntryRef) (now : Nat) : Thread :=
  let g := (List.range 31).foldl (fun g i => SMap.set (0 : Word) g (i + 1) (BitVec.ofNat 64 (bget c (8 * i) 8))) []
  { manager := false, dom := d, gen := gen, local_ := bget c 0xFA 2, entry := entry, running := true, g := g,
    pred := bget c 0xF8 1 / 2 * 2, pc := bget c 0xFC 4, origin := bget c 0x100 8, base := base,
    win := (if bget c 0x108 4 = 0 then 4 else bget c 0x108 4) * 1024, scratch := bget c 0x108 4, runNs := bget c 0x110 8, since := now,
    inbox := (List.range (min 8 (bget c 0x118 1))).map fun k =>
      { a := BitVec.ofNat 64 (bget c (0x120 + 24 * k) 8), b := BitVec.ofNat 64 (bget c (0x128 + 24 * k) 8),
        sender := bget c (0x130 + 24 * k) 2, mgr := false } }

/-- Local DDR5 address of a domain's context slot (R453). -/
def Mach.ctxAt (m : Mach) (d ix : Nat) : Nat := (m.seqd d).at + 0x8000 + 512 * ix

/-! ### Ends -/

/-- A thread's core and window are free; its inbox is discarded (R447, R467). Finished accesses that it never took up go with
it. -/
def Mach.endThread (m : Mach) (th : Nat) : Mach :=
  { m with threads := SMap.del m.threads th, agentDone := m.agentDone.filter fun a => a.src != .thread th,
           fences := m.fences.filter fun f => f.thread != some th }

/-- A thread that is held by a DM or FM access (R483). -/
def Thread.accessing (t : Thread) : Bool :=
  match t.hold with
  | some (.ld _ _ _ _) | some (.fld _ _ _ _) | some (.fat _ _ _) => true
  | _ => false

/-- A thread whose domain's generation has moved on ends at its next instruction boundary (R471). -/
def Mach.staleThread (m : Mach) (t : Thread) : Bool := !t.manager && t.gen != (m.dom t.dom).gen

/-- Freeze a thread at an instruction boundary with no access outstanding (R361, R472): its context and its window go to the
DM slice. -/
def Mach.freezeThread (m : Mach) (th : Nat) (t : Thread) : Mach :=
  -- a thread whose window is not loaded yet is loaded first
  let m := if t.running then m else m.loadWindow th t
  let at_ := match t.hold with | some (.wait _ _) => true | none => true | _ => false
  if at_ && t.outW.isEmpty then
    let m := { m with ddr := Mem.writeBytes m.ddr (m.ctxAt t.dom t.local_) (m.context t) }
    let m := m.saveWindow th t
    ({ m with frozen := SMap.ins m.frozen (t.dom * 64 + t.local_) { entry := t.entry, gen := t.gen } }).endThread th
  else m

/-- Threads of a domain freeze that can (R361). -/
def Mach.freezeThreads (m : Mach) (d : Nat) : Mach :=
  (m.threads.filter fun e => !e.2.manager && e.2.dom == d).foldl (fun m e => m.freezeThread e.1 e.2) m

/-- Threads of a domain of an old generation end (R350, R471), but for those that an access holds. -/
def Mach.endStale (m : Mach) (d : Nat) : Mach :=
  (m.threads.filter fun e => !e.2.manager && e.2.dom == d && m.staleThread e.2 && !e.2.accessing).foldl (fun m e => m.endThread e.1) m

/-! ### Traps (R468 to R470, R505) -/

/-- Trap causes (R468). -/
inductive Trap where
  | illegal | priv | align | lsRange | dmRange | fmRefused | fmPoison | fmLost | fmTimeout | atomic | tbRange | msg | ecc | budget
  | trap
deriving DecidableEq, Repr

def Trap.code : Trap → Nat
  | .illegal => 1 | .priv => 2 | .align => 3 | .lsRange => 4 | .dmRange => 5 | .fmRefused => 6 | .fmPoison => 7 | .fmLost => 8
  | .fmTimeout => 9 | .atomic => 10 | .tbRange => 11 | .msg => 12 | .ecc => 13 | .budget => 14 | .trap => 15

/-- Status of a tenant's RUN entry (R468). -/
def Trap.status : Trap → Nat
  | .illegal | .trap => 4
  | .priv | .lsRange | .dmRange | .fmRefused | .tbRange | .msg => 2
  | .align => 1
  | .fmPoison | .ecc => 6
  | .fmLost | .fmTimeout => 7
  | .atomic => 8
  | .budget => 9

/-- The 32 bytes of a trap record (R469). -/
def TrapRec.bytes (r : TrapRec) : List Byte :=
  leBytes 8 r.addr ++ leBytes 8 r.time ++ leBytes 4 r.pc ++ leBytes 4 r.instr ++ leBytes 1 r.cause ++ leBytes 1 r.thread ++
  leBytes 2 r.dom ++ leBytes 2 r.gen ++ leBytes 1 r.space ++
  leBytes 1 ((if r.manager then 1 else 0) + (if r.valid then 2 else 0))

/-- The word at a scratch address of a thread. -/
def Mach.word (m : Mach) (th : Nat) (t : Thread) (a : Nat) : Nat := Mem.read (m.scratch th) (t.base + a) 4

/-! Counters of the cores (R510, R516, R517) -/

/-- Add to a programmable counter; a wrap sets its OVF bit, and carries into the odd counter of a chained pair. -/
def Mach.fbAdd (m : Mach) (c n k : Nat) : Mach :=
  let v := m.rd (CNT_FB_CNT_COUNT c n) + k
  let m := m.wr (CNT_FB_CNT_COUNT c n) v
  if v < 2 ^ 32 then m
  else
    let m := m.wr (CNT_FB_OVF_OVF c) (withBit (m.rd (CNT_FB_OVF_OVF c)) n true)
    if n % 2 = 0 ∧ bit (m.rd (CNT_FB_CTRL_CHAIN c)) (n / 2) then
      let w := m.rd (CNT_FB_CNT_COUNT c (n + 1)) + v / 2 ^ 32
      let m := m.wr (CNT_FB_CNT_COUNT c (n + 1)) w
      if w < 2 ^ 32 then m else m.wr (CNT_FB_OVF_OVF c) (withBit (m.rd (CNT_FB_OVF_OVF c)) (n + 1) true)
    else m

/-- Count k events j of a thread in the programmable counters of its core that select it. -/
def Mach.fbCount (m : Mach) (th j k : Nat) : Mach :=
  let c := th / 8
  if m.flag (CNT_FB_CTRL_FREEZE c) then m
  else (List.range 8).foldl (fun (m : Mach) n =>
    let sel := m.rd (CNT_FB_SEL_EVSEL c n)
    let chained := n % 2 == 1 && bit (m.rd (CNT_FB_CTRL_CHAIN c)) (n / 2)
    if bit (m.rd (CNT_FB_CTRL_EN c)) n && !chained && (sel == 8 * (th % 8) + j || sel == 0x40 + j) then m.fbAdd c n k else m) m

/-- Count k events j of a thread (R510). -/
def Mach.coreCount (m : Mach) (th j k : Nat) : Mach :=
  (m.count (CNT_CORE (th / 8) (8 * (th % 8) + j)) k).fbCount th j k

/-- A thread's instruction retires: the thread as it has become, at its next instruction. -/
def Mach.retire (m : Mach) (th : Nat) (t : Thread) : Mach := (m.setThr th { t with hold := none, got := [] }).coreCount th 0 1

/-- A thread traps (R468 to R470): addr is the record's ADDR, imm the TRAP immediate. A tenant's RUN entry ends; a manager
thread goes to its handler, or stops. -/
def Mach.trap (m : Mach) (th : Nat) (c : Trap) (addr space imm : Nat) : Mach :=
  match m.thr th with
  | none => m
  | some t =>
    if m.staleThread t then m.endThread th
    else
      let d := if t.manager then t.selfDom else t.dom
      -- the word of a fetch beyond the window is not there to record: a free value (assumption log 5)
      let (w, m) := if t.pc + 4 ≤ t.win then (m.word th t t.pc, m) else ((m.free).1.toNat, (m.free).2)
      let r : TrapRec := { addr := addr, time := m.tbNs, pc := t.pc, instr := w, cause := c.code, thread := th, dom := d,
                           gen := (m.dom d).gen, space := space, manager := t.manager, valid := true }
      let m := m.coreCount th 6 1
      if t.manager then
        let m := m.setThr th { t with trec := r, hold := none, got := [] }
        if t.tvec ≠ 0 ∧ !t.trec.valid then m.updThr th fun t => { t with pc := t.tvec }
        else ((m.error { cls := .corrected, block := 7, code := 3, dom := some d, addr := addr, loc := th, info := r.bytes.take 20 }).raise
          SEQ_EVENT_MGR_TRAP).endThread th
      else
        let s := m.seqd t.dom
        let m := { m with ddr := Mem.writeBytes m.ddr (s.at + 32 * (s.traps % 128)) r.bytes }
        let m := m.updSeqd t.dom fun s => { s with traps := (s.traps + 1) % 2 ^ 32 }
        let dw3 := (if c = .trap then imm else addr) % 2 ^ 32
        let m := match t.entry with
          | some e => m.endEntry e { status := c.status, sub := 64 + c.code, result := t.pc + 2 ^ 32 * dw3 }
          | none => m
        m.endThread th

/-! ### DM slices (R453) -/

/-- Channels of local DDR5 in use, and its capacity; the channels interleave, so that the low part of every channel is the
low part of local addresses (assumption log 24). -/
def Mach.ddrChans (m : Mach) : Nat := ((List.range 8).filter fun c => !bit m.boot.disabled c).length
def Mach.ddrBytes (m : Mach) : Nat := m.ddrChans * Config.channelBytes

/-- The Privet areas at the bottom of every channel, and the training area at the top (R259, R291, R85). -/
def Mach.ddrLow (m : Mach) : Nat :=
  let n := m.rd PVT_T2_CFG_LOG2_ENTRIES
  m.ddrChans * (if n = 0 then 0 else if m.flag PVT_T2_CFG_MIRROR then 2 ^ n * 32 / 8 + 16 * 2 ^ 20 else 2 ^ n * 16 / 8 + 8 * 2 ^ 20)
def Mach.ddrHigh (m : Mach) : Nat := m.ddrBytes - m.ddrChans * 2 ^ 21

/-- A slice is refused (R453): it overlaps another one, the training area or the Privet areas, or goes past the installed
capacity. -/
def Mach.sliceBad (m : Mach) (d base size : Nat) : Bool :=
  size != 0 &&
  (base * 2 ^ 20 < m.ddrLow || m.ddrHigh < (base + size) * 2 ^ 20 ||
   m.seqDom.any fun e => e.1 != d && e.2.size != 0 && base < e.2.base + e.2.size && e.2.base < base + size)

/-- The manager firmware gives a new domain a slice of the size in the policy block (R453): the lowest one that is free
(assumption log 25). -/
def Mach.giveSlice (m : Mach) (d : Nat) : Mach :=
  let n := m.boot.policy.dmMiB
  let m := m.updSeqd d fun s => { s with base := 0, size := 0 }
  let starts := (m.ddrLow + 2 ^ 20 - 1) / 2 ^ 20 :: m.seqDom.map fun e => e.2.base + e.2.size
  let best := starts.foldl (fun (best : Option Nat) b =>
    if m.sliceBad d b n then best else match best with
      | some x => some (min x b)
      | none => some b) none
  match best with
  | some b => if d = 0 then m else m.updSeqd d fun s => { s with base := b, size := n }
  | none => m

end Sys2Proof.Machine
end

