-- ==== Sys2Proof/Machine/Domain.lean ====
section
/-! DEFINITION. Sys2Proof/Machine/Domain.lean: rule changes and their commit points, mirror pairs, and the domain commands (11,
R342 to R353, R424). -/
namespace Sys2Proof.Machine

/-- A started queue entry, as its row names it. -/
def eref (d : Dom) (q : Fin 64) (idx : BitVec 32) : EntryRef := { dom := d, q := q, idx := idx.toNat }

/-! ### Changing the rules (R342 to R347) -/

/-- A rule fence takes its epochs (R347): the named domain, or every domain, with the function domains. -/
def Mach.fence (m : Mach) (d : Option Nat) (entry : Option EntryRef) (thread : Option Nat) (hdm : Option Nat := none) : Mach :=
  let ds := match d with
    | some d => d :: m.children d
    | none => (m.doms.filter fun (x : Nat × DomRec) => x.2.state != DomState.free).map fun (x : Nat × DomRec) => x.1
  { m with fences := m.fences ++ [{ entry := entry, thread := thread, epochs := ds.eraseDups.map fun d => (d, (m.dom d).ruleEpoch), hdm := hdm }] }

/-- COMMIT_POINT (R343): the oldest accepted change takes effect, unless its walk has not ended (R346); its SET_CASEMENT is
over; a decoder that is uncommitted starts its rule fence (R598). -/
def commitPoint (m : Mach) : Mach :=
  match m.changes with
  | [] => m
  | c :: rest =>
    if c.needWalk then m
    else
      let m := { m with changes := rest }.commit c.change
      let m := match c.change with | .slots d _ (some k) => m.fence (some d) none none (some k) | _ => m
      match c.entry with
      | some e => m.endEntry e { result := m.epoch }
      | none => m

def execCommitPoint (s : State) : Res := act commitPoint s

/-- Whether an address of a Casement loses its coverage by a change (R346). -/
def losesAt (o : Casement) (new : Option Casement) (a : Nat) : Bool :=
  o.coh && o.base ≤ a && a < o.base + 2 ^ o.k && takesCoverage (some { o with base := a, k := 0, cohBase := o.cohBase + (a - o.base) }) new

/-- The HPA at which a Casement maps a line of its hedgerow. -/
def Casement.hpaOf (o : Casement) (key : Nat) : Option Nat :=
  let c := keyLine key * 64
  if o.coh && o.hedge == keyHr key && o.cohBase / 64 * 64 ≤ c && c < o.cohBase + 2 ^ o.k then some (o.base + (c - o.cohBase)) else none

/-- Every line that Privet holds: in either tier, or held by a flow. -/
def Mach.allLines (m : Mach) : List Nat :=
  ((m.t1.map fun x => x.2.key) ++ (m.t2.map fun x => x.2.key) ++ m.lines.filterMap fun x => x.2.held.map (·.key)).eraseDups

/-- COVERAGE_REMOVAL_WALK (R346): once every caching request checked in the removed part has finished, the lines there are
to be evicted; once they are, the change may commit. -/
def coverageRemovalWalk (m : Mach) : Mach :=
  match m.changes with
  | [] => m
  | c :: rest =>
    match c.needWalk, c.change with
    | true, .slot d s new =>
      match SMap.find (m.dom d).cas s with
      | none => { m with changes := { c with needWalk := false } :: rest }
      | some o =>
        let mine := fun (dom : Nat) (r : Req) => dom == d && r.kind.need.caching && losesAt o new r.addr
        let waits := m.trk.any (fun x => mine x.2.dom x.2.req && !x.2.demoted) ||
                     m.trkWait.any fun x => x.2.any fun w => mine w.dom w.req && !w.demoted
        match c.walk with
        | none =>
          if waits then m
          else
            let l := m.allLines.filter fun k => (o.hpaOf k).any fun a => losesAt o new a
            { m with changes := { c with walk := some l } :: rest, toEvict := m.toEvict ++ l.filter fun k => !m.toEvict.contains k }
        | some l => if l.any m.toEvict.contains then m else { m with changes := { c with needWalk := false } :: rest }
    | _, _ => m

def execCoverageRemovalWalk (s : State) : Res := act coverageRemovalWalk s

/-- An epoch lies before another, modulo 2^32. -/
def epochBefore (e f : Nat) : Bool := e != f && u32sub f e < 2 ^ 31

/-- A tracker entry whose request is not finished (R347): no response from its target, and not answered. -/
def Trk.unfinished (e : Trk) : Bool := !e.outs.isEmpty || (!e.answered && e.arrived.isEmpty)

/-- No request of a domain checked at a lower epoch is unfinished (R347). -/
def Mach.fenceMet (m : Mach) (d ep : Nat) : Bool :=
  !(m.trk.any fun x => x.2.dom == d && x.2.unfinished && epochBefore x.2.epoch ep) &&
  !(m.trkWait.any fun x => x.2.any fun w => w.dom == d && epochBefore w.epoch ep) &&
  !(m.pipes.any fun x => x.2.any fun p => p.dom == some d && p.xl.isSome && epochBefore p.epoch ep)

/-- An HDM decoder reads not Committed (R598): its interleave set is free. -/
def Mach.hdmFree (m : Mach) (k : Nat) : Mach :=
  let x : HdmDec := SMap.get {} m.hdm k
  { m with hdm := SMap.del m.hdm k, ilv := match x.set with | some i => SMap.del m.ilv i | none => m.ilv }

/-- RULE_FENCE_COMPLETE (R347): the fence's entry ends, or its thread goes on. -/
def ruleFenceComplete (i : Nat) (m : Mach) : Mach :=
  match m.fences[i]? with
  | none => m
  | some f =>
    if f.epochs.all fun (x : Nat × Nat) => m.fenceMet x.1 x.2 then
      let m := { m with fences := m.fences.eraseIdx i }
      let m := match f.entry with | some e => m.endEntry e {} | none => m
      let m := match f.hdm with | some k => m.hdmFree k | none => m
      match f.thread with
      | some th => (match m.thr th with
        | some t => if t.hold = some .rule then m.retire th { t with pc := t.pc + 4 } else m
        | none => m)
      | none => m
    else m

def execRuleFenceComplete (i : Nat) (s : State) : Res := act (ruleFenceComplete i) s

/-! ### Mirror pairs and interleave sets (R332 to R336) -/

/-- MIRROR_FAIL (R334): requests to the pair go on at the other member. -/
def mirrorFail (pair : Fin 512) (i : Fin 2) (m : Mach) : Mach := (m.mirFail pair i).mirRelease

def execMirrorFail (pair : Fin 512) (i : Fin 2) (s : State) : Res := act (mirrorFail pair i) s

/-- MIRROR_REPAIR (R335): a read that returned poison from one in-sync member is reissued to the other; the good data that
it returns goes to the requester and to the poisoned member. -/
def mirrorRepair (key : Nat) (m : Mach) : Mach :=
  match m.entry key with
  | none => m
  | some e =>
    match e.badMember, e.reissued, m.otherMember e.x with
    | some _, false, some x =>
      (m.setEntry key { e with x := { e.x with port := x.port, ld := x.ld, dpa := x.dpa, member := x.member }, reissued := true }).issue key
        e.req.kind.atDevice e.req.data e.req.mask e.req.poison false
    | _, _, _ => m

def execMirrorRepair (key : Nat) (s : State) : Res := act (mirrorRepair key) s

def Mach.setMir (m : Mach) (i : Nat) (p : MirPair) : Mach := { m with mir := SMap.set {} m.mir i p }

/-- CSM_MIR_CTRL_WRITE (R335, R336): READ_SEL is plain; a state changes only from failed to resyncing beside a member in sync,
and the cursor then starts at 0; any other change of a state is refused, and the write with it. -/
def csmMirCtrlWrite (v : BitVec 32) (m : Mach) : Mach :=
  let i := m.rd CSM_MIR_SEL_PAIR
  let p := m.mirPair i
  let w := v.toNat
  let s0 := w % 4
  let s1 := w / 4 % 4
  let p' := { p with readSel := bit w 4 }
  if s0 = p.st0.code ∧ s1 = p.st1.code then m.setMir i p'
  else if s0 = 2 ∧ p.st0 = .failed ∧ p.st1 = .inSync ∧ s1 = 0 then m.setMir i { p' with st0 := .resync, cursor := 0 }
  else if s1 = 2 ∧ p.st1 = .failed ∧ p.st0 = .inSync ∧ s0 = 0 then m.setMir i { p' with st1 := .resync, cursor := 0 }
  else m.raise DOM_EVENT_CFG_REFUSED

def execCsmMirCtrlWrite (v : BitVec 32) (s : State) : Res := act (csmMirCtrlWrite v) s

/-- The cursor of a pair stands at a value, in 4 KiB units (R336): at the pair's size, the resyncing member is in sync. -/
def Mach.mirCursor (m : Mach) (i c : Nat) : Mach :=
  let p := m.mirPair i
  let on := p.st0 = .resync || p.st1 = .resync
  if on && c * 4096 ≥ p.size then
    let st := fun (s : MirState) => if s = .resync then .inSync else s
    ((m.setMir i { p with cursor := c, st0 := st p.st0, st1 := st p.st1 }).raise DOM_EVENT_MIRROR_SYNCED).mirRelease
  else (m.setMir i { p with cursor := c }).mirRelease

/-- MIRROR_CURSOR_ADVANCE (R336). -/
def mirrorCursorAdvance (pair : Fin 512) (m : Mach) : Mach :=
  let p := m.mirPair pair
  if p.st0 = .resync || p.st1 = .resync then m.mirCursor pair (p.cursor + 1) else m

def execMirrorCursorAdvance (pair : Fin 512) (s : State) : Res := act (mirrorCursorAdvance pair) s

/-- A member as its register spells it. -/
def memberOf64 (w : Nat) : Member := { port := w % 1024, ld := w / 1024 % 16, mld := bit w 14, dpaBase := w / 2 ^ 24 * 4096 }

/-- CSM_SET_WRITE (R332, R336): refused while a valid Casement names the set or the pair, and for codes that are refused. -/
def csmSetWrite (w : CsmWrite) (m : Mach) : Mach :=
  let no := m.raise DOM_EVENT_CFG_REFUSED
  let i := m.rd CSM_ILV_SEL_SET
  let j := m.rd CSM_MIR_SEL_PAIR
  match w with
  | .ilvHdr v =>
    let ways := v.toNat % 8
    let gran := v.toNat / 16 % 8
    if m.ilvRefs i > 0 || ways > 4 || gran > 6 then no
    else { m with ilv := SMap.set {} m.ilv i { m.ilvSet i with ways := ways, gran := gran } }
  | .ilvMember k v =>
    if m.ilvRefs i > 0 then no
    else { m with ilv := SMap.set {} m.ilv i { m.ilvSet i with members := SMap.set {} (m.ilvSet i).members k (memberOf64 v.toNat) } }
  | .mirMember k v =>
    if m.mirRefs j > 0 then no
    else
      let p := m.mirPair j
      let b := memberOf64 v.toNat
      m.setMir j (if k.val = 0 then { p with m0 := b } else { p with m1 := b })
  | .mirSize v => if m.mirRefs j > 0 then no else m.setMir j { m.mirPair j with size := v.toNat / 4096 * 4096 }
  | .mirCursor v => m.mirCursor j (v.toNat / 4096)

def execCsmSetWrite (w : CsmWrite) (s : State) : Res := act (csmSetWrite w) s

/-! ### Records (R341, R347) -/

/-- A domain's violation record is zeroed (R341). -/
def Mach.violClr (m : Mach) (d : Nat) : Mach := m.updDom d fun r => { r with viol := {} }

/-- DOM_VIOL_CLR (R341). -/
def domViolClr (v : BitVec 32) (m : Mach) : Mach := if bit v.toNat 0 then m.violClr (m.rd DOM_SEL_DOMAIN) else m

def execDomViolClr (v : BitVec 32) (s : State) : Res := act (domViolClr v) s

/-- DOM_FABRIC_WRITE (R347): the assignment takes effect at a commit point. -/
def domFabricWrite (f : Fin 4096) (v : BitVec 32) (m : Mach) : Mach :=
  let w := v.toNat
  { m with changes := m.changes ++ [{ change := .fabric f (if bit w 15 then some (w % 4096) else none), needWalk := false, entry := none }] }

def execDomFabricWrite (f : Fin 4096) (v : BitVec 32) (s : State) : Res := act (domFabricWrite f v) s

/-! ### Generations (R348 to R352) -/

/-- A confirmed speculative read that is still outstanding when its domain's generation rises counts as discarded (R305); one that is not
confirmed yet is discarded at the end of its lookup. -/
def Mach.specStale (m : Mach) (d : Nat) : Mach :=
  (m.trk.filter fun x => x.2.dom == d && x.2.gen == (m.dom d).gen && x.2.gate == .opened && x.2.buf.isNone && x.2.arrived.isEmpty).foldl
    (fun (m : Mach) (x : Nat × Trk) => (m.count (CNT_DOM d 6) 1).count (CNT_PVT x.2.x.hedge 5) 1) m

/-- A domain's generation rises, and what is stamped with an older one is handled (R350): fetched entries, overflowed
completions and unsent messages go; descriptors start no chunk; threads end; frozen threads are no more. -/
def Mach.newGen (m : Mach) (d : Nat) : Mach :=
  let m := (m.specStale d).bumpGen d
  let m := (m.sqIds d).foldl (fun m q => m.updSq d q fun s => { s with fetch := s.startPt, cache := [], scan := none, rescan := false }) m
  let m := (m.cqIds d).foldl (fun (m : Mach) c => match m.cqOf d c with
    | some q => (m.setCq d c { q with ovf := [] }).count (CNT_DOM d 12) q.ovf.length
    | none => m) m
  let m := { m with chans := m.chans.map fun (x : Nat × CopyChan) => if x.2.entry.dom = d then (x.1, { x.2 with ending := some CopyEnd.generation }) else x,
                    frozen := m.frozen.filter fun x => x.1 / 64 != d,
                    fnPend := m.fnPend.filter fun v => some (v / 65) != m.fnOf d || d == 0 }
  m.endStale d

/-- Disable a domain (R352). -/
def Mach.disable (m : Mach) (d : Nat) : Mach :=
  let m := { m.newGen d with hinges := SMap.del m.hinges d }
  m.updDom d fun r => if r.state = .resetting then { r with thenDisable := true } else if r.state = .destroying then r
                      else { r with state := .disabled }

/-- The first three steps of R351 on a domain, which becomes Resetting or Destroying. -/
def Mach.resetSteps (m : Mach) (d : Nat) (st : DomState) : Mach :=
  let m := (m.newGen d).updDom d fun r => { r with state := st }
  let m := { m with hinges := SMap.del m.hinges d }
  if (m.dom d).kind = .host then
    let m := (List.range 256).foldl (fun m x =>
      let h := x / 64
      let i := x % 64
      if m.flag (PVT_MEMBER_VALID h i) && !m.flag (PVT_MEMBER_KIND h i) && m.portDom (m.rd (PVT_MEMBER_ID h i)) == some d
      then m.memberDead h i 2 else m) m
    (m.children d).foldl (fun (m : Mach) c => if (m.dom c).state = .disabled then m else m.disable c) m
  else m

/-- No object of a domain stamped with an earlier generation remains (R349), but for the entry that waits. -/
def Mach.genClear (m : Mach) (d : Nat) : Bool :=
  let g := (m.dom d).gen
  !(m.trk.any fun x => x.2.dom == d && x.2.gen != g) &&
  !(m.chans.any fun x => x.2.entry.dom == d && x.2.gen != g) &&
  !(m.threads.any fun x => !x.2.manager && x.2.dom == d && x.2.gen != g) &&
  (m.sqIds d).all fun q => match m.sq d q with | some s => s.run.all fun r => r.done || r.gen == g | none => true

/-- A domain command may run now (R349, R358): no reset, destroy or Hinge operation runs on the domain. -/
def Mach.domFree (m : Mach) (d : Nat) : Bool :=
  (m.dom d).state != .resetting && (m.dom d).state != .destroying && (SMap.find m.hinges d).isNone

/-- The end of a DOMAIN_RESET, when R349 is met: the queues but SQ 0 and CQ 0 are gone, those are reset (R351). -/
def Mach.domResetEnd (m : Mach) (d : Nat) : Mach :=
  let m := ((m.sqIds d).filter (· != 0)).foldl (fun m q => m.sqFree d q) m
  let m := ((m.cqIds d).filter (· != 0)).foldl (fun m c => m.cqFree d c) m
  let m := ((m.sqReset d 0 0).cqReset d 0 0).1
  let m := { m with lvr := m.lvr.map fun (x : Nat × LvrEnt) => if x.2.dom = d then (x.1, x.2.full m.now) else x }
  m.updDom d fun r => { r with state := if r.thenDisable then .disabled else .active, thenDisable := false }

/-- A walk for a dead member of a domain's ports still runs (R353). -/
def Mach.domWalks (m : Mach) (d : Nat) : Bool := m.deadWalks.any fun w => m.memberDom w.hr w.member == d

/-- The end of a DOMAIN_DESTROY (R353): the queues are gone, the Casements freed at one commit point, the ports unassigned, the
VF unbound; the record keeps its generation (R348). -/
def Mach.domDestroyEnd (m : Mach) (d : Nat) : Mach :=
  let m := (m.sqIds d).foldl (fun m q => m.sqFree d q) m
  let m := (m.cqIds d).foldl (fun m c => m.cqFree d c) m
  let m := { (m.commit (.freeAll d)) with qifs := SMap.del m.qifs d, lvr := m.lvr.filter fun x => x.2.dom != d }
  let r := m.dom d
  let m := { m with domPort := m.domPort.filter fun x => x.2 != d }
  m.setDom d { gen := r.gen, ruleEpoch := r.ruleEpoch, kind := r.kind }

/-! ### Domain commands (R351 to R353, R424) -/

/-- DOMAIN_CREATE (R424, R320, R321, R348, R453, R506). -/
def domainCreate (d : Dom) (q : Fin 64) (idx : BitVec 32) (m : Mach) : Mach :=
  let e := eref d q idx
  m.onAdmin e [0x90] fun m r =>
    let b := r.bytes
    let kind := bget b 0x10 1
    let dcfg := bget b 0x11 1
    let want := bget b 0x12 2
    let parent := bget b 0x14 2
    let vf := bget b 0x16 2
    let n := bget b 0x18 1
    let ports := (List.range n).map fun i => bget b (0x20 + 2 * i) 2
    let rest := (List.range 16).any fun i => n ≤ i && bget b (0x20 + 2 * i) 2 != 0
    let no := fun st sub => m.endEntry e { status := st, sub := sub }
    let free := (List.range 4095).find? fun i => (m.dom (i + 1)).state == .free
    let num := if want = 0xFFFF then free.getD 0 else want
    if reservedSet b [(0x19, 7)] || dcfg / 32 != 0 || rest || (kind == 1 && (parent != 0 || vf != 0)) || (kind == 2 && n != 0) then no 4 21
    else if d.val ≠ 0 then no 2 1
    else if !(kind == 1 || kind == 2) || (kind == 1 && (n == 0 || n > 16)) then no 4 22
    else if want != 0xFFFF && (want = 0 || 4096 ≤ want || (m.dom want).state != .free) then no 4 22
    else if kind = 1 ∧ ports.any (fun p => !m.isUp p || (m.portDom p).isSome) then no 2 26
    else if kind = 2 ∧ !((m.dom parent).kind == .host && (m.dom parent).state != .free && parent < 4096 &&
        (m.domPorts parent).any (fun p => let v := m.vfRange p; v.1 ≤ vf && vf < v.1 + v.2) &&
        !(m.doms.any fun x => x.2.state != .free && x.2.vf == some vf)) then no 2 27
    else if want = 0xFFFF ∧ free.isNone then no 9 28
    else
      let old := m.dom num
      let rec_ : DomRec := { state := .active, kind := if kind = 1 then .host else .func, parent := if kind = 2 then parent else 0,
                             qclass := dcfg % 16, cntAccess := bit dcfg 4, gen := (old.gen + 1) % 65536,
                             vf := if kind = 2 then some vf else none, ruleEpoch := old.ruleEpoch }
      let m := m.setDom num rec_
      let m := { m with domPort := ports.foldl (fun t p => SMap.ins t p num) m.domPort }
      let m := m.resetRegs (CNT_DOM num 0) (CNT_DOM num 0 + 0x80)
      (m.giveSlice num).endEntry e { result := num + 2 ^ 32 * rec_.gen }

def execDomainCreate (d : Dom) (q : Fin 64) (idx : BitVec 32) (s : State) : Res := act (domainCreate d q idx) s

/-- DOMAIN_RESET (R351, R364): it waits while another reset, a destroy or a Hinge operation runs on the domain (R349, R358). -/
def domainReset (d : Dom) (q : Fin 64) (idx : BitVec 32) (m : Mach) : Mach :=
  let e := eref d q idx
  m.onAdmin e [0x91] fun m r =>
    let b := r.bytes
    let t := bodyDom e b 0x10
    if reservedSet b [(0x13, 13)] || bget b 0x12 1 / 2 != 0 then m.endEntry e { status := 4, sub := 21 }
    else if !m.mayCommand e.dom t then m.endEntry e { status := 2, sub := 1 }
    else if !m.domFree t then m
    else
      let m := (m.resetSteps t .resetting).updDom t fun r => { r with thenDisable := bit (bget b 0x12 1) 0, viol := {} }
      let m := (m.sqIds t).foldl (fun m q => m.sqClose t q) m
      let m := (m.sqIds t).foldl (fun m q => m.updSq t q fun s => { s with pendingDb := false }) m
      m.setWork e (.domain t false)

def execDomainReset (d : Dom) (q : Fin 64) (idx : BitVec 32) (s : State) : Res := act (domainReset d q idx) s

/-- DOMAIN_DESTROY (R353). -/
def domainDestroy (d : Dom) (q : Fin 64) (idx : BitVec 32) (m : Mach) : Mach :=
  let e := eref d q idx
  m.onAdmin e [0x92] fun m r =>
    let b := r.bytes
    let t := bodyDom e b 0x10
    if reservedSet b [(0x12, 14)] then m.endEntry e { status := 4, sub := 21 }
    else if !m.mayCommand e.dom t then m.endEntry e { status := 2, sub := 1 }
    else if (m.dom t).kind = .host ∧ !(m.children t).isEmpty then m.endEntry e { status := 2, sub := 8 }
    else if !m.domFree t then m
    else
      let m := m.resetSteps t .destroying
      let m := (m.sqIds t).foldl (fun m q => m.sqClose t q) m
      m.setWork e (.domain t true)

def execDomainDestroy (d : Dom) (q : Fin 64) (idx : BitVec 32) (s : State) : Res := act (domainDestroy d q idx) s

/-- Status of a SET_CASEMENT refusal by its sub-code (R342). -/
def ruleStatus (sub : Nat) : Nat := if sub = 6 then 9 else if sub = 2 ∨ sub = 3 ∨ sub = 7 then 4 else 2

/-- SET_CASEMENT (R342, R343, R346, R360): accepted, the change waits for its commit point; the next one waits until it has
committed (R343). -/
def setCasement (d : Dom) (q : Fin 64) (idx : BitVec 32) (m : Mach) : Mach :=
  let e := eref d q idx
  m.onAdmin e [0x93] fun m r =>
    let b := r.bytes
    let t := bodyDom e b 0x10
    let slot := bget b 0x12 1
    let body : CasBody := { base := bget b 0x20 8, attr := bget b 0x28 4, owner := t % 4096, target := bget b 0x2E 2, offset := bget b 0x30 8,
                            cohBase := bget b 0x38 8 }
    if reservedSet b [(0x13, 13)] then m.endEntry e { status := 4, sub := 21 }
    else if !(t < 4096 && m.mayRule e.dom t) then m.endEntry e { status := 2, sub := 1 }
    else if (m.dom t).state = .frozen then m.endEntry e { status := 2, sub := 9 }
    else if !m.changes.isEmpty then m
    else match m.ruleSet e.dom t slot body with
      | .error sub => m.endEntry e { status := ruleStatus sub, sub := sub }
      | .ok new =>
        let walk := takesCoverage (SMap.find (m.dom t).cas slot) new
        ({ m with changes := [{ change := .slot t slot new, needWalk := walk, entry := some e }] }).setWork e .busy

def execSetCasement (d : Dom) (q : Fin 64) (idx : BitVec 32) (s : State) : Res := act (setCasement d q idx) s

end Sys2Proof.Machine
end

