-- ==== Sys2Proof/Machine/Louvre.lean ====
section
/-! DEFINITION. Sys2Proof/Machine/Louvre.lean: Louvre entries and latency samplers (13, R373 to R389). -/
namespace Sys2Proof.Machine

/-! ### Entries (R373, R374, R380) -/

/-- The 32 bytes of an entry (R374). -/
def LvrEnt.bytes (e : LvrEnt) : List Byte :=
  leBytes 2 e.dom ++ leBytes 2 e.port ++
  leBytes 2 (1 + (if e.polEn then 2 else 0) + (if e.aware then 4 else 0) + (if e.shpEn then 8 else 0)) ++ leBytes 2 0 ++
  leBytes 4 e.cir ++ leBytes 4 e.pir ++ leBytes 4 e.cbs ++ leBytes 4 e.pbs ++ leBytes 4 e.shpRate ++ leBytes 4 e.shpBurst

/-- The entry that 32 bytes spell, with full buckets (R376). -/
def lvrOfBytes (b : List Byte) (now : Nat) : LvrEnt :=
  ({ dom := bget b 0 2 % 4096, port := bget b 2 2 % 1024, polEn := bit (bget b 4 2) 1, aware := bit (bget b 4 2) 2,
     shpEn := bit (bget b 4 2) 3, cir := bget b 8 4, pir := bget b 12 4, cbs := bget b 16 4, pbs := bget b 20 4,
     shpRate := bget b 24 4, shpBurst := bget b 28 4, tc := 0, tp := 0, shp := 0, last := now } : LvrEnt).full now

/-- A field of an entry outside its range: reserved bits, and the parts that FLAGS enables (R374). -/
def lvrRangeBad (b : List Byte) : Bool :=
  let rate := fun n => !(1 ≤ n && n ≤ 2000000)
  let burst := fun n => !(1024 ≤ n && n ≤ 16777216)
  let f := bget b 4 2
  bget b 0 2 / 4096 != 0 || bget b 2 2 / 1024 != 0 || f / 16 != 0 || bget b 6 2 != 0 ||
  (bit f 1 && (rate (bget b 8 4) || rate (bget b 12 4) || burst (bget b 16 4) || burst (bget b 20 4))) ||
  (bit f 3 && (rate (bget b 24 4) || burst (bget b 28 4)))

/-- The staged entry of `LVR_ENT_REC`. -/
def Mach.lvrStaged (m : Mach) : List Byte := (List.range 4).flatMap fun i => leBytes 8 (m.reg (LVR_ENT_REC i)).toNat

/-- Valid entries of a domain (`LVR_DOM_CFG.ENTRIES`). -/
def Mach.lvrCount (m : Mach) (d : Nat) : Nat := (m.lvr.filter fun x => x.2.dom == d).length

/-- STATUS of a write of an entry at an index: 0 where it is done. -/
def Mach.lvrStatus (m : Mach) (i : Nat) (b : List Byte) : Nat :=
  let e := lvrOfBytes b m.now
  let others := SMap.del m.lvr i
  if others.any (fun x => x.2.dom == e.dom && x.2.port == e.port) then 1
  else if others.length ≥ 32768 || (others.filter fun x => x.2.dom == e.dom).length ≥ 64 then 2
  else if lvrRangeBad b then 3
  else if e.polEn && e.pir < e.cir then 4
  else 0

/-- LVR_ENT_WRITE (R373, R380): a pair's buckets keep their fill, clipped; those of a new pair are full; the counts are
zeroed. A record with VALID 0 leaves the entry invalid. -/
def lvrEntWrite (m : Mach) : Mach :=
  let i := m.rd LVR_ENT_SEL_INDEX
  let b := m.lvrStaged
  if !bit (bget b 4 2) 0 then ({ m with lvr := SMap.del m.lvr i }).wr LVR_ENT_CMD_STATUS 0
  else
    let st := m.lvrStatus i b
    if st ≠ 0 then (m.wr LVR_ENT_CMD_STATUS st).raise LVR_EVENT_CFG_REFUSED
    else
      let e := lvrOfBytes b m.now
      let e := match SMap.find m.lvr i with
        | some o => if o.dom = e.dom ∧ o.port = e.port then
              let o := o.upTo m.now
              { e with tc := min o.tc e.tc, tp := min o.tp e.tp, shp := min o.shp e.shp }
            else e
        | none => e
      (({ m with lvr := SMap.ins m.lvr i e }).wr LVR_ENT_CMD_STATUS 0).pumpAll

def execLvrEntWrite (s : State) : Res := act lvrEntWrite s

/-- LVR_ENT_FREE (R380): messages that waited on the entry's bucket become eligible. -/
def lvrEntFree (m : Mach) : Mach :=
  (({ m with lvr := SMap.del m.lvr (m.rd LVR_ENT_SEL_INDEX) }).wr LVR_ENT_CMD_STATUS 0).pumpAll

def execLvrEntFree (s : State) : Res := act lvrEntFree s

/-! ### Samplers (R386 to R389) -/

/-- K as it acts. -/
def Sampler.period (s : Sampler) : Nat := 2 ^ (max 6 (min 20 s.k))

/-- Depth and delay of the queue that a sampler watches (R386). -/
def Mach.sampleOf (m : Mach) (s : Sampler) : Nat × Nat :=
  let t := s.target
  let age := fun (o : Option Nat) => match o with | some x => m.now - x | none => 0
  match s.kind with
  | 1 =>
    let q := (m.voq (voqKey (t % 64) (t / 64 % 64) (t / 4096 % 8))).q
    ((q.map fun k => k.slots).sum, age (q.head?.map fun k => k.t0))
  | 2 =>
    let p := t % 1024
    let q := (List.range 8).flatMap fun v => m.egq p (t / 1024 % 8) v
    let oldest := q.foldl (fun (o : Option Nat) (k : Pkt) => match o with | some x => some (min x k.t1) | none => some k.t1) none
    ((q.map fun k => k.cells).sum, age oldest)
  | 3 =>
    let i := t % 1024 * 8 + t / 1024 % 8
    (SMap.get 0 m.ibuf i, age ((SMap.get [] m.ibTimes i).head?.map fun (x : Nat × Nat) => x.1))
  | 4 =>
    let q := m.trk.filter fun x => x.1 / 2048 == t % 64 && x.2.dom == t / 64 % 4096 && x.2.phase == .wantLookup
    let oldest := q.foldl (fun (o : Option Nat) (x : Nat × Trk) => match o with | some y => some (min y x.2.t0) | none => some x.2.t0) none
    (q.length, age oldest)
  | 5 =>
    match m.sqs.find? fun x => x.2.num == t % 65536 with
    | some (_, q) =>
      let tail := match q.bells.getLast? with | some b => b.1 | none => q.fetch
      let depth := u32sub tail q.head
      if depth = 0 then (0, 0)
      else (depth, age ((q.bells.find? fun b => 0 < u32sub b.1 q.head && u32sub b.1 q.head ≤ q.size).map fun (b : Nat × Nat) => b.2))
    | none => (0, 0)
  | _ => (0, 0)

/-- The bin of a shifted value (R388). -/
def bin (v : Nat) : Nat := if v < 2 then 0 else min 15 (Nat.log2 v)

/-- Add 1 to a count that saturates: the count, and whether it reaches its end now. -/
def satInc (n : Nat) : Nat × Bool := (min (n + 1) 0xFFFFFFFF, n + 1 == 0xFFFFFFFF)

/-- Record one sample (R388); the Bool says that a count saturated. -/
def Hist.record (h : Hist) (dscale qscale depth delay time : Nat) : Hist × Bool :=
  let db := bin (delay >>> dscale)
  let qb := bin (depth >>> qscale)
  let (dn, s1) := satInc (SMap.get 0 h.dbin db)
  let (qn, s2) := satInc (SMap.get 0 h.qbin qb)
  let (n, s3) := satInc h.n
  ({ dbin := SMap.set 0 h.dbin db dn, qbin := SMap.set 0 h.qbin qb qn,
     dmax := max h.dmax (min delay 0xFFFFFFFF), dmaxTime := if h.n = 0 || delay > h.dmax then time else h.dmaxTime,
     qmax := max h.qmax (min depth 0xFFFFFFFF), n := n, first := if h.n = 0 then time else h.first, last := time }, s1 || s2 || s3)

def Mach.sampler (m : Mach) (i : Nat) : Sampler := SMap.get {} m.smp i
def Mach.setSampler (m : Mach) (i : Nat) (s : Sampler) : Mach := { m with smp := SMap.set {} m.smp i s }

/-- A sampler takes its sample of an instant (R387). -/
def Mach.takeSample (m : Mach) (i : Nat) (s : Sampler) (instant : Nat) : Mach :=
  let (depth, delay) := m.sampleOf s
  let (h, sat) := s.live.record s.dscale s.qscale depth delay m.tbNs
  (m.setSampler i { s with live := h, taken := some instant }).raiseIf sat LVR_EVENT_HIST_SAT

/-- An instant has not been taken yet: the timebase has passed the last one taken (R525). -/
def Sampler.due (s : Sampler) (instant : Nat) : Bool :=
  1 ≤ s.kind && s.kind ≤ 5 && match s.taken with | some t => t < instant | none => true

/-- SAMPLE_INSTANT (R387): every sampler whose period divides TB_NS takes one sample. -/
def sampleInstant (m : Mach) : Mach :=
  m.smp.foldl (fun (m : Mach) (x : Nat × Sampler) =>
    if m.tbNs % x.2.period == 0 && x.2.due m.tbNs then m.takeSample x.1 x.2 m.tbNs else m) m

def execSampleInstant (s : State) : Res := act sampleInstant s

/-- SNAP (R389): on the sampler that LVR_SMP_SEL selects. -/
def snap (m : Mach) : Mach :=
  let i := m.rd LVR_SMP_SEL_INDEX
  let s := m.sampler i
  m.setSampler i { s with snap := s.live, live := {} }

def execSnap (s : State) : Res := act snap s

/-- LVR_SMP_CFG_WRITE (R387, R389): a change of KIND, TARGET or K clears the live histograms. -/
def lvrSmpCfgWrite (tgt : Bool) (v : BitVec 32) (m : Mach) : Mach :=
  let i := m.rd LVR_SMP_SEL_INDEX
  let w := v.toNat
  let m := if !tgt && bit w 16 then snap m else m
  let s := m.sampler i
  let n : Sampler := if tgt then { s with target := w }
                     else { s with kind := w % 8, k := w / 8 % 32, dscale := w / 256 % 16, qscale := w / 4096 % 16 }
  m.setSampler i (if n.kind = s.kind ∧ n.k = s.k ∧ n.target = s.target then n else { n with live := {} })

def execLvrSmpCfgWrite (tgt : Bool) (v : BitVec 32) (s : State) : Res := act (lvrSmpCfgWrite tgt v) s

end Sys2Proof.Machine
end

