-- ==== Sys2Proof/Machine/Hinge.lean ====
section
/-! DEFINITION. Sys2Proof/Machine/Hinge.lean: freezing, saving, restoring and thawing a domain (12, R357 to R372). -/
namespace Sys2Proof.Machine

/-! ### Records as bytes -/

/-- The 32 bytes of a violation record (R341). -/
def Viol.bytes (v : Viol) : List Byte :=
  leBytes 8 v.addr ++ leBytes 8 v.time ++ leBytes 2 v.source ++ leBytes 1 v.kind ++ leBytes 1 v.cause ++ leBytes 1 v.access ++
  leBytes 1 (if v.valid then 1 else 0) ++ leBytes 2 v.gen ++ leBytes 4 v.count ++ leBytes 2 v.slot ++ leBytes 2 0

def violOfBytes (b : List Byte) : Viol :=
  { addr := bget b 0 8, time := bget b 8 8, source := bget b 16 2, kind := bget b 18 1, cause := bget b 19 1, access := bget b 20 1,
    valid := bget b 21 1 % 2 == 1, gen := bget b 22 2, count := bget b 24 4, slot := bget b 28 2 }

/-! ### The image (R365, R366; element layouts that the manual leaves open: assumption log 26) -/

/-- Bytes padded to a multiple of 8. -/
def pad8 (b : List Byte) : List Byte := b ++ List.replicate ((8 - b.length % 8) % 8) 0

/-- A section: its head and its value. -/
def imgSection (typ count : Nat) (v : List Byte) : List Byte := leBytes 2 typ ++ leBytes 2 count ++ leBytes 4 v.length ++ pad8 v

/-- The DOMAIN element. -/
def Mach.imgDomain (m : Mach) (d : Nat) : List Byte :=
  let r := m.dom d
  let w := SMap.get {} m.specWin d
  leBytes 1 r.qclass ++ leBytes 1 (if r.cntAccess then 1 else 0) ++ leBytes 1 (if m.specOn d then 0 else 1) ++ leBytes 5 0 ++
  leBytes 4 w.eligible ++ leBytes 4 w.conflicts ++ leBytes 16 0 ++ r.viol.bytes

/-- ATTR of a Casement (R325). -/
def Casement.attr (c : Casement) : Nat :=
  let f := fun (b : Bool) n => if b then 2 ^ n else 0
  1 + f c.r 1 + f c.w 2 + f c.a 3 + f c.spec 4 + f c.coh 5 + c.hedge % 4 * 64 + f c.privOnly 8 + f c.ilv 9 + f c.mirror 10

/-- The QUEUES elements of an SQ and of a CQ. -/
def imgSq (id : Nat) (s : Sq) : List Byte :=
  leBytes 1 id ++ leBytes 1 0 ++ leBytes 1 s.log2 ++ leBytes 1 (s.cq.getD 0xFF) ++ leBytes 4 s.startPt ++ leBytes 8 s.ring ++
  leBytes 8 s.tailSh ++ leBytes 8 s.headSh ++ leBytes 1 (if s.error then 1 else 0) ++ leBytes 1 s.errSub ++
  leBytes 1 (if s.pendingDb then 1 else 0) ++ leBytes 1 0 ++ leBytes 4 s.errIndex ++ leBytes 24 0
def imgCq (id : Nat) (c : Cq) : List Byte :=
  leBytes 1 id ++ leBytes 1 1 ++ leBytes 1 c.log2 ++ leBytes 1 0xFF ++ leBytes 4 c.idx ++ leBytes 8 c.ring ++ leBytes 8 0 ++
  leBytes 8 c.headSh ++ leBytes 1 (if c.error then 1 else 0) ++ leBytes 1 0 ++ leBytes 1 0 ++ leBytes 1 (if c.idx / c.size % 2 = 0 then 1 else 0) ++
  leBytes 4 c.head ++ leBytes 1 id ++ leBytes 1 (if c.irq then 1 else 0) ++ leBytes 1 c.coalN ++ leBytes 1 c.coalT ++
  leBytes 2 c.ovf.length ++ leBytes 18 0

def Mach.imgQueues (m : Mach) (d : Nat) : List Byte :=
  let cqs := (m.cqIds d).filterMap fun c => (m.cqOf d c).map fun (q : Cq) => (c, q)
  ((m.sqIds d).flatMap fun q => match m.sq d q with | some s => imgSq q s | none => []) ++
  (cqs.flatMap fun (x : Nat × Cq) => imgCq x.1 x.2) ++
  (cqs.flatMap fun (x : Nat × Cq) => x.2.ovf.flatMap fun e => e.bytes 0 1)

/-- Frozen threads of a domain, by local index. -/
def Mach.frozenOf (m : Mach) (d : Nat) : List Nat := (m.frozen.filter fun x => x.1 / 64 == d).map fun x => x.1 % 64

/-- The PROGRAM element of a local index: the saved context, and the window's bytes from ORIGIN. -/
def Mach.imgThread (m : Mach) (d ix : Nat) : List Byte :=
  let c := Mem.readBytes m.ddr (m.ctxAt d ix) 512
  let s := m.seqd d
  let win := (if bget c 0x108 4 = 0 then 4 else bget c 0x108 4) * 1024
  let origin := bget c 0x100 8
  c ++ Mem.readBytes m.ddr (s.at + origin) (min win (s.bytes - origin)) ++ List.replicate (win - (s.bytes - origin)) 0

/-- Sections of a domain's image, in ascending TYPE. -/
def Mach.imgSections (m : Mach) (d : Nat) : List (List Byte) :=
  let r := m.dom d
  let lv := (m.lvr.filter fun x => x.2.dom == d).map fun x => x.2
  let th := m.frozenOf d
  [ imgSection 1 1 (m.imgDomain d),
    imgSection 2 r.cas.length (r.cas.flatMap fun (x : Nat × Casement) => leBytes 2 x.1 ++ leBytes 2 0 ++ leBytes 4 x.2.attr ++ leBytes 8 (x.2.base + x.2.k * 64)),
    imgSection 3 ((m.sqIds d).length + (m.cqIds d).length) (m.imgQueues d),
    imgSection 4 lv.length (lv.flatMap LvrEnt.bytes),
    imgSection 5 16 ((List.range 16).flatMap fun k => leBytes 8 (m.reg (CNT_DOM d k)).toNat) ] ++
  (if th.isEmpty then [] else [imgSection 6 th.length (th.flatMap (m.imgThread d))])

/-- The header of an image (R365). -/
def Mach.imgHeader (m : Mach) (d valid sections size : Nat) : List Byte :=
  let r := m.dom d
  [0x5A, 0x48, 0x4E, 0x47] ++ leBytes 2 1 ++ leBytes 1 valid ++ leBytes 1 sections ++ leBytes 8 size ++ leBytes 2 d ++ leBytes 2 r.gen ++
  leBytes 2 r.parent ++ leBytes 2 (r.vf.getD 0) ++ leBytes 8 m.tbNs ++ leBytes 8 Config.uid.toNat ++ leBytes 4 r.ruleEpoch ++ leBytes 20 0

/-- The image with VALID 0: header, sections, trailer (R366). -/
def Mach.image (m : Mach) (d : Nat) : List Byte :=
  let ss := m.imgSections d
  let body := ss.flatMap id
  let size := 64 + body.length + 8
  let head := m.imgHeader d 0 ss.length size
  head ++ body ++ leBytes 4 (crc32c (head ++ body)).toNat ++ leBytes 4 0

/-! ### Authority and freeze (R357 to R363) -/

/-- Requests of a domain that still drain (R361): neither answered nor timed out. -/
def Mach.domDrained (m : Mach) (d : Nat) : Bool :=
  !(m.trk.any fun x => x.2.dom == d && !x.2.answered && x.2.phase != .draining) &&
  !(m.trkWait.any fun x => x.2.any fun w => w.dom == d) && !(m.pipes.any fun x => x.2.any fun p => p.dom == some d) &&
  !(m.chans.any fun x => x.2.entry.dom == d) && !(m.threads.any fun x => !x.2.manager && x.2.dom == d) &&
  (m.sqIds d).all fun q => match m.sq d q with
    | some s => s.run.all fun r => r.done || m.frozen.any fun x => x.2.entry == some { dom := d, q := q, idx := r.idx }
    | none => true

def Mach.updHinge (m : Mach) (d : Nat) (f : HingeOp → HingeOp) : Mach :=
  match SMap.find m.hinges d with | some h => { m with hinges := SMap.ins m.hinges d (f h) } | none => m

/-- HINGE_FREEZE (R361 steps 1 to 3). -/
def hingeFreeze (d : Dom) (q : Fin 64) (idx : BitVec 32) (m : Mach) : Mach :=
  let e := eref d q idx
  m.onAdmin e [0xA0] fun m r =>
    let b := r.bytes
    let t := bodyDom e b 0x10
    let sweep := bit (bget b 0x14 1) 0
    if reservedSet b [(0x17, 1), (0x28, 24), (0x12, 2)] || bget b 0x14 1 / 2 != 0 || (sweep && (bget b 0x15 1 > 3 || bget b 0x16 1 > 63))
    then m.endEntry e { status := 4, sub := 21 }
    else if !m.mayCommand e.dom t then m.endEntry e { status := 2, sub := 1 }
    else if !m.domFree t then m
    else if (m.dom t).state != .active then m.endEntry e { status := 2, sub := 10 }
    else
      let m := m.updDom t fun r => { r with state := .frozen }
      let h : HingeOp := { op := 1, draining := true, sweep := if sweep then some (bget b 0x15 1, bget b 0x16 1) else none }
      let m := { m with hinges := SMap.ins m.hinges t h }
      let m := (m.sqIds t).foldl (fun m q => m.updSq t q fun s => { s with fetch := s.startPt, cache := [], scan := none, rescan := false }) m
      (m.freezeThreads t).setWork e (.freeze t)

def execHingeFreeze (d : Dom) (q : Fin 64) (idx : BitVec 32) (s : State) : Res := act (hingeFreeze d q idx) s

/-- The freeze of a domain is over: its entry, wherever it waits, ends (R361 step 5). -/
def Mach.freezeEnd (m : Mach) (d : Nat) : Mach :=
  match SMap.find m.hinges d with
  | none => m
  | some h =>
    let m := { m with hinges := SMap.del m.hinges d }
    let refs := m.sqs.flatMap fun x => (x.2.run.filter fun r => !r.done && r.work == .freeze d).map fun (r : Run) =>
      ({ dom := x.1 / 64, q := x.1 % 64, idx := r.idx } : EntryRef)
    refs.foldl (fun m e => m.endEntry e { result := h.timeouts % 2 ^ 32 + 2 ^ 32 * (h.lines % 2 ^ 32) }) m

/-- FREEZE_DRAIN_DONE (R361 step 3): threads that can stop do; once everything has drained, the sweep starts or the freeze
is over. -/
def freezeDrainDone (d : Dom) (m : Mach) : Mach :=
  match SMap.find m.hinges d with
  | none => m
  | some h =>
    if h.op != 1 || !h.draining then m
    else
      let m := m.freezeThreads d
      if !m.domDrained d then m
      else match h.sweep with
        | some _ => m.updHinge d fun h => { h with draining := false, sweeping := true }
        | none => m.freezeEnd d

def execFreezeDrainDone (d : Dom) (s : State) : Res := act (freezeDrainDone d) s

/-- Lines that a member holds in the coherence ranges of a domain's COH Casements (R363). -/
def Mach.sweepLines (m : Mach) (d h i : Nat) : List Nat :=
  m.allLines.filter fun k => keyHr k == h && (match m.ent k with | some e => bit e.pres i | none => false) &&
    (m.dom d).cas.any fun x => x.2.coh && x.2.hedge == h && (x.2.hpaOf k).isSome

/-- HINGE_SWEEP (R363): the walk finds the lines, which are evicted; when they are, the freeze is over. -/
def hingeSweep (d : Dom) (m : Mach) : Mach :=
  match SMap.find m.hinges d with
  | none => m
  | some h =>
    match h.sweeping, h.sweep, h.todo with
    | true, some (hr, i), none =>
      let l := m.sweepLines d hr i
      { m with toEvict := m.toEvict ++ l.filter fun k => !m.toEvict.contains k }.updHinge d fun h => { h with todo := some l, lines := l.length }
    | true, some _, some l => if l.any m.toEvict.contains then m else m.freezeEnd d
    | _, _, _ => m

def execHingeSweep (d : Dom) (s : State) : Res := act (hingeSweep d) s

/-! ### Save (R365 to R368) -/

/-- HINGE_SAVE (R367 steps 1 and 2): the image is written with VALID 0; the rest follows as its writes complete. -/
def hingeSave (d : Dom) (q : Fin 64) (idx : BitVec 32) (m : Mach) : Mach :=
  let e := eref d q idx
  m.onAdmin e [0xA1] fun m r =>
    let b := r.bytes
    let t := bodyDom e b 0x10
    if reservedSet b [(0x17, 1), (0x28, 24), (0x12, 2), (0x14, 1)] then m.endEntry e { status := 4, sub := 21 }
    else if !m.mayCommand e.dom t then m.endEntry e { status := 2, sub := 1 }
    else if !m.domFree t then m
    else if (m.dom t).state != .frozen then m.endEntry e { status := 2, sub := 10 }
    else if (m.dom t).kind != .func then m.endEntry e { status := 8, sub := 1 }
    else
      let img := m.image t
      let a := bget b 0x18 8
      if bget b 0x20 8 < img.length then m.endEntry e { status := 9, sub := 14, result := img.length }
      else
        let m := { m with hinges := SMap.ins m.hinges t { op := 2 } }
        let m := (cutLines a (img.length + 1) img).foldl (fun (m : Mach) (x : Nat × List Byte) =>
          m.agentLine (lineWrite (.hinge e) x.1 x.2) e.dom (e.dom == 0) 3 x.2.length) m
        m.setWork e (.save t a img.length false)

def execHingeSave (d : Dom) (q : Fin 64) (idx : BitVec 32) (s : State) : Res := act (hingeSave d q idx) s

/-- A save goes on when its writes have completed (R367 steps 3 and 4, R368): FLAGS with VALID 1, then the completion. A
refused or lost write ends it with VALID 0. -/
def Mach.saveStep (m : Mach) (e : EntryRef) (t a size : Nat) (flag : Bool) : Mach :=
  let mine := fun (s : ReqSrc) => s == .hinge e
  if m.trk.any (fun x => mine x.2.req.src) || m.trkWait.any (fun x => x.2.any fun w => mine w.req.src) then m
  else
    let got := m.agentDone.filter fun x => mine x.src
    let m := { m with agentDone := m.agentDone.filter fun x => !mine x.src }
    let ends := fun (m : Mach) (r : EntRes) => { m with hinges := SMap.del m.hinges t }.endEntry e r
    if got.any fun x => match x.why with | .refused _ => true | _ => false then ends m { status := 2 }
    else if got.any fun x => x.why == .lost || x.why == .timeout then ends m { status := 7 }
    else if flag then ends m { result := size }
    else (m.agentLine (lineWrite (.hinge e) (a + 6) [1]) e.dom (e.dom == 0) 3 1).setWork e (.save t a size true)

/-! ### Restore (R369) -/

/-- A section of an image: TYPE, COUNT and value. -/
structure ImgSec where
  typ : Nat
  count : Nat
  val : List Byte

/-- Cut the sections of an image; none where a length runs past the end. -/
def imgCut : Nat → List Byte → Option (List ImgSec)
  | 0, _ => some []
  | n + 1, b =>
    let len := bget b 4 4
    let tot := 8 + (len + 7) / 8 * 8
    if b.length < tot then none
    else match imgCut n (b.drop tot) with
      | some l => some ({ typ := bget b 0 2, count := bget b 2 2, val := (b.drop 8).take len } :: l)
      | none => none

/-- The value of a section. -/
def imgVal (l : List ImgSec) (t : Nat) : List Byte := match l.find? fun s => s.typ == t with | some s => s.val | none => []
def imgCount (l : List ImgSec) (t : Nat) : Nat := match l.find? fun s => s.typ == t with | some s => s.count | none => 0

/-- Checks of the image (R359, R369 step 1): the refusal's status and sub-code, or its sections. -/
def imgCheck (b : List Byte) : Except (Nat × Nat) (List ImgSec) :=
  let size := bget b 8 8
  let n := bget b 7 1
  if b.take 4 != [0x5A, 0x48, 0x4E, 0x47] || bget b 4 2 != 1 then .error (4, 11)
  else if !bit (bget b 6 1) 0 then .error (4, 13)
  else if size > b.length || size < 72 || size % 8 != 0 || !(n == 5 || n == 6) then .error (4, 11)
  else match imgCut n ((b.take (size - 8)).drop 64) with
    | none => .error (4, 11)
    | some l =>
      if l.map (fun s => s.typ) != (List.range n).map (· + 1) then .error (4, 11)
      else
        let z := (b.take 6) ++ [0] ++ ((b.take (size - 8)).drop 7)
        if bget b (size - 8) 4 != (crc32c z).toNat then .error (4, 12) else .ok l

/-- The elements of a list of equal pieces. -/
def pieces (n : Nat) : Nat → List Byte → List (List Byte)
  | 0, _ => []
  | k + 1, b => b.take n :: pieces n k (b.drop n)

/-- Cut the PROGRAM elements: contexts and windows. -/
def imgThreads : Nat → List Byte → List (List Byte × List Byte)
  | 0, _ => []
  | k + 1, b =>
    let c := b.take 512
    let win := (if bget c 0x108 4 = 0 then 4 else bget c 0x108 4) * 1024
    (c, (b.drop 512).take win) :: imgThreads k (b.drop (512 + win))

/-- A Casement of an image as SET_CASEMENT would carry it. -/
def imgCas (b : List Byte) (d : Nat) : Nat × CasBody :=
  (bget b 0 2, { base := bget b 8 8, attr := bget b 4 4, owner := d, target := 0, offset := 0, cohBase := 0 })

/-- Queues of an image's QUEUES section, placed for a domain of a generation. -/
def Mach.imgQueuesIn (m : Mach) (d gen : Nat) (l : List (List Byte)) (ovf : List Byte) : Mach :=
  (l.foldl (fun (st : Mach × List Byte) b =>
    let (m, ovf) := st
    let id := bget b 0 1 % 64
    if bget b 1 1 = 0 then
      (m.setSq d id { num := m.freeSqNum, log2 := bget b 2 1, ring := bget b 8 8, tailSh := bget b 16 8, headSh := bget b 24 8,
                      cq := if bget b 3 1 = 0xFF then none else some (bget b 3 1), fetch := bget b 4 4, head := bget b 4 4,
                      error := bget b 32 1 % 2 == 1, errSub := bget b 33 1, pendingDb := bget b 34 1 % 2 == 1, errIndex := bget b 36 4 }, ovf)
    else
      let n := bget b 44 2
      let es := (pieces 16 n ovf).map fun x =>
        ({ tag := bget x 0 2, status := bget x 2 1, sub := bget x 3 1, sqHead := bget x 4 4, gen := gen, sqId := bget x 10 1 } : CqEnt)
      (m.setCq d id { num := m.freeCqNum, log2 := bget b 2 1, ring := bget b 8 8, headSh := bget b 24 8, irq := bget b 41 1 % 2 == 1,
                      coalN := bget b 42 1, coalT := bget b 43 1, idx := bget b 4 4, head := bget b 36 4, ovf := es,
                      error := bget b 32 1 % 2 == 1 }, ovf.drop (16 * n))) (m, ovf)).1

/-- Casements of an image under the parent's (R369 steps 3 and 4): all of them, or the sub-code of the first that fails. -/
def Mach.imgCasIn (m : Mach) (d : Nat) : List (List Byte) → SMap Casement → Except Nat (SMap Casement)
  | [], t => .ok t
  | b :: rest, t =>
    let (slot, body) := imgCas b d
    let c := body.toCas
    if !c.rangeOk || body.reserved then .error 11
    else match m.parentCas d c with
      | none => .error 4
      | some p => if !c.narrower p then .error 4 else m.imgCasIn d rest (SMap.ins t (slot % 256) (c.under p))

/-- HINGE_RESTORE (R369). The memory that holds the image is read under the Casements of the issuing queue's domain. -/
def hingeRestore (d : Dom) (q : Fin 64) (idx : BitVec 32) (image : List Byte) (m : Mach) : Mach :=
  let e := eref d q idx
  m.onAdmin e [0xA2] fun m r =>
    let b := r.bytes
    let t := bodyDom e b 0x10
    let vf := bget b 0x12 2
    let a := bget b 0x18 8
    let len := bget b 0x20 8
    let no := fun (m : Mach) st sub => m.endEntry e { status := st, sub := sub }
    if reservedSet b [(0x17, 1), (0x28, 24), (0x14, 1)] then no m 4 21
    else if !((e.dom == 0 || e.dom == t) && t < 4096 && (m.dom t).kind == .host && (m.dom t).state != .free && t != 0) then no m 2 1
    else match m.check e.dom (e.dom == 0) { rd := true } a len with
    | .refuse bad cause slot =>
      no (m.violation e.dom { addr := bad, source := 0x8002, kind := 3, cause := cause, access := 1, slot := slot }) 2 0
    | .allow _ =>
    if (m.domPorts t).all (fun p => let v := m.vfRange p; !(v.1 ≤ vf && vf < v.1 + v.2)) ||
       m.doms.any (fun x => x.2.state != .free && x.2.vf == some vf) then no m 2 27
    else match imgCheck (image.take len) with
    | .error (st, sub) => no m st sub
    | .ok l =>
      let qs := pieces 64 (imgCount l 3) (imgVal l 3)
      let sqN := (qs.filter fun b => bget b 1 1 == 0).length
      let cqN := qs.length - sqN
      let ovf := (imgVal l 3).drop (64 * qs.length)
      let cas := pieces 16 (imgCount l 2) (imgVal l 2)
      let th := imgThreads (imgCount l 6) (imgVal l 6)
      match (List.range 4095).find? fun i => (m.dom (i + 1)).state == .free with
      | none => no m 9 15
      | some n0 =>
        let n := n0 + 1
        if m.poolUsed + cas.length > 65536 || sqN > 64 || cqN > 64 || m.sqs.length + sqN > 65536 || m.cqs.length + cqN > 65536 ||
           th.any (fun x => x.2.length > 1048576) || (ovf.length / 16 > 4096 * cqN) then no m 9 15
        else
          let gen := ((m.dom n).gen + 1) % 65536
          let dom := imgVal l 1
          let rec_ : DomRec := { state := .frozen, kind := .func, parent := t, qclass := bget dom 0 1 % 16, cntAccess := bget dom 1 1 % 2 == 1,
                                 gen := gen, vf := some vf, ruleEpoch := (m.dom n).ruleEpoch, viol := violOfBytes (dom.drop 32) }
          let m' := m.setDom n rec_
          match m'.imgCasIn n cas [] with
          | .error sub => no m (if sub = 4 then 2 else 4) sub
          | .ok cs =>
            -- one commit point for all of them
            let m := { m' with epoch := (m'.epoch + 1) % 2 ^ 32 }
            let m := m.setDom n { rec_ with cas := cs, ruleEpoch := m.epoch }
            let m := (m.giveSlice n).imgQueuesIn n gen qs ovf
            let m := { m with specWin := SMap.set {} m.specWin n { eligible := bget dom 8 4, conflicts := bget dom 12 4 } }
            let m := m.setSpec n (bget dom 2 1 % 2 == 1)
            let m := (List.range 16).foldl (fun m k => m.setReg (CNT_DOM n k) (BitVec.ofNat 64 (bget (imgVal l 5) (8 * k) 8))) m
            let (m, skipped) := (pieces 32 (imgCount l 4) (imgVal l 4)).foldl (fun (x : Mach × Nat) b =>
              let (m, k) := x
              let v := { lvrOfBytes b m.now with dom := n }
              if !(m.isDown v.port && m.portPooled v.port) || m.lvr.length ≥ 32768 || m.lvrCount n ≥ 64 then (m, k + 1)
              else
                let i := ((List.range 32768).find? fun i => (SMap.find m.lvr i).isNone).getD 0
                ({ m with lvr := SMap.ins m.lvr i v }, k)) (m, 0)
            let m := th.foldl (fun (m : Mach) (x : List Byte × List Byte) =>
              let ix := bget x.1 0xFA 2 % 64
              let s := m.seqd n
              let origin := bget x.1 0x100 8
              let ddr := Mem.writeBytes m.ddr (m.ctxAt n ix) x.1
              { m with ddr := Mem.writeBytes ddr (s.at + origin) (x.2.take (s.bytes - origin)),
                       frozen := SMap.ins m.frozen (n * 64 + ix) { entry := none, gen := gen } }) m
            m.endEntry e { result := n + 2 ^ 32 * skipped }

def execHingeRestore (d : Dom) (q : Fin 64) (idx : BitVec 32) (image : List Byte) (s : State) : Res := act (hingeRestore d q idx image) s

/-! ### Thaw (R370) -/

/-- HINGE_THAW (R370): Active again; the saved threads wait to be placed; every SQ is scanned. -/
def hingeThaw (d : Dom) (q : Fin 64) (idx : BitVec 32) (mems : List (Nat × QMem)) (m : Mach) : Mach :=
  let e := eref d q idx
  m.onAdmin e [0xA3] fun m r =>
    let b := r.bytes
    let t := bodyDom e b 0x10
    if reservedSet b [(0x17, 1), (0x28, 24), (0x12, 2), (0x14, 1)] then m.endEntry e { status := 4, sub := 21 }
    else if !m.mayCommand e.dom t then m.endEntry e { status := 2, sub := 1 }
    else if !m.domFree t then m
    else if (m.dom t).state != .frozen then m.endEntry e { status := 2, sub := 10 }
    else
      let m := m.updDom t fun r => { r with state := .active }
      let m := { m with frozen := m.frozen.map fun (x : Nat × FrozenThr) => if x.1 / 64 = t then (x.1, { x.2 with resume := true }) else x }
      let m := (m.sqIds t).foldl (fun m q =>
        let mem := match mems.find? fun x => x.1 == q with | some x => x.2 | none => {}
        (m.updSq t q fun s => { s with pendingDb := false }).tailBell t q mem) m
      m.endEntry e {}

def execHingeThaw (d : Dom) (q : Fin 64) (idx : BitVec 32) (mems : List (Nat × QMem)) (s : State) : Res := act (hingeThaw d q idx mems) s

end Sys2Proof.Machine
end

