-- ==== Sys2Proof/Machine/Queue.lean ====
section
/-! DEFINITION. Sys2Proof/Machine/Queue.lean: doorbells, how entries start and complete, the admin registers, and the opcodes
that the queues carry out themselves (14). -/
namespace Sys2Proof.Machine

/-! ### Doorbells (R400, R404, R410) -/

/-- SQ_TAIL_DOORBELL (R400, R401, R362). -/
def execSqTailDoorbell (d : Dom) (q : Fin 64) (mem : QMem) (s : State) : Res := act (fun m => m.tailBell d q mem) s

/-- CQ_HEAD_DOORBELL (R410, R412); head is what the read of the head shadow returns. -/
def execCqHeadDoorbell (d : Dom) (c : Fin 64) (head : Option Nat) (s : State) : Res := act (fun m => m.headBell d c head) s

/-- INVALIDATE_DOORBELL (R404): what it answers stands in WQ_INVAL_RESULT. -/
def invalidateDoorbell (d : Dom) (q : Fin 64) (i : BitVec 32) (mem : QMem) (m : Mach) : Mach :=
  if (m.sq d q).isNone then m
  else
    let (m, r) := m.invalidate d q i.toNat mem
    m.updQif d fun x => { x with inval := r }

def execInvalidateDoorbell (d : Dom) (q : Fin 64) (i : BitVec 32) (mem : QMem) (s : State) : Res := act (invalidateDoorbell d q i mem) s

/-! ### Start and completion (R401, R406) -/

/-- A RUN that its checks let through, at the front of an SQ's cache. -/
def Mach.frontRun (m : Mach) (d q : Nat) : Bool :=
  match m.sq d q with
  | some s => (match s.cache with | e :: _ => entOp e.bytes == 0x30 && (m.runRefusal d e.bytes).isNone | [] => false)
  | none => false

/-- ENTRY_START (R401, R402, R412, R421, R446): the next entry that may start; data movers start with their channel
(COPY_CHANNEL_ASSIGN), RUNs take threads round-robin among domains. -/
def entryStart (mem : QMem) (m : Mach) : Mach :=
  match m.nextStart (fun d q => !isMover (m.frontOp d q)) m.qLastDom m.qLast with
  | none => m
  | some (d, q) =>
    let at_ := if m.frontRun d q then (m.nextStart m.frontRun m.runLastDom m.qLast).getD (d, q) else (d, q)
    { m with qLastDom := at_.1, qLast := SMap.set 64 m.qLast at_.1 at_.2 }.startEntry at_.1 at_.2 mem

def execEntryStart (mem : QMem) (s : State) : Res := act (entryStart mem) s

/-- What an entry still waits for may have come: queues without started entries are freed or reset (R423), a domain of one
generation ends its reset (R349), a save goes on (R367). -/
def Mach.tryFinish (m : Mach) (e : EntryRef) (w : Work) : Mach :=
  match w with
  | .stopSq d q reset first =>
    if !m.sqIdle d q (some e) then m
    else
      let m := m.endEntry e { result := first }
      match reset with
      | some i => m.sqReset d q i
      | none => m.sqFree d q
  | .stopCq d c i =>
    if m.willPost d c > (if (m.sq e.dom e.q).any (fun s => e.dom == d && s.cq == some c && (m.run e).any fun r => r.posts) then 1 else 0) then m
    else
      let (m, n) := m.cqReset d c i
      m.endEntry e { result := n }
  | .domain d destroy =>
    if !m.genClear d || (destroy && m.domWalks d) then m
    else if destroy then (m.domDestroyEnd d).endEntry e {}
    else (m.domResetEnd d).endEntry e { result := (m.dom d).gen }
  | .save d a size flag => m.saveStep e d a size flag
  | _ => m

/-- A copy channel or a thread that works on an entry. -/
def Mach.inHand (m : Mach) (e : EntryRef) : Bool :=
  m.chans.any (fun x => x.2.entry == e) || m.threads.any fun x => x.2.entry == some e

/-- HEAD moves on (R398): finished entries leave, the head shadow is written, tails that doorbells covered go. -/
def Mach.moveHead (m : Mach) (d q : Nat) : Mach :=
  match m.sq d q with
  | none => m
  | some s =>
    let (h, run) := headRun s.head s.run
    m.setSq d q { s with head := h, run := run, bells := s.bells.filter fun (b : Nat × Nat) => 0 < u32sub b.1 h && u32sub b.1 h ≤ s.size }

/-- An entry of an old generation is done with (R350): nothing is written. -/
def Mach.dropStale (m : Mach) (e : EntryRef) (r : Run) : Mach :=
  let keep := match r.work with
    | .stopSq _ _ _ _ | .stopCq _ _ _ | .domain _ _ | .save _ _ _ _ => true
    | _ => false
  if keep || m.inHand e then m
  else
    let m := m.updSq e.dom e.q fun s => { s with run := s.run.filter fun x => x.idx != e.idx || x.done }
    (m.count (CNT_DOM e.dom 12) 1).closeIface e.dom

/-- The completion of an entry that is over (R406): its body, its first 16 bytes, the CQ entry, the head shadow. -/
def Mach.completeEntry (m : Mach) (e : EntryRef) (r : Run) (x : EntRes) (hsh : Option Nat) : Mach :=
  match m.sq e.dom e.q with
  | none => m
  | some s =>
    let m := x.writes.foldl (fun (m : Mach) (w : Nat × List Byte) => m.qWrite e.dom (s.at e.idx + w.1) w.2) m
    let m := m.inPlace e.dom s e.idx r.bytes x
    let m := (m.updRun e fun r => { r with done := true }).moveHead e.dom e.q
    let head := match m.sq e.dom e.q with | some s => s.head | none => s.head
    let m := match s.cq, r.posts with
      | some c, true => m.cqPost e.dom c { tag := entTag r.bytes, status := x.status, sub := x.sub, sqHead := head, gen := (m.dom e.dom).gen, sqId := e.q } hsh
      | _, _ => m
    let m := if head = s.head then m else m.qWrite e.dom s.headSh (leBytes 4 head)
    m.closeIface e.dom

/-- ENTRY_COMPLETE (R406): once its requests have finished; hsh is what a reread of the CQ head shadow returns. -/
def entryComplete (d : Dom) (q : Fin 64) (idx : BitVec 32) (hsh : Option Nat) (m : Mach) : Mach :=
  let e := eref d q idx
  match m.run e with
  | none => m
  | some r0 =>
    let m := m.tryFinish e r0.work
    match m.run e with
    | none => m
    | some r =>
      if m.entryBusy e then m
      else if r.gen ≠ (m.dom d).gen then m.dropStale e r
      else match r.work with
        | .finished x => m.completeEntry e r x hsh
        | _ => m

def execEntryComplete (d : Dom) (q : Fin 64) (idx : BitVec 32) (hsh : Option Nat) (s : State) : Res := act (entryComplete d q idx hsh) s

/-- MSIX_COALESCE_TIMER (R409). -/
def msixCoalesceTimer (d : Dom) (c : Fin 64) (m : Mach) : Mach :=
  match m.cqOf d c with
  | some q => if q.irq && q.coalT != 0 && q.since != 0 then (m.setCq d c { q with since := 0 }).fnIrq d c else m
  | none => m

def execMsixCoalesceTimer (d : Dom) (c : Fin 64) (s : State) : Res := act (msixCoalesceTimer d c) s

/-- WQ_ADM_CFG_WRITE (R425). -/
def Mach.wqCfgWrite (m : Mach) (d : Nat) (v : Nat) : Mach :=
  if (m.dom d).state = .free then m
  else
    let was := bit (m.qif d).cfg 16
    let cfg := v &&& 0x13F1F
    let m := m.updQif d fun x => { x with cfg := cfg }
    match was, bit cfg 16 with
    | false, true => if (m.qif d).closing then m else m.openIface d
    | true, false =>
      if (m.qif d).ready then
        let m := (m.sqIds d).foldl (fun m q => m.sqClose d q) m
        (m.updQif d fun x => { x with closing := true }).closeIface d
      else m.updQif d fun x => { x with cfgErr := false }
    | _, _ => m

def execWqAdmCfgWrite (d : Dom) (v : BitVec 32) (s : State) : Res := act (fun m => m.wqCfgWrite d v.toNat) s

/-! ### Opcodes (R397, R415 to R421) -/

/-- NOP (R397): like PAD, but for its CQ entry. -/
def nopEntry (e : EntryRef) (m : Mach) : Mach := m.onEntry e [0x00] fun m _ => m.endEntry e {}
def execNopEntry (d : Dom) (q : Fin 64) (idx : BitVec 32) (s : State) : Res := act (nopEntry (eref d q idx)) s

/-- PAD (R397): its body is never checked. -/
def padEntry (e : EntryRef) (m : Mach) : Mach := m.onEntry e [0x01] fun m _ => m.endEntry e {}
def execPadEntry (d : Dom) (q : Fin 64) (idx : BitVec 32) (s : State) : Res := act (padEntry (eref d q idx)) s

/-- A descriptor is taken up by the entry's channel (R416, R427, R431): its checks run. -/
def Mach.loadCopy (m : Mach) (e : EntryRef) (op kind : Nat) : Mach :=
  m.onEntry e [op] fun m r =>
    let b := r.bytes
    let m := { m with chans := m.chans.map fun (x : Nat × CopyChan) =>
      if x.2.entry = e then
        (x.1, { x.2 with kind := kind, a := bget b 0x10 8, b := bget b 0x18 8, len := bget b 0x20 8, dflags := bget b 0x28 4,
                         pattern := bget b 0x30 8, loaded := true, checking := true })
      else x }
    m.setWork e .busy

/-- COPY (R416). -/
def copyEntry (e : EntryRef) (m : Mach) : Mach := m.loadCopy e 0x10 0
def execCopyEntry (d : Dom) (q : Fin 64) (idx : BitVec 32) (s : State) : Res := act (copyEntry (eref d q idx)) s

/-- FILL (R416). -/
def fillEntry (e : EntryRef) (m : Mach) : Mach := m.loadCopy e 0x11 1
def execFillEntry (d : Dom) (q : Fin 64) (idx : BitVec 32) (s : State) : Res := act (fillEntry (eref d q idx)) s

/-- VERIFY (R418). -/
def verifyEntry (e : EntryRef) (m : Mach) : Mach := m.loadCopy e 0x12 2
def execVerifyEntry (d : Dom) (q : Fin 64) (idx : BitVec 32) (s : State) : Res := act (verifyEntry (eref d q idx)) s

/-! ATOMIC (R419) -/

/-- Offset of an element in its entry. -/
def elemAt (k : Nat) : Nat := 0x20 + 32 * k

/-- Size of an element's operand in bytes; 0 where SIZE names none. -/
def elemSize (b : List Byte) (k : Nat) : Nat :=
  match bget b (elemAt k + 9) 1 with | 0 => 4 | 1 => 8 | 2 => 16 | _ => 0

/-- Element k is a 16-byte CAS, which takes element k + 1 too. -/
def elemWide (b : List Byte) (k : Nat) : Bool := bget b (elemAt k + 8) 1 == 9 && elemSize b k == 16

/-- Whether the elements from k on are laid out as R419 gives: reserved bytes 0, operand B only with CAS, the second half of a
16-byte CAS within COUNT. -/
def elemsOk (b : List Byte) (n : Nat) : Nat → Nat → Bool
  | 0, _ => true
  | fuel + 1, k =>
    if n ≤ k then true
    else
      let o := elemAt k
      bget b (o + 10) 6 == 0 && (bget b (o + 8) 1 == 9 || bget b (o + 24) 8 == 0) &&
      (if elemWide b k then k + 1 < n && bget b (o + 32) 16 == 0 && elemsOk b n fuel (k + 2) else elemsOk b n fuel (k + 1))

/-- The operands of an element. -/
def elemA (b : List Byte) (k : Nat) : Nat := bget b (elemAt k + 16) 8 + (if elemWide b k then 2 ^ 64 * bget b (elemAt k + 48) 8 else 0)
def elemB (b : List Byte) (k : Nat) : Nat := bget b (elemAt k + 24) 8 + (if elemWide b k then 2 ^ 64 * bget b (elemAt k + 56) 8 else 0)

/-- The batch is over after `next` elements. -/
def atomicRes (status next cas : Nat) (olds : List (Nat × List Byte)) : EntRes :=
  { status := status, result := next + 2 ^ 32 * cas, writes := olds }

/-- Ask for element k of an ATOMIC entry, or end it where the element is refused before it is asked for (R311). -/
def Mach.atomicAsk (m : Mach) (e : EntryRef) (b : List Byte) (k cas : Nat) (olds : List (Nat × List Byte)) : Mach :=
  let n := bget b 0x10 1
  let op := bget b (elemAt k + 8) 1
  let size := elemSize b k
  let a := bget b (elemAt k) 8
  if n ≤ k then m.endEntry e (atomicRes 0 k cas olds)
  else if !atomicSupported op size then m.endEntry e (atomicRes 8 k cas olds)
  else if a % size ≠ 0 then m.endEntry e (atomicRes 1 k cas olds)
  else (m.setWork e (.atomic k cas true olds)).agentReq
    { src := .queue e, kind := .atomic op size (elemA b k) (elemB b k), addr := a, len := size } e.dom (e.dom == 0) 3

/-- ATOMIC (R419): the first application checks the entry and asks for element 0; each further one takes up an element's result
and asks for the next. -/
def atomicEntry (e : EntryRef) (m : Mach) : Mach :=
  match m.run e with
  | none => m
  | some r =>
    let b := r.bytes
    let n := bget b 0x10 1
    match r.work with
    | .fresh => m.onEntry e [0x20] fun m _ =>
      if reservedSet b [(0x11, 15)] || n = 0 || n > 7 || entLen b < n + 1 || !elemsOk b n 8 0 then m.endEntry e { status := 4, sub := 21 }
      else m.atomicAsk e b 0 0 []
    | .atomic k cas true olds =>
      (match m.takeDone fun s => s == .queue e with
      | none => m
      | some (x, m) =>
        let stop := fun (m : Mach) st => m.endEntry e (atomicRes st k cas olds)
        match x.why, x.rsp with
        | .refused _, _ => stop m 2
        | .lost, _ => stop m 7
        | .timeout, _ => stop m 7
        | .real, .data v false _ =>
          let wide := elemWide b k
          let olds := olds ++ [(elemAt k + 16, leBytes 8 v)] ++ (if wide then [(elemAt k + 48, leBytes 8 (v / 2 ^ 64))] else [])
          let hit := bget b (elemAt k + 8) 1 == 9 && v == elemA b k % 2 ^ (8 * elemSize b k)
          m.atomicAsk e b (if wide then k + 2 else k + 1) (if hit then withBit cas k true else cas) olds
        | .real, _ => stop m 6)
    | _ => m

def execAtomicEntry (d : Dom) (q : Fin 64) (idx : BitVec 32) (s : State) : Res := act (atomicEntry (eref d q idx)) s

/-- RUN (R420, R446): refused, or left to its thread. -/
def runEntry (e : EntryRef) (m : Mach) : Mach :=
  m.onEntry e [0x30] fun m r =>
    match m.runRefusal e.dom r.bytes with
    | some (st, sub) => m.endEntry e { status := st, sub := sub }
    | none => m.setWork e .busy

def execRunEntry (d : Dom) (q : Fin 64) (idx : BitVec 32) (s : State) : Res := act (runEntry (eref d q idx)) s

/-! FENCE (R421) -/

/-- KIND of a FENCE; an entry of a KIND that does not exist is malformed under FENCE_MEM. -/
def fenceKind (b : List Byte) : Nat := bget b 0x10 1

/-- Reserved bits of a FENCE (R414). -/
def fenceBad (b : List Byte) : Bool := reservedSet b [(0x14, 12)] || bget b 0x11 1 / 2 != 0 || fenceKind b > 2

/-- FENCE_MEM: every earlier entry of its SQ has completed when it starts. -/
def fenceMem (e : EntryRef) (m : Mach) : Mach :=
  m.onEntry e [0x40] fun m r =>
    if fenceBad r.bytes then m.endEntry e { status := 4, sub := 21 }
    else if fenceKind r.bytes = 0 then m.endEntry e {} else m

def execFenceMem (d : Dom) (q : Fin 64) (idx : BitVec 32) (s : State) : Res := act (fenceMem (eref d q idx)) s

/-- The rule fence of a FENCE entry of a KIND (R347, R421). -/
def Mach.fenceEntry (m : Mach) (e : EntryRef) (kind : Nat) : Mach :=
  m.onEntry e [0x40] fun m r =>
    let b := r.bytes
    let all := bit (bget b 0x11 1) 0
    let t := bodyDom e b 0x12
    if fenceBad b || fenceKind b ≠ kind then m
    else if (if all then e.dom ≠ 0 else !m.mayQueue e.dom t) then m.endEntry e { status := 2, sub := 1 }
    else (m.setWork e .busy).fence (if all then none else some t) (some e) none

/-- FENCE_RULE. -/
def fenceRule (e : EntryRef) (m : Mach) : Mach := m.fenceEntry e 1
def execFenceRule (d : Dom) (q : Fin 64) (idx : BitVec 32) (s : State) : Res := act (fenceRule (eref d q idx)) s

/-- FENCE_ALL: the memory part holds at its start. -/
def fenceAll (e : EntryRef) (m : Mach) : Mach := m.fenceEntry e 2
def execFenceAll (d : Dom) (q : Fin 64) (idx : BitVec 32) (s : State) : Res := act (fenceAll (eref d q idx)) s

/-! ### Queue commands (R422, R423) -/

/-- CREATE_SQ (R422). -/
def createSq (e : EntryRef) (m : Mach) : Mach :=
  m.onAdmin e [0x80] fun m r =>
    let b := r.bytes
    let t := bodyDom e b 0x10
    let id := bget b 0x12 1
    let n := bget b 0x13 1
    let c := bget b 0x14 1
    let no := fun st sub => m.endEntry e { status := st, sub := sub }
    if reservedSet b [(0x30, 16)] then no 4 21
    else if !m.mayQueue e.dom t then no 2 1
    else if id = 0 || id > 63 || (m.sq t id).isSome || n < 12 || 24 < n then no 4 22
    else if c ≠ 0xFF ∧ (c > 63 ∨ (m.cqOf t c).isNone) then no 4 23
    else if m.sqs.length ≥ 65536 then no 9 28
    else
      let num := m.freeSqNum
      let m := m.setSq t id { num := num, log2 := n, ring := bget b 0x18 8, tailSh := bget b 0x20 8, headSh := bget b 0x28 8,
                              cq := if c = 0xFF then none else some c }
      (m.qWrite t (bget b 0x28 8) (leBytes 4 0)).endEntry e { result := num }

def execCreateSq (d : Dom) (q : Fin 64) (idx : BitVec 32) (s : State) : Res := act (createSq (eref d q idx)) s

/-- CREATE_CQ (R422). -/
def createCq (e : EntryRef) (m : Mach) : Mach :=
  m.onAdmin e [0x82] fun m r =>
    let b := r.bytes
    let t := bodyDom e b 0x10
    let id := bget b 0x12 1
    let n := bget b 0x13 1
    let no := fun st sub => m.endEntry e { status := st, sub := sub }
    if reservedSet b [(0x30, 16), (0x14, 1), (0x28, 8)] || bget b 0x15 1 / 2 != 0 then no 4 21
    else if !m.mayQueue e.dom t then no 2 1
    else if id = 0 || id > 63 || (m.cqOf t id).isSome || n < 12 || 24 < n then no 4 22
    else if m.cqs.length ≥ 65536 then no 9 28
    else
      let num := m.freeCqNum
      let m := m.setCq t id { num := num, log2 := n, ring := bget b 0x18 8, headSh := bget b 0x20 8, irq := bit (bget b 0x15 1) 0,
                              coalN := bget b 0x16 1, coalT := bget b 0x17 1 }
      m.endEntry e { result := num }

def execCreateCq (d : Dom) (q : Fin 64) (idx : BitVec 32) (s : State) : Res := act (createCq (eref d q idx)) s

/-- DESTROY_SQ (R422, R423): the scan stops and the unstarted entries go; the SQ is freed when its started entries have
completed. -/
def destroySq (e : EntryRef) (m : Mach) : Mach :=
  m.onAdmin e [0x81] fun m r =>
    let b := r.bytes
    let t := bodyDom e b 0x10
    let id := bget b 0x12 1
    let no := fun st sub => m.endEntry e { status := st, sub := sub }
    if reservedSet b [(0x18, 8)] then no 4 21
    else if !m.mayQueue e.dom t then no 2 1
    else if id > 63 then no 4 22
    else match m.sq t id with
      | none => no 4 23
      | some s =>
        if id = 0 then no 2 24
        else if s.closing then m
        else (m.sqClose t id).setWork e (.stopSq t id none s.startPt)

def execDestroySq (d : Dom) (q : Fin 64) (idx : BitVec 32) (s : State) : Res := act (destroySq (eref d q idx)) s

/-- DESTROY_CQ (R422). -/
def destroyCq (e : EntryRef) (m : Mach) : Mach :=
  m.onAdmin e [0x83] fun m r =>
    let b := r.bytes
    let t := bodyDom e b 0x10
    let id := bget b 0x12 1
    let no := fun st sub => m.endEntry e { status := st, sub := sub }
    if reservedSet b [(0x18, 8)] then no 4 21
    else if !m.mayQueue e.dom t then no 2 1
    else if id > 63 then no 4 22
    else match m.cqOf t id with
      | none => no 4 23
      | some c =>
        if id = 0 || !c.ovf.isEmpty || (m.sqIds t).any (fun q => (m.sq t q).any fun s => s.cq == some id) then no 2 24
        else (m.cqFree t id).endEntry e {}

def execDestroyCq (d : Dom) (q : Fin 64) (idx : BitVec 32) (s : State) : Res := act (destroyCq (eref d q idx)) s

/-- RESET_QUEUE (R423): of an SQ as DESTROY_SQ begins; of a CQ its bound SQs are held until no started entry will post. -/
def resetQueue (e : EntryRef) (m : Mach) : Mach :=
  m.onAdmin e [0x84] fun m r =>
    let b := r.bytes
    let t := bodyDom e b 0x10
    let id := bget b 0x12 1
    let no := fun st sub => m.endEntry e { status := st, sub := sub }
    if reservedSet b [(0x18, 8)] || bget b 0x13 1 > 1 then no 4 21
    else if !m.mayQueue e.dom t then no 2 1
    else if id > 63 then no 4 22
    else if bget b 0x13 1 = 0 then
      match m.sq t id with
      | none => no 4 23
      | some s => if s.closing then m else (m.sqClose t id).setWork e (.stopSq t id (some (bget b 0x14 4)) s.startPt)
    else match m.cqOf t id with
      | none => no 4 23
      | some c => if c.held then m else (m.setCq t id { c with held := true }).setWork e (.stopCq t id (bget b 0x14 4))

def execResetQueue (d : Dom) (q : Fin 64) (idx : BitVec 32) (s : State) : Res := act (resetQueue (eref d q idx)) s

/-- INVALIDATE (R404, R415): as an invalidate doorbell of the SQ that it names. -/
def invalidateEntry (e : EntryRef) (mem : QMem) (m : Mach) : Mach :=
  m.onAdmin e [0x85] fun m r =>
    let b := r.bytes
    let t := bodyDom e b 0x10
    let id := bget b 0x12 1
    let no := fun st sub => m.endEntry e { status := st, sub := sub }
    if reservedSet b [(0x18, 8)] || bget b 0x13 1 != 0 then no 4 21
    else if !m.mayQueue e.dom t then no 2 1
    else if id > 63 then no 4 22
    else if (m.sq t id).isNone then no 4 23
    else
      let (m, x) := m.invalidate t id (bget b 0x14 4) mem
      (m.updQif t fun i => { i with inval := x }).endEntry e { result := x }

def execInvalidate (d : Dom) (q : Fin 64) (idx : BitVec 32) (mem : QMem) (s : State) : Res := act (invalidateEntry (eref d q idx) mem) s

end Sys2Proof.Machine
end

