-- ==== Sys2Proof/Machine/Copy.lean ====
section
/-! DEFINITION. Sys2Proof/Machine/Copy.lean: the copy engine (15): channels, the checks before any byte moves, overlap, chunks,
their CRC, and how a descriptor ends. -/
namespace Sys2Proof.Machine

/-! ### CRC (R140, R437) -/

/-- One bit, one byte of the reflected CRC-64. -/
def crc64Bit (c : BitVec 64) : BitVec 64 := if c.getLsbD 0 then (c >>> 1) ^^^ 0xC96C5795D7870F42 else c >>> 1
def crc64Byte (c : BitVec 64) (b : Byte) : BitVec 64 :=
  crc64Bit (crc64Bit (crc64Bit (crc64Bit (crc64Bit (crc64Bit (crc64Bit (crc64Bit (c ^^^ b.zeroExtend 64))))))))

/-- CRC-64 of bytes (R140). -/
def crc64 (bs : List Byte) : BitVec 64 := ~~~(bs.foldl crc64Byte (~~~0))

/-- The CRC of X followed by Y, from the two CRCs and the length of Y (R437). -/
def crc32cJoin (x y : BitVec 32) (n : Nat) : BitVec 32 := (List.replicate n (0 : Byte)).foldl crcByte x ^^^ y
def crc64Join (x y : BitVec 64) (n : Nat) : BitVec 64 := (List.replicate n (0 : Byte)).foldl crc64Byte x ^^^ y

/-- The CRC of a descriptor's bytes of one kind. -/
def copyCrc (wide : Bool) (bs : List Byte) : Nat := if wide then (crc64 bs).toNat else (crc32c bs).toNat
def copyCrcJoin (wide : Bool) (x y n : Nat) : Nat :=
  if wide then (crc64Join (BitVec.ofNat 64 x) (BitVec.ofNat 64 y) n).toNat else (crc32cJoin (BitVec.ofNat 32 x) (BitVec.ofNat 32 y) n).toNat

/-! ### Channels -/

def Mach.chan (m : Mach) (ch : Nat) : Option CopyChan := SMap.find m.chans ch
def Mach.setChan (m : Mach) (ch : Nat) (c : CopyChan) : Mach := { m with chans := SMap.ins m.chans ch c }
def Mach.updChan (m : Mach) (ch : Nat) (f : CopyChan → CopyChan) : Mach :=
  match m.chan ch with | some c => m.setChan ch (f c) | none => m

def CopyChan.crcEn (c : CopyChan) : Bool := bit c.dflags 0
def CopyChan.crc64 (c : CopyChan) : Bool := bit c.dflags 1
def CopyChan.force (c : CopyChan) : Bool := bit c.dflags 2
def CopyChan.compare (c : CopyChan) : Bool := bit c.dflags 3

/-- The destination range of a descriptor (R432). -/
def CopyChan.dst (c : CopyChan) : Nat := if c.kind = 0 then c.b else c.a
def CopyChan.dstPieces (c : CopyChan) : List CopyPiece := if c.kind = 0 then c.piecesB else c.piecesA
/-- It has a second range: a COPY, a COMPARE. -/
def CopyChan.two (c : CopyChan) : Bool := c.kind == 0 || (c.kind == 2 && c.compare)
/-- What an access to its first, its second range needs (R430). -/
def CopyChan.needA (c : CopyChan) : Need := if c.kind = 1 then { wr := true } else { rd := true }
def CopyChan.needB (c : CopyChan) : Need := if c.kind = 0 then { wr := true } else { rd := true }

/-- COPY_CHANNEL_ASSIGN (R427): a free channel goes to a waiting entry, round-robin. -/
def copyChannelAssign (mem : QMem) (m : Mach) : Mach :=
  match m.nextStart (fun d q => isMover (m.frontOp d q)) m.cpeLastDom m.cpeLast with
  | none => m
  | some (d, q) => m.startEntry d q mem

def execCopyChannelAssign (mem : QMem) (s : State) : Res := act (copyChannelAssign mem) s

/-! ### Pieces and their target space (R431, R433) -/

/-- The Casement that serves an address for a domain's agent; none: the default map. -/
def Mach.casFor (m : Mach) (d a : Nat) : Option Casement := (m.casAt d a).map fun x => x.2

/-- The pieces of a range, or the first disallowed byte with its cause and slot (R430, R431). -/
def Mach.piecesFrom (m : Mach) (d : Nat) (n : Need) (e : Nat) : Nat → Nat → Except (Nat × Nat × Nat) (List CopyPiece)
  | 0, a => .error (a, 1, 0xFFFF)
  | fuel + 1, a =>
    match m.checkByte d (d == 0) n a with
    | (.refuse b c s, _) => .error (b, c, s)
    | (.allow _, next) =>
      let p : CopyPiece := { start := a, len := min next e - a, cas := m.casFor d a }
      if e ≤ next then .ok [p]
      else match m.piecesFrom d n e fuel next with
        | .ok l => .ok (p :: l)
        | .error x => .error x

/-- An address of a piece in its target space: the target (0 a device, 1 an interleave set, 2 a mirror pair; its number; its
LD) and the position (R433). -/
def Mach.space (m : Mach) (p : CopyPiece) (a : Nat) : (Nat × Nat × Nat) × Nat :=
  match p.cas with
  | some c =>
    let s := a - c.base + c.offset
    if c.ilv then ((1, c.target % 1024, 0), s)
    else if c.mirror then ((2, c.target % 512, 0), s)
    else ((0, c.target % 1024, if bit c.target 14 then c.target / 1024 % 16 else 16), s)
  | none => match m.defaultMap a with
    | some x => ((0, x.port, x.ld.getD 16), x.dpa)
    | none => ((3, 0, 0), a)

/-- Where the bytes of a piece live: ports, LDs and DPA intervals (15, Overlap). -/
def Mach.spans (m : Mach) (p : CopyPiece) : List ((Nat × Nat) × Nat × Nat) :=
  let (t, s0) := m.space p p.start
  let s1 := s0 + p.len
  let ld := fun (b : Member) => if b.mld then b.ld else 16
  match t with
  | (1, i, _) =>
    let st := m.ilvSet i
    let g := st.bytes
    let n := st.count
    (List.range n).filterMap fun w =>
      let b := SMap.get {} st.members w
      let dpa := fun (s : Nat) => b.dpaBase + s / g / n * g + s % g
      let lo := if s0 / g % n = w then s0 else (s0 / g + (w + n - s0 / g % n) % n) * g
      let hi := if (s1 - 1) / g % n = w then s1 else ((s1 - 1) / g - ((s1 - 1) / g % n + n - w) % n) * g + g
      if lo < hi ∧ lo < s1 then some ((b.port, ld b), dpa lo, dpa (hi - 1) + 1) else none
  | (2, i, _) =>
    let q := m.mirPair i
    [((q.m0.port, ld q.m0), q.m0.dpaBase + s0, q.m0.dpaBase + s1), ((q.m1.port, ld q.m1), q.m1.dpaBase + s0, q.m1.dpaBase + s1)]
  | (_, port, l) => [((port, l), s0, s1)]

/-- Two pieces have a byte in common. -/
def Mach.meets (m : Mach) (p q : CopyPiece) : Bool :=
  (m.spans p).any fun x => (m.spans q).any fun y => x.1 == y.1 && x.2.1 < y.2.2 && y.2.1 < x.2.2

/-- Displacements of the overlapping pairs of a COPY; none where one of them is not orderable (R433). -/
def Mach.shifts (m : Mach) (c : CopyChan) : Option (List Int) :=
  let l := c.piecesA.flatMap fun p => (c.piecesB.filter fun q => m.meets p q).map fun q =>
    let (tp, sp) := m.space p p.start
    let (tq, sq) := m.space q q.start
    if tp = tq then some (((sq + c.b : Nat) : Int) - q.start - (((sp + c.a : Nat) : Int) - p.start)) else none
  if l.any Option.isNone then none else some (l.filterMap id)

/-- The piece that an address lies in. -/
def pieceAt (l : List CopyPiece) (a : Nat) : Option CopyPiece := l.find? fun p => p.start ≤ a && a < p.start + p.len

/-- Source and destination of an offset are the same byte (R435). -/
def Mach.sameAt (m : Mach) (c : CopyChan) (off : Nat) : Bool :=
  match pieceAt c.piecesA (c.a + off), pieceAt c.piecesB (c.b + off) with
  | some p, some q => m.space p (c.a + off) == m.space q (c.b + off)
  | _, _ => false

/-! ### Checks (R429, R430) -/

/-- The first check of R429 that fails, before the access checks. -/
def copyBad (b : List Byte) (c : CopyChan) : Option (Nat × Nat) :=
  if reservedSet b [(0x2C, 4), (0x38, 8)] || c.dflags / 16 != 0 || (!c.two && c.b != 0) || (c.kind != 1 && c.pattern != 0) then some (4, 21)
  else if c.len < 64 || 2 ^ 32 < c.len || 2 ^ 64 < c.a + c.len || (c.two && 2 ^ 64 < c.b + c.len) || (c.crc64 && !c.crcEn) ||
          (c.force && c.kind != 0) || (c.compare && c.kind != 2) then some (4, 32)
  else if c.a % 64 != 0 || c.b % 64 != 0 || c.len % 64 != 0 then some (1, 33)
  else none

/-- A channel's descriptor is over: its entry ends, unless its generation has (R350, R438); the channel is free. -/
def Mach.chanEnd (m : Mach) (ch : Nat) (c : CopyChan) (r : EntRes) : Mach :=
  let m := { m with chans := SMap.del m.chans ch, agentDone := m.agentDone.filter fun x => match x.src with | .copy k _ => k != ch | _ => true }
  if c.ending = some .generation then m else m.endEntry c.entry r

/-- COPY_CHECKS_DONE (R429 to R435). -/
def copyChecksDone (ch : Fin 256) (m : Mach) : Mach :=
  match m.chan ch with
  | none => m
  | some c =>
    if !c.loaded || !c.checking || c.ending.isSome then m
    else
      let d := c.entry.dom
      let b := match m.run c.entry with | some r => r.bytes | none => []
      let no := fun (m : Mach) st sub => m.chanEnd ch c { status := st, sub := sub }
      let refused := fun (n : Need) (x : Nat × Nat × Nat) sub =>
        no (m.violation d { addr := x.1, source := 0x8000, kind := 4, cause := x.2.1, access := n.code, slot := x.2.2 }) 2 sub
      match copyBad b c with
      | some (st, sub) => no m st sub
      | none =>
        match m.piecesFrom d c.needA (c.a + c.len) 640 c.a, (if c.two then m.piecesFrom d c.needB (c.b + c.len) 640 c.b else .ok []) with
        | .error x, _ => refused c.needA x 34
        | .ok _, .error x => refused c.needB x 35
        | .ok pa, .ok pb =>
          let c := { c with piecesA := pa, piecesB := pb, checking := false, active := true }
          if c.kind ≠ 0 then m.setChan ch c
          else match m.shifts c with
            | none => no m 3 36
            | some [] => m.setChan ch c
            | some l =>
              if l.any (fun x => 0 < x) && l.any (fun x => x < 0) then no m 3 36
              else
                let whole := l.all (fun x => x == 0) && (pa.all fun p => m.sameAt c (p.start - c.a)) && pb.all fun q => m.sameAt c (q.start - c.b)
                m.setChan ch { c with overlap := true, order := if whole then 2 else if l.any (fun x => 0 < x) then 1 else 0 }

def execCopyChecksDone (ch : Fin 256) (s : State) : Res := act (copyChecksDone ch) s

/-! ### Chunks (R428, R432 to R436, R441) -/

/-- Granule boundaries of the destination at an address: 4 KiB, or a smaller interleave granule (R432). -/
def Mach.chunkStep (m : Mach) (c : CopyChan) (a : Nat) : Nat :=
  match pieceAt c.dstPieces a with
  | some p => (match p.cas with
    | some s => if s.ilv then min 4096 (m.ilvSet (s.target % 1024)).bytes else 4096
    | none => 4096)
  | none => 4096

/-- Offsets at which pieces of either range begin. -/
def CopyChan.marks (c : CopyChan) : List Nat :=
  (c.piecesA.map fun p => p.start - c.a) ++ (if c.two then c.piecesB.map fun p => p.start - c.b else [])

/-- The next chunk in a channel's order: its offset and length. -/
def Mach.nextChunk (m : Mach) (c : CopyChan) : Option (Nat × Nat) :=
  if c.len ≤ c.issued then none
  else if c.order = 1 then
    let e := c.len - c.issued
    let s := m.chunkStep c (c.dst + e - 1)
    let lo := (c.marks.filter fun x => x < e).foldl max ((c.dst + e - 1) / s * s - c.dst)
    some (lo, e - lo)
  else
    let o := c.issued
    let s := m.chunkStep c (c.dst + o)
    let hi := (c.marks.filter fun x => o < x).foldl min (min c.len (((c.dst + o) / s + 1) * s - c.dst))
    some (o, hi - o)

/-- The current translation of an address, where the domain may make the access, differs from what the checks found
(R438). -/
def Mach.moved (m : Mach) (d : Nat) (n : Need) (l : List CopyPiece) (a : Nat) : Bool :=
  match m.checkByte d (d == 0) n a, pieceAt l a with
  | (.allow _, _), some p =>
    let q : CopyPiece := { start := a, len := 1, cas := m.casFor d a }
    let coh := fun (p : CopyPiece) => p.cas.map fun c => (c.coh, c.hedge, if c.coh then c.cohBase + (a - c.base) else 0)
    m.space p a != m.space q a || coh p != coh q
  | _, _ => false

/-- A chunk's translations differ now. -/
def Mach.chunkMoved (m : Mach) (c : CopyChan) (off len : Nat) : Bool :=
  let d := c.entry.dom
  let at_ := fun (n : Need) (l : List CopyPiece) (a : Nat) => m.moved d n l a || m.moved d n l (a + len - 64)
  at_ c.needA c.piecesA (c.a + off) || (c.two && at_ c.needB c.piecesB (c.b + off))

/-- Where a range's byte goes as the checks found it. -/
def Mach.pieceXlat (m : Mach) (l : List CopyPiece) (a : Nat) : Option Xlat :=
  match pieceAt l a with
  | some p => (match p.cas with | some c => some (m.translate c a) | none => m.defaultMap a)
  | none => none

/-- The port that counts as a destination's (R432): of a mirror pair member 0, or member 1 when member 0 is not in sync. -/
def Mach.pieceTile (m : Mach) (x : Xlat) : Nat :=
  match x.pair with
  | some i => let p := m.mirPair i; tileOf (if p.st0 = .inSync then p.m0.port else p.m1.port)
  | none => tileOf x.port

/-- Ports that a chunk goes to, and the tile whose agent port it uses (R384, R432). -/
def Mach.chunkPorts (m : Mach) (c : CopyChan) (off : Nat) : List Nat × Nat :=
  let xs := [m.pieceXlat c.piecesA (c.a + off)] ++ (if c.two then [m.pieceXlat c.piecesB (c.b + off)] else [])
  let ports := (xs.filterMap id).flatMap fun x => match x.pair with
    | some i => [(m.mirPair i).m0.port, (m.mirPair i).m1.port]
    | none => [x.port]
  (ports.eraseDups, match m.pieceXlat c.dstPieces (c.dst + off) with | some x => m.pieceTile x | none => 0)

/-- A channel may have one more chunk (R428, R384). -/
def Mach.chunkRoom (m : Mach) (c : CopyChan) (ports : List Nat) : Bool :=
  let n := c.flight.length
  let shared := (m.chans.map fun x => x.2.flight.length - 4).sum
  n < max 4 (m.rd CPE_CTRL_CH_CHUNKS) && (n < 4 || shared < 4096 - 4 * m.chans.length) &&
  ports.all fun p =>
    let l := m.load p
    if l = 2 then !(c.flight.any fun k => k.ports.contains p)
    else if l = 3 then !(m.chans.any fun x => x.2.flight.any fun k => k.ports.contains p)
    else true

/-- A channel's next chunk can begin now. -/
def Mach.canBegin (m : Mach) (c : CopyChan) : Bool :=
  c.active && c.ending.isNone && (match m.nextChunk c with | some (off, _) => m.chunkRoom c (m.chunkPorts c off).1 | none => false)

/-- A chunk is to be written (R435). -/
def Mach.writesChunk (m : Mach) (c : CopyChan) (k : Chunk) : Bool :=
  c.kind == 1 || (c.kind == 0 && (c.force || !(c.overlap && m.sameAt c k.off)))

/-- The chunk of a channel whose writes may start now (R434): every chunk before it has its reads, where pieces overlap in a
direction. -/
def Mach.writable (m : Mach) (c : CopyChan) : List Chunk → Option Chunk
  | [] => none
  | k :: rest =>
    if k.reading = 0 ∧ !k.written ∧ !k.bad ∧ m.writesChunk c k then some k
    else if c.overlap ∧ c.order ≠ 2 ∧ k.reading ≠ 0 then none
    else m.writable c rest

/-- Lines of a chunk, by offset. -/
def Chunk.offs (k : Chunk) : List Nat := (List.range (k.len / 64)).map fun i => k.off + 64 * i

/-- The line that FILL writes (R416). -/
def fillLine (pattern : Nat) : Nat := ofLe ((List.replicate 8 (leBytes 8 pattern)).flatten)

def CopyChan.updChunk (c : CopyChan) (off : Nat) (f : Chunk → Chunk) : CopyChan :=
  { c with flight := c.flight.map fun k => if k.off = off then f k else k }

/-- Take up the responses to a channel's requests (R438, R439): each goes to the chunk that waits for it. -/
def CopyChan.take (c : CopyChan) (x : AgentDone) : CopyChan :=
  let stop := fun (c : CopyChan) (e : CopyEnd) => if c.ending.isNone then { c with ending := some e } else c
  let c := match x.why with
    | .refused _ => stop c .refused
    | .lost => stop c .lost
    | _ => c
  let bad := match x.why with | .refused _ | .lost => true | _ => false
  match x.rsp with
  | .data v p _ =>
    let p := p || x.why == .timeout
    let wants1 := fun (k : Chunk) => x.addr == c.a + (x.addr - c.a) && k.off ≤ x.addr - c.a && x.addr - c.a < k.off + k.len && (SMap.find k.lines (x.addr - c.a)).isNone
    let wants2 := fun (k : Chunk) => c.two && x.addr == c.b + (x.addr - c.b) && k.off ≤ x.addr - c.b && x.addr - c.b < k.off + k.len && (SMap.find k.lines2 (x.addr - c.b)).isNone
    match c.flight.find? fun k => k.reading > 0 && wants1 k with
    | some k => c.updChunk k.off fun k => { k with lines := SMap.ins k.lines (x.addr - c.a) (v, p), reading := k.reading - 1, bad := k.bad || bad }
    | none => match c.flight.find? fun k => k.reading > 0 && c.kind == 2 && wants2 k with
      | some k => c.updChunk k.off fun k => { k with lines2 := SMap.ins k.lines2 (x.addr - c.b) (v, p), reading := k.reading - 1, bad := k.bad || bad }
      | none => c
  | _ =>
    match c.flight.find? fun k => k.written && k.writing > 0 && c.dst + k.off ≤ x.addr && x.addr < c.dst + k.off + k.len with
    | some k => c.updChunk k.off fun k => { k with writing := k.writing - 1, bad := k.bad || bad }
    | none => c

/-- Requests of a channel that have not finished. -/
def Mach.copyBusy (m : Mach) (ch : Nat) : Bool :=
  let mine := fun (s : ReqSrc) => match s with | .copy k _ => k == ch | _ => false
  m.trk.any (fun x => mine x.2.req.src) || m.trkWait.any (fun x => x.2.any fun w => mine w.req.src)

/-- A channel takes up its responses. What an ended generation has discarded, no chunk waits for (R350). -/
def Mach.copyTake (m : Mach) (ch : Nat) : Mach :=
  let mine := fun (x : AgentDone) => match x.src with | .copy k _ => k == ch | _ => false
  let m := { m.updChan ch (fun c => (m.agentDone.filter mine).foldl CopyChan.take c) with agentDone := m.agentDone.filter fun x => !mine x }
  match m.chan ch with
  | some c =>
    if c.ending = some .generation ∧ !m.copyBusy ch then
      m.setChan ch { c with flight := c.flight.filter fun k => k.reading == 0 && k.writing == 0 }
    else m
  | none => m

/-- The writes of a chunk go out (R432, R439): a poisoned line with Poison. A translation that differs now ends the descriptor
before any of them (R438). -/
def Mach.writeChunk (m : Mach) (ch : Nat) (c : CopyChan) (k : Chunk) : Mach :=
  if m.chunkMoved c k.off k.len then
    m.setChan ch { c.updChunk k.off (fun k => { k with bad := true }) with ending := c.ending.or (some .refused) }
  else
    let t := (m.chunkPorts c k.off).2
    let d := c.entry.dom
    let line := fun (o : Nat) => if c.kind = 1 then (fillLine c.pattern, false) else SMap.get (0, true) k.lines o
    let m := m.setChan ch (c.updChunk k.off fun k => { k with written := true, writing := k.len / 64 })
    let bad := (k.offs.filter fun o => (line o).2).length
    let m := (m.count (CNT_TILE t 112) k.len).count (CNT_TILE t 113) bad
    k.offs.foldl (fun (m : Mach) o =>
      let x := line o
      let r : Req := { src := .copy ch t, kind := .ncWrite true, addr := c.dst + o, data := x.1, poison := x.2, vc := 2 }
      m.agentReq r d (d == 0) 4) m

/-- The next chunk of a channel begins: its reads go out, or for FILL its writes. -/
def Mach.beginChunk (m : Mach) (ch : Nat) (c : CopyChan) : Mach :=
  match m.nextChunk c with
  | none => m
  | some (off, len) =>
    if m.chunkMoved c off len then m.setChan ch { c with ending := some .refused }
    else
      let (ports, t) := m.chunkPorts c off
      let n := len / 64
      let k : Chunk := { off := off, len := len, ports := ports, reading := if c.kind = 1 then 0 else if c.kind = 2 ∧ c.compare then 2 * n else n }
      let c := { c with flight := c.flight ++ [k], issued := c.issued + len }
      let m := (m.setChan ch c).count (CNT_TILE t 111) 1
      let m := if c.order = 1 then m.count (CNT_TILE t 114) 1 else if c.order = 2 then m.count (CNT_TILE t 115) 1 else m
      if c.kind = 1 then m.writeChunk ch c k
      else
        let d := c.entry.dom
        let rd := fun (m : Mach) (a : Nat) => m.agentReq { src := .copy ch t, kind := .ncRead, addr := a } d (d == 0) 4
        let m := k.offs.foldl (fun m o => rd m (c.a + o)) m
        if c.kind = 2 ∧ c.compare then k.offs.foldl (fun m o => rd m (c.b + o)) m else m

/-- The channel served next, round-robin among domains, then among a domain's channels (R441). -/
def Mach.nextChan (m : Mach) (ok : CopyChan → Bool) (lastDom : Nat) (last : SMap Nat) : Option (Nat × CopyChan) :=
  let l := m.chans.filter fun x => ok x.2
  match after lastDom ((l.map fun x => x.2.entry.dom).eraseDups) with
  | none => none
  | some d =>
    match after (SMap.get 256 last d) ((l.filter fun x => x.2.entry.dom == d).map fun x => x.1) with
    | none => none
    | some ch => (m.chan ch).map fun c => (ch, c)

/-- CHUNK_ISSUE (R436, R441): a read engine begins the next chunk that it may; a write engine writes the next one that is ready,
or begins one of a FILL. -/
def chunkIssue (write : Bool) (m : Mach) : Mach :=
  let m := m.chans.foldl (fun (m : Mach) (x : Nat × CopyChan) => m.copyTake x.1) m
  if write then
    match m.nextChan (fun c => (m.writable c c.flight).isSome || (c.kind == 1 && m.canBegin c)) m.cpeWrDom m.cpeWr with
    | none => m
    | some (ch, c) =>
      let m := { m with cpeWrDom := c.entry.dom, cpeWr := SMap.set 256 m.cpeWr c.entry.dom ch }
      match m.writable c c.flight with
      | some k => m.writeChunk ch c k
      | none => m.beginChunk ch c
  else
    match m.nextChan (fun c => c.kind != 1 && m.canBegin c) m.cpeRdDom m.cpeRd with
    | none => m
    | some (ch, c) => { m with cpeRdDom := c.entry.dom, cpeRd := SMap.set 256 m.cpeRd c.entry.dom ch }.beginChunk ch c

def execChunkIssue (write : Bool) (s : State) : Res := act (chunkIssue write) s

/-! ### Completion (R437 to R440) -/

/-- A chunk has nothing outstanding. -/
def Mach.chunkDone (m : Mach) (c : CopyChan) (k : Chunk) : Bool :=
  k.reading == 0 && k.writing == 0 && (k.bad || k.written || !m.writesChunk c k)

/-- Bytes of a line. -/
def lineBytes (v : Nat) : List Byte := leBytes 64 v

/-- The first offset at which two lists of bytes differ. -/
def firstDiff : Nat → List Byte → List Byte → Option Nat
  | i, x :: xs, y :: ys => if x = y then firstDiff (i + 1) xs ys else some i
  | _, _, _ => none

/-- A chunk leaves the flight: its bytes, its CRC, its poison and its first difference join the channel's. -/
def CopyChan.finishChunk (c : CopyChan) (k : Chunk) : CopyChan :=
  let c := { c with flight := c.flight.filter fun x => x.off != k.off }
  if k.bad then c
  else
    let line := fun (o : Nat) => if c.kind = 1 then (fillLine c.pattern, false) else SMap.get (0, true) k.lines o
    let poisoned := k.offs.filter fun o => (line o).2 || (SMap.get (0, false) k.lines2 o).2
    let low := fun (x : Option Nat) (o : Nat) => match x with | some y => some (min y o) | none => some o
    let bytes := k.offs.flatMap fun o => lineBytes (line o).1
    let diff := if c.kind = 2 && c.compare then
        (k.offs.filter fun o => !poisoned.contains o).findSome? fun o => firstDiff o (lineBytes (line o).1) (lineBytes (SMap.get (0, false) k.lines2 o).1)
      else none
    let c := match diff, c.ending with
      | some o, none => { c with ending := some (.differs o) }
      | some o, some (.differs x) => { c with ending := some (.differs (min x o)) }
      | _, _ => c
    { c with completed := SMap.ins c.completed k.off k.len, done := c.done + k.len, poison := poisoned.foldl low c.poison,
             crcs := if c.crcEn || (c.kind == 2 && !c.compare) then SMap.ins c.crcs k.off (copyCrc c.crc64 bytes) else c.crcs }

/-- Bytes of the longest run of completed chunks from the first in processing order (R438). -/
def CopyChan.prefix_ (c : CopyChan) : Nat :=
  let go := fun (l : SMap Nat) (at_ : Nat → Nat × Nat → Bool) => l.foldl (fun n (x : Nat × Nat) => if at_ n x then n + x.2 else n) 0
  if c.order = 1 then go c.completed.reverse fun n x => x.1 + x.2 == c.len - n else go c.completed fun n x => x.1 == n

/-- The CRC of the whole range from those of its chunks (R437). -/
def CopyChan.crc (c : CopyChan) : Nat :=
  match c.crcs with
  | [] => 0
  | (_, x) :: rest => rest.foldl (fun r (k : Nat × Nat) => copyCrcJoin c.crc64 r k.2 (SMap.get 0 c.completed k.1)) x

/-- How a descriptor ends whose chunks have all left (R418, R435, R438, R439). -/
def CopyChan.result (c : CopyChan) : EntRes :=
  match c.ending with
  | some .refused => { status := 2, sub := 37, result := c.prefix_ }
  | some .lost => { status := 7, sub := 38, result := c.prefix_ }
  | some .generation => {}
  | e =>
    match c.poison with
    | some o => { status := 6, sub := 39, result := o }
    | none => match e with
      | some (.differs o) => { result := o }
      | _ =>
        if c.kind = 2 then { result := if c.compare then 2 ^ 64 - 1 else c.crc }
        else { result := if c.crcEn then c.crc else c.len }

/-- A channel whose descriptor has nothing left in flight ends. -/
def Mach.chanStep (m : Mach) (ch : Nat) : Mach :=
  match m.chan ch with
  | none => m
  | some c =>
    if c.flight.isEmpty ∧ (c.ending.isSome ∨ (c.active ∧ c.issued = c.len)) then
      let r := c.result
      let m := m.raiseIf (r.status = 6 && r.sub = 39) CPE_EVENT_POISON_COPIED
      (m.raiseIf (c.ending == some .lost) CPE_EVENT_DEVICE_LOST).chanEnd ch c r
    else m

/-- CHUNK_COMPLETE (R438, R440): the first chunk of a channel that has nothing outstanding completes. -/
def chunkComplete (ch : Fin 256) (m : Mach) : Mach :=
  let m := m.copyTake ch
  match m.chan ch with
  | none => m
  | some c =>
    let m := match c.flight.find? fun k => m.chunkDone c k with
      | some k =>
        let m := if k.bad || c.kind = 2 || !k.written then m else m.count (CNT_DOM c.entry.dom 14) k.len
        m.setChan ch (c.finishChunk k)
      | none => m
    m.chanStep ch

def execChunkComplete (ch : Fin 256) (s : State) : Res := act (chunkComplete ch) s

/-- POISON_COPIED (R439): an uncorrectable error of a chunk buffer poisons the line at an offset of the range; a chunk with a
poisoned line that is ready is written. -/
def poisonCopied (ch : Fin 256) (ecc : Option Nat) (m : Mach) : Mach :=
  let m := m.copyTake ch
  match m.chan ch with
  | none => m
  | some c =>
    let hit : Option Chunk := match ecc with
      | some o => c.flight.find? fun (k : Chunk) => k.off ≤ o && o < k.off + k.len && !k.written && (SMap.find k.lines (o / 64 * 64)).isSome
      | none => none
    let m := match ecc, hit with
      | some o, some k =>
        let m := m.setChan ch (c.updChunk k.off fun k => { k with lines := SMap.ins k.lines (o / 64 * 64) ((SMap.get (0, true) k.lines (o / 64 * 64)).1, true) })
        (m.raise CPE_EVENT_STAGING_ECC).error { cls := .contained, block := 6, code := 1, dom := some c.entry.dom, addr := c.dst + o / 64 * 64 }
      | _, _ => m
    match m.chan ch with
    | none => m
    | some c => match m.writable c c.flight with
      | some k => if k.lines.any fun x => x.2.2 then m.writeChunk ch c k else m
      | none => m

def execPoisonCopied (ch : Fin 256) (ecc : Option Nat) (s : State) : Res := act (poisonCopied ch ecc) s

/-- CPE_CTRL_WRITE (R443). -/
def cpeCtrlWrite (v : BitVec 32) (m : Mach) : Mach := m.setReg CPE_CTRL (BitVec.ofNat 64 (v.toNat % 2 ^ 24))

def execCpeCtrlWrite (v : BitVec 32) (s : State) : Res := act (cpeCtrlWrite v) s

end Sys2Proof.Machine
end

