-- ==== Sys2Proof/Machine/Zitch.lean ====
section
/-! DEFINITION. Sys2Proof/Machine/Zitch.lean: the Zitch link (R128 to R158) and the die-to-die links (R159 to R165). -/
namespace Sys2Proof.Machine

/-- States of `TILE_ZL_STATUS.STATE`. -/
def zDisabled : Nat := 0
def zDetect : Nat := 1
def zPoll : Nat := 2
def zConfig : Nat := 3
def zEq : Nat := 4
def zActive : Nat := 5
def zRetrain : Nat := 6
def zLp : Nat := 7

def Mach.zState (m : Mach) (p : Nat) : Nat := m.rd (TILE_ZL_STATUS_STATE p)
def Mach.zGo (m : Mach) (p st : Nat) : Mach := m.wr (TILE_ZL_STATUS_STATE p) st

/-- Start the counts of a training state afresh. -/
def Mach.zFresh (m : Mach) (p : Nat) : Mach := m.updZ p fun z => { z with rx := 0, numbered := 0, rx2 := 0, tx2 := 0, aligned := 0 }

/-- Enter Z.DETECT or Z.DISABLED (R129): a link that was up goes down (R225), and its operations end. -/
def Mach.zLeave (m : Mach) (p st : Nat) : Mach :=
  let up := m.linkUp p
  let m := (m.zFresh p).zGo p st
  let m := m.updZ p fun z => { z with badRates := 0, rxOn := false, full := true, op := none, waiting := [], abandoned := none,
                                      doing := none, drain := none, scheduled := false, discarding := false, fails := 0, buf := [] }
  let m := ((m.wr (TILE_ZL_STATUS_OP_ACTIVE p) 0).wr (TILE_ZL_STATUS_REPLAY_OCC p) 0).wr (TILE_ZL_STATUS_RATE p) 0
  if up then (m.raiseIf (st = zDetect) (TILE_ZL_EVENT_LINK_DOWN p)).portDown p else m

/-- The link goes down without the switch taking it down (code 0x2,1; R636). -/
def Mach.zDown (m : Mach) (p : Nat) : Mach :=
  let up := m.linkUp p
  let m := m.zLeave p zDetect
  if up then (m.error { cls := .portFatal, block := 2, code := 1, port := some p }).portLog p 2 1 else m

/-- A fresh random nonce, drawn at entry to Z.CONFIG (R131): a free value. -/
def Mach.zNonce (m : Mach) (p : Nat) : Mach :=
  let (w, m) := m.free
  m.wr (TILE_ZL_NONCE_NONCE p) w.toNat

def Mach.zToConfig (m : Mach) (p : Nat) : Mach := ((m.zFresh p).zGo p zConfig).zNonce p

/-- LINK_DIS_CLEAR (R129): the port leaves Z.DISABLED. -/
def linkDisClear (p : Port) (m : Mach) : Mach :=
  if m.isZitch p then
    let m := m.wr (TILE_ZL_CTRL_LINK_DIS p) 0
    if m.zState p = zDisabled ∧ !m.linkDis p then m.zLeave p zDetect else m
  else m

def execLinkDisClear (p : Port) (s : State) : Res :=
  act (fun m => m.orShut (tileOf p) (TILE_ZL_CTRL p) (withBit (m.reg (TILE_ZL_CTRL p)).toNat 0 false) (linkDisClear p)) s

/-- Begin a drain (R156): at once over where nothing is unacknowledged is RETRAIN_DRAIN_DONE's to say. -/
def Mach.zDrain (m : Mach) (p : Nat) (d : ZDrain) : Mach :=
  (m.updZ p fun z => { z with drain := some d }).wr (TILE_ZL_STATUS_OP_ACTIVE p) 1

/-- LINK_DIS_SET (R166): an active link drains as for a full retrain first. -/
def linkDisSet (p : Port) (m : Mach) : Mach :=
  if m.isZitch p then
    let m := m.wr (TILE_ZL_CTRL_LINK_DIS p) 1
    if m.zState p = zActive then m.zDrain p .disable else m.zLeave p zDisabled
  else m

def execLinkDisSet (p : Port) (s : State) : Res :=
  act (fun m => m.orShut (tileOf p) (TILE_ZL_CTRL p) (withBit (m.reg (TILE_ZL_CTRL p)).toNat 0 true) (linkDisSet p)) s

/-- Ask the partner for a link operation (R153, R154), or let the request wait for the one under way. -/
def Mach.zRequest (m : Mach) (p : Nat) (o : ZOp) : Mach :=
  if m.zState p ≠ zActive then m
  else
    let z := m.z p
    if z.op.isSome || z.doing.isSome || z.drain.isSome then m.updZ p fun z => { z with waiting := z.waiting ++ [o] }
    else ((m.updZ p fun z => { z with op := some o }).zPut p 4).send (.zitch p (.ctrl 1 o.kind o.mask))

/-- A link operation has completed (R153): OP_DONE, and a request that waited goes out. -/
def Mach.zOpDone (m : Mach) (p : Nat) : Mach :=
  let w := (m.z p).waiting
  let m := m.updZ p fun z => { z with doing := none, drain := none, waiting := w.drop 1 }
  let m := (m.wr (TILE_ZL_STATUS_OP_ACTIVE p) 0).raise (TILE_ZL_EVENT_OP_DONE p)
  match w.head? with | some o => m.zRequest p o | none => m

/-- A recovery retrain (R153): the port enters Z.RETRAIN directly. -/
def Mach.zRecover (m : Mach) (p : Nat) : Mach :=
  if m.zState p = zActive then
    (((m.zFresh p).updZ p fun z => { z with full := false, rxOn := false, op := none }).zGo p zRetrain).wr (TILE_ZL_STATUS_OP_ACTIVE p) 1
  else m

/-- RETRAIN (R166). -/
def retrain (p : Port) (m : Mach) : Mach := if m.isZitch p then m.zRequest p { kind := 1 } else m

def execRetrain (p : Port) (s : State) : Res :=
  act (fun m => m.orShut (tileOf p) (TILE_ZL_CTRL p) (withBit (m.reg (TILE_ZL_CTRL p)).toNat 1 true) (retrain p)) s

/-- The port's width code. -/
def Mach.zPortCode (m : Mach) (p : Nat) : Nat := m.nibble p - 1

/-- TARGET_WIDTH as it acts (R166). -/
def Mach.zTarget (m : Mach) (p : Nat) : Nat := min (m.rd (TILE_ZL_CTRL_TARGET_WIDTH p)) (m.zPortCode p)

/-- The widest naturally aligned group of at most 2^c lanes, none narrower than 2^lo, within a set of good lanes: its width
code and lane mask (R130, R158). -/
def zGroup (good c lo : Nat) : Option (Nat × Nat) :=
  ((List.range (c + 1)).reverse.filter (lo ≤ ·)).findSome? fun w =>
    (List.range (16 / 2 ^ w)).findSome? fun i =>
      let mask := (2 ^ 2 ^ w - 1) <<< (i * 2 ^ w)
      if good &&& mask = mask then some (w, mask) else none

/-- TARGET_WIDTH_CHANGE (R166). -/
def targetWidthChange (p : Port) (w : Fin 8) (m : Mach) : Mach :=
  if m.isZitch p then
    let old := m.rd (TILE_ZL_CTRL_TARGET_WIDTH p)
    let m := m.wr (TILE_ZL_CTRL_TARGET_WIDTH p) w
    if old = w.val then m
    else match zGroup (0xFFFF - (m.z p).failed &&& 0xFFFF) (m.zTarget p) 0 with
      | some (_, mask) => m.zRequest p { kind := 2, mask := mask }
      | none => m
  else m

def execTargetWidthChange (p : Port) (w : Fin 8) (s : State) : Res :=
  act (fun m => m.orShut (tileOf p) (TILE_ZL_CTRL p) ((putField (m.reg (TILE_ZL_CTRL p)) 2 3 w).toNat) (targetWidthChange p w)) s

/-- LP_REQ_WRITE (R156, R166): entry to Z.LP is agreed; an exit begins with ZALN. -/
def lpReqWrite (p : Port) (b : Bool) (m : Mach) : Mach :=
  if m.isZitch p then
    let m := m.wrB (TILE_ZL_CTRL_LP_REQ p) b
    if b then m.zRequest p { kind := 3, cause := .power }
    else if m.zState p = zLp then m.send (.zitch p (.set .zaln)) else m
  else m

def execLpReqWrite (p : Port) (b : Bool) (s : State) : Res :=
  act (fun m => m.orShut (tileOf p) (TILE_ZL_CTRL p) (withBit (m.reg (TILE_ZL_CTRL p)).toNat 10 b) (lpReqWrite p b)) s

/-- ZTS1_BURST (R129). -/
def zts1Burst (p : Port) (m : Mach) : Mach :=
  if m.isZitch p ∧ m.zState p = zDetect then m.send (.zitch p (.set .zts1)) else m

def execZts1Burst (p : Port) (s : State) : Res := act (zts1Burst p) s

/-- SIGNAL_DETECTED (R129); the link trains only once its flush is over and nothing holds it down (R636). -/
def signalDetected (p : Port) (m : Mach) : Mach :=
  if m.isZitch p ∧ m.zState p = zDetect ∧ m.mayTrain p then
    (((m.zFresh p).updZ p fun z => { z with full := true, failed := 0 }).wr (TILE_ZL_STATUS_RATE p) 0).zGo p zPoll
  else m

def execSignalDetected (p : Port) (s : State) : Res := act (signalDetected p) s

/-- Lanes of the port, as a mask of logical lanes. -/
def Mach.zLanes (m : Mach) (p : Nat) : Nat := 2 ^ m.portLanes p - 1

/-- A set arrived without error on at least half the port's lanes. -/
def Mach.zHalf (m : Mach) (p lanes : Nat) : Bool :=
  m.portLanes p ≤ 2 * ((List.range 16).filter fun i => bit (lanes &&& m.zLanes p) i).length

/-- The nonce of a received set (R131): equal nonces make both ends draw anew; else the higher one leads. -/
def Mach.zNonces (m : Mach) (p : Nat) (z : ZSet) : Mach :=
  let m := m.wr (TILE_ZL_PNONCE_NONCE p) z.nonce
  let mine := m.rd (TILE_ZL_NONCE_NONCE p)
  if mine = z.nonce % 2 ^ 64 then (m.zFresh p).zNonce p else m.wrB (TILE_ZL_STATUS_LEADER p) (z.nonce % 2 ^ 64 < mine)

/-- ZTS1 (R129 to R131, R153): training counts; in Z.ACTIVE the partner has entered Z.RETRAIN. -/
def zts1 (p : Port) (z : ZSet) (m : Mach) : Mach :=
  if !m.isZitch p then m
  else
    let st := m.zState p
    let ok := m.zHalf p z.lanes
    if st = zPoll ∨ st = zRetrain then
      let n := if ok then (m.z p).rx + 1 else 0
      if n ≥ 8 then m.zToConfig p else m.updZ p fun x => { x with rx := n }
    else if st = zConfig then
      let m := m.zNonces p z
      let collide := m.rd (TILE_ZL_PNONCE_NONCE p) = m.rd (TILE_ZL_NONCE_NONCE p)
      if collide then m
      else m.updZ p fun x => { x with partner := z, numbered := if z.numbered then x.numbered + 1 else x.numbered }
    else if st = zActive then m.zRecover p
    else m

def execZts1 (p : Port) (z : ZSet) (s : State) : Res := act (zts1 p z) s

/-- Rates that this port offers (R130): MAX_RATE of its lanes (R104), those not marked unusable. -/
def Mach.zOffers (m : Mach) (p : Nat) : Nat :=
  let cap := ((List.range (m.portLanes p)).map fun i => m.rd (LANE_CTRL_MAX_RATE (p + i))).foldl min 7
  let codes := [0, 4, 5, 6]
  ((List.range 4).map fun n => if codes.getD n 0 ≤ cap && !bit (m.z p).badRates n then 1 <<< n else 0).sum

/-- Enter Z.ACTIVE (R130, R143, R150, R204): after a full training numbers, counts and credits start afresh and an AUDIT flit
goes first; after a recovery retrain every flit not acknowledged is replayed. -/
def Mach.zActivate (m : Mach) (p : Nat) : Mach :=
  let m := ((m.send (.zitch p (.set .zsds))).zGo p zActive).zFresh p
  let m := m.wrB (TILE_ZL_STATUS_OP_ACTIVE p) false
  if (m.z p).full then
    let m := m.ibApply p
    let init := (List.range 8).foldl (fun (t : SMap Nat) v => SMap.set 0 t v ((SMap.find m.ibCur (p * 8 + v)).getD (zInit v (m.zWidth p)) - SMap.get 0 m.ibuf (p * 8 + v))) []
    let op := (m.z p).doing.isSome || (m.z p).drain.isSome
    let m := m.updZ p fun z => { partner := z.partner, badRates := z.badRates, abandoned := z.abandoned, waiting := z.waiting, init := init }
    let m := { m with linkCr := SMap.drop m.linkCr (p * 8) (p * 8 + 8) }
    let m := ((m.wr (TILE_ZL_STATUS_REPLAY_OCC p) 0).wr (TILE_PORT_STATUS_LINK_UP p) 1).raise (TILE_ZL_EVENT_LINK_UP p)
    let m := m.zPut p 3
    if op then m.zOpDone p else m
  else
    let m := (m.updZ p fun z => { z with full := true }).zOpDone p
    m.send (.zitch p (.replay ((m.z p).buf.map (·.1))))

/-- Z.CONFIG is agreed (R130, R139): width, the next rate if one is left, FEC bypass. -/
def Mach.zConfigured (m : Mach) (p : Nat) : Mach :=
  let z := m.z p
  let good := z.partner.lanes &&& m.zLanes p &&& (0xFFFF - z.failed)
  match zGroup good (min (m.zTarget p) z.partner.width) (m.rd (TILE_ZL_CTRL_MIN_WIDTH p)) with
  | none => m
  | some (w, _) =>
    let m := m.wr (TILE_ZL_STATUS_WIDTH p) w
    let rate := m.rd (TILE_ZL_STATUS_RATE p)
    let both := m.zOffers p &&& z.partner.rates
    match (List.range 4).find? fun n => rate < n && bit both n with
    | some n => ((m.zFresh p).updZ p fun z => { z with eqRate := n }).zGo p zEq
    | none =>
      let off := rate ≤ 1 && m.flag (TILE_ZL_CTRL_FEC_OFF_ALLOW p) && z.partner.fecOffOk
      (m.wrB (TILE_ZL_STATUS_FEC_ON p) (!off)).zActivate p

/-- ZTS2 (R129, R130): sets are sent one for one with those received (assumption log 13). -/
def zts2 (p : Port) (z : ZSet) (m : Mach) : Mach :=
  if !m.isZitch p then m
  else
    let st := m.zState p
    if st = zPoll then
      let n := if m.zHalf p z.lanes then (m.z p).rx + 1 else 0
      if n ≥ 8 then m.zToConfig p else m.updZ p fun x => { x with rx := n }
    else if st = zConfig then
      let m := m.zNonces p z
      if m.rd (TILE_ZL_PNONCE_NONCE p) = m.rd (TILE_ZL_NONCE_NONCE p) then m
      else
        let m := m.updZ p fun x => { x with partner := z, rx2 := x.rx2 + 1, tx2 := if x.numbered ≥ 8 then x.tx2 + 1 else x.tx2 }
        if (m.z p).rx2 ≥ 8 ∧ (m.z p).tx2 ≥ 16 then m.zConfigured p else m
    else m

def execZts2 (p : Port) (z : ZSet) (s : State) : Res := act (zts2 p z) s

/-- This end's receivers have converged at the new rate. -/
def Mach.zAdapted (m : Mach) (p : Nat) : Bool :=
  (List.range (m.portLanes p)).all fun i => m.flag (LANE_RXEQ_ADAPT_DONE (p + i))

/-- ZEQ (R129): both ends have set EQ_DONE; Z.CONFIG at the new rate. -/
def zeq (p : Port) (z : ZSet) (m : Mach) : Mach :=
  if m.isZitch p ∧ m.zState p = zEq ∧ z.eqDone ∧ m.zAdapted p then
    (m.wr (TILE_ZL_STATUS_RATE p) (m.z p).eqRate).zToConfig p
  else m

def execZeq (p : Port) (z : ZSet) (s : State) : Res := act (zeq p z) s

/-- Width code of a lane mask. -/
def zMaskCode (mask : Nat) : Nat :=
  let n := ((List.range 16).filter (bit mask)).length
  if n ≥ 16 then 4 else if n ≥ 8 then 3 else if n ≥ 4 then 2 else if n ≥ 2 then 1 else 0

/-- Replay every flit not acknowledged, from the oldest (R146); four in a row from one flit are the replay limit (R147). -/
def Mach.zReplay (m : Mach) (p : Nat) : Mach :=
  let z := m.z p
  match z.buf with
  | [] => m
  | (s, _) :: _ =>
    let n := if z.replayAt = some s then z.replays + 1 else 1
    let m := (m.updZ p fun z => { z with replayAt := some s, replays := n }).send (.zitch p (.replay (z.buf.map (·.1))))
    let m := m.count (CNT_TILE (tileOf p) (6 * (p % 16) + 4)) 1
    if n ≥ 4 then ((m.updZ p fun z => { z with replays := 0, replayAt := none }).raise (TILE_ZL_EVENT_REPLAY_LIMIT p)).zRecover p else m

/-- ZSDS (R129, R156): flits follow; a width change or an exit from Z.LP is complete, and flits not acknowledged are
replayed. -/
def zsds (p : Port) (m : Mach) : Mach :=
  if !m.isZitch p then m
  else if m.zState p = zActive then
    let z := m.z p
    let m := m.updZ p fun z => { z with rxOn := true }
    match z.doing with
    | some o => if o.kind = 2 ∧ z.aligned ≥ 8 then
        let m := ((m.wr (TILE_ZL_STATUS_WIDTH p) (zMaskCode o.mask)).updZ p fun z => { z with aligned := 0 }).zOpDone p
        m.send (.zitch p (.replay (z.buf.map (·.1))))
      else m
    | none => m
  else if m.zState p = zLp ∧ (m.z p).aligned ≥ 8 then
    ((m.updZ p fun z => { z with rxOn := true, aligned := 0 }).zGo p zActive).zOpDone p
  else m

def execZsds (p : Port) (s : State) : Res := act (zsds p) s

/-- ZWC (R154, R156): the responder performs the width change that it acknowledged. -/
def zwc (p : Port) (m : Mach) : Mach :=
  if m.isZitch p && m.zState p == zActive && (match (m.z p).doing with | some o => o.kind == 2 | none => false) then
    ((m.updZ p fun z => { z with rxOn := false, aligned := 0 }).send (.zitch p (.set .zwc))).send (.zitch p (.set .zaln))
  else m

def execZwc (p : Port) (s : State) : Res := act (zwc p) s

/-- ZALN (R156): 8 received end the alignment with ZSDS; in Z.LP the first one starts the exit. -/
def zaln (p : Port) (m : Mach) : Mach :=
  if !m.isZitch p then m
  else
    let st := m.zState p
    let width : Bool := match (m.z p).doing with | some o => o.kind == 2 | none => false
    if st = zLp ∨ (st = zActive ∧ width) then
      let n := (m.z p).aligned + 1
      let m := m.updZ p fun z => { z with aligned := n }
      let m := if st = zLp ∧ n = 1 then m.send (.zitch p (.set .zaln)) else m
      if n = 8 then m.send (.zitch p (.set .zsds)) else m
    else m

def execZaln (p : Port) (s : State) : Res := act (zaln p) s

/-- ZEOS (R154, R156): the responder drains and enters Z.LP; an end that has sent its own is there. -/
def zeos (p : Port) (m : Mach) : Mach :=
  if m.isZitch p && m.zState p == zActive && (match (m.z p).doing with | some o => o.kind == 3 | none => false) then m.zDrain p .lp else m

def execZeos (p : Port) (s : State) : Res := act (zeos p) s

/-- POLL_TIMEOUT (R129). -/
def execPollTimeout (p : Port) (s : State) : Res := act (fun m => if m.isZitch p ∧ m.zState p = zPoll then m.zDown p else m) s

/-- CONFIG_TIMEOUT (R129). -/
def execConfigTimeout (p : Port) (s : State) : Res := act (fun m => if m.isZitch p ∧ m.zState p = zConfig then m.zDown p else m) s

/-- RATE_FAIL (R129): the failed rate is unusable until the next Z.DETECT; the port goes on in Z.CONFIG at the previous
rate. -/
def rateFail (p : Port) (m : Mach) : Mach :=
  if m.isZitch p ∧ m.zState p = zEq then
    ((m.updZ p fun z => { z with badRates := z.badRates ||| (1 <<< z.eqRate) }).zToConfig p).raise (TILE_ZL_EVENT_RATE_FAIL p)
  else m

def execRateFail (p : Port) (s : State) : Res := act (rateFail p) s

/-- RETRAIN_TIMEOUT (R129). -/
def execRetrainTimeout (p : Port) (s : State) : Res := act (fun m => if m.isZitch p ∧ m.zState p = zRetrain then m.zDown p else m) s

/-! ### Flits (R136, R142 to R150) -/

/-- Flits up to an ACK leave the replay buffer (R144); the replay count starts afresh when one does. -/
def Mach.zAck (m : Mach) (p ack : Nat) : Mach :=
  let z := m.z p
  let left := z.buf.filter fun (s, _) => (ack + 4096 - s) % 4096 ≥ 2048
  if left.length = z.buf.length then m
  else
    let m := (m.updZ p fun z => { z with buf := left, replays := 0, replayAt := none }).wr (TILE_ZL_STATUS_REPLAY_OCC p) left.length
    m

/-- A credit pair is applied (R149): COUNT is cumulative modulo 8,192. -/
def Mach.zCredit (m : Mach) (p v count : Nat) : Mach :=
  let z := m.z p
  let n := (count + 8192 - SMap.get 0 z.lastCount v) % 8192
  if n = 0 then m
  else
    let m := m.updZ p fun z => { z with lastCount := SMap.set 0 z.lastCount v (count % 8192),
                                        retRcvd := SMap.set 0 z.retRcvd v ((SMap.get 0 z.retRcvd v + n) % 2 ^ 32) }
    m.setCredits p v (m.credits p v + n)

/-- Send what freed credits and buffer space allow. -/
def Mach.zPump (m : Mach) (p : Nat) : Mach := (m.egPump p pumpFuel).pumpAll

/-- The opcode belongs to its VC, and LEN is in range (R142). -/
def ZMsgHdr.ok (h : ZMsgHdr) : Bool :=
  h.len ≤ 17 && match h.vc with
    | 0 => h.opcode == 0
    | 1 => 0x10 ≤ h.opcode && h.opcode ≤ 0x2F
    | 2 => 0x30 ≤ h.opcode && h.opcode ≤ 0x3F
    | 3 => 0x40 ≤ h.opcode && h.opcode ≤ 0x4F
    | 4 => 0x50 ≤ h.opcode && h.opcode ≤ 0x5F
    | 5 => 0x60 ≤ h.opcode && h.opcode ≤ 0x6F
    | 6 => 0x70 ≤ h.opcode && h.opcode ≤ 0x7F
    | 7 => 0x10 ≤ h.opcode && h.opcode ≤ 0x3F
    | _ => false

/-- NEXT − 1, which a NAK and every flit acknowledge. -/
def Zx.last (z : Zx) : Nat := (z.next + 4095) % 4096

def Mach.zNakOut (m : Mach) (p : Nat) : Mach :=
  ((m.updZ p fun z => { z with discarding := true }).send (.zitch p (.nak (m.z p).last))).count (CNT_TILE (tileOf p) (6 * (p % 16) + 4)) 1

/-- The slots of an accepted DATA flit are delivered (R141, R144): they fill their receive buffers. The messages themselves
arrive as their own commands. -/
def Mach.zDeliver (m : Mach) (p : Nat) (l : List ZMsgHdr) : Mach :=
  l.foldl (fun (m : Mach) (h : ZMsgHdr) =>
    (m.ibTake p h.vc h.len).updZ p fun z => { z with accepted := SMap.set 0 z.accepted h.vc ((SMap.get 0 z.accepted h.vc + h.len) % 2 ^ 32) }) m

/-- FLIT_RECEIVE (R136, R142, R144): ACK and credits in every case; the expected sequenced flit is accepted, one of the 2,048
before it is a duplicate, any other shows a loss. -/
def flitReceive (p : Port) (f : ZFlit) (m : Mach) : Mach :=
  if !m.isZitch p || m.zState p != zActive || !(m.z p).rxOn then m
  else
    let m := (m.updZ p fun z => { z with fails := 0 }).zAck p f.ack
    let m := f.credits.foldl (fun (m : Mach) (c : Nat × Nat) => m.zCredit p (c.1 % 8) c.2) m
    let m := if f.typ ≥ 5 then
        -- R136: a reserved TYPE is a protocol error with a recovery retrain (assumption log 14).
        ((m.raise (TILE_ZL_EVENT_PROTOCOL_ERR p)).error { cls := .portFatal, block := 2, code := 4, port := some p.val }).zRecover p
      else if f.typ = 0 then m
      else if f.typ = 2 then m.zReplay p
      else
        let z := m.z p
        let seq := f.seq % 4096
        if seq = z.next then
          let m := m.updZ p fun z => { z with next := (z.next + 1) % 4096, discarding := false }
          if f.typ = 1 then
            if f.msgs.all (·.ok) then m.zDeliver p f.msgs
            else (m.raise (TILE_ZL_EVENT_PROTOCOL_ERR p)).contain p 2 4
          else m
        else if (z.next + 4096 - seq) % 4096 ≤ 2048 then m
        else m.zNakOut p
    m.zPump p

def execFlitReceive (p : Port) (f : ZFlit) (s : State) : Res := act (flitReceive p f) s

/-- FLIT_FAIL (R145, R149): a NAK, unless one is out already; more than 64 in a row are a full retrain. -/
def flitFail (p : Port) (m : Mach) : Mach :=
  if !m.isZitch p || m.zState p != zActive || !(m.z p).rxOn then m
  else
    let m := (m.raise (TILE_ZL_EVENT_FLIT_FAIL p)).updZ p fun z => { z with fails := z.fails + 1 }
    let m := if (m.z p).discarding then m else m.zNakOut p
    if (m.z p).fails = 65 then m.zRequest p { kind := 1, cause := .audit } else m

def execFlitFail (p : Port) (s : State) : Res := act (flitFail p) s

/-- NAK_TIMER_EXPIRY (R145). -/
def nakTimerExpiry (p : Port) (m : Mach) : Mach :=
  if m.isZitch p ∧ m.zState p = zActive ∧ (m.z p).discarding then m.zNakOut p else m

def execNakTimerExpiry (p : Port) (s : State) : Res := act (nakTimerExpiry p) s

/-- NAK (R146): flits up to the ACK are freed, the later ones replayed. -/
def nak (p : Port) (ack : Fin 4096) (m : Mach) : Mach :=
  if m.isZitch p ∧ m.zState p = zActive then ((m.zAck p ack).zReplay p).zPump p else m

def execNak (p : Port) (ack : Fin 4096) (s : State) : Res := act (nak p ack) s

/-- REPLAY_TIMER_EXPIRY (R146). -/
def replayTimerExpiry (p : Port) (m : Mach) : Mach := if m.isZitch p ∧ m.zState p = zActive then m.zReplay p else m

def execReplayTimerExpiry (p : Port) (s : State) : Res := act (replayTimerExpiry p) s

/-! ### Credit audit (R150 to R152) -/

/-- Slots consumed as receiver: accepted and no longer held. -/
def Mach.zConsumed (m : Mach) (p v : Nat) : Nat := (SMap.get 0 (m.z p).accepted v + 2 ^ 32 - SMap.get 0 m.ibuf (p * 8 + v)) % 2 ^ 32

/-- This end's audit record. -/
def Mach.zAuditRec (m : Mach) (p : Nat) : List ZAuditVc :=
  (List.range 8).map fun v =>
    { sent := SMap.get 0 (m.z p).sent v, retRcvd := SMap.get 0 (m.z p).retRcvd v, avail := m.credits p v,
      accepted := SMap.get 0 (m.z p).accepted v, consumed := m.zConsumed p v, occupied := SMap.get 0 m.ibuf (p * 8 + v),
      init := SMap.get 0 (m.z p).init v }

/-- AUDIT_SEND (R151). -/
def auditSend (p : Port) (m : Mach) : Mach :=
  if m.isZitch p ∧ m.zState p = zActive then
    let no := (m.z p).audits + 1
    ((m.updZ p fun z => { z with audits := no % 2 ^ 32 }).zPut p 3).send (.zitch p (.audit no (m.zAuditRec p)))
  else m

def execAuditSend (p : Port) (s : State) : Res := act (auditSend p) s

/-- A difference read as a signed 32-bit value, without its sign. -/
def absDiff32 (a b : Int) : Nat :=
  let d := ((a - b) % 2 ^ 32).toNat
  if d < 2 ^ 31 then d else 2 ^ 32 - d

/-- E1, E2 and E3 of one VC (R152). -/
def Mach.auditErr (m : Mach) (p v : Nat) (r : ZAuditVc) : Nat :=
  let z := m.z p
  let own := fun (t : SMap Nat) => ((SMap.get 0 t v : Nat) : Int)
  absDiff32 r.sent (own z.accepted) + absDiff32 r.avail (own z.init - r.sent + r.retRcvd) +
  absDiff32 ((SMap.get 0 m.ibuf (p * 8 + v) : Nat) : Int) (own z.accepted - m.zConsumed p v)

/-- AUDIT (R150, R152): the first one brings the partner's initial credits; CONSUMED is applied as credit returns; a sum
above the threshold schedules a full retrain. -/
def audit (p : Port) (vcs : List ZAuditVc) (m : Mach) : Mach :=
  if !m.isZitch p || m.zState p != zActive then m
  else
    let ix := (List.range 8).zip vcs
    let m := if (m.z p).initSeen then m
      else (ix.foldl (fun (m : Mach) (x : Nat × ZAuditVc) => m.setCredits p x.1 x.2.init) m).updZ p fun z => { z with initSeen := true }
    let m := ix.foldl (fun (m : Mach) (x : Nat × ZAuditVc) => m.zCredit p x.1 (x.2.consumed % 8192)) m
    let errs := ix.map fun (v, r) => m.auditErr p v r
    let m := if errs.sum > m.rd (TILE_ZL_DEGRADE_AUDIT_THRESH p) then
        let mask := ((List.range 8).zip errs).foldl (fun a (v, e) => if e = 0 then a else a ||| (1 <<< v)) 0
        let m := ((m.wr (TILE_ZL_AUDIT_LAST_SUM p) (min errs.sum 0xFFFF)).wr (TILE_ZL_AUDIT_VC_MASK p) mask).raise (TILE_ZL_EVENT_AUDIT_MISMATCH p)
        m.updZ p fun z => { z with scheduled := true }
      else m
    m.zPump p

def execAudit (p : Port) (vcs : List ZAuditVc) (s : State) : Res := act (audit p vcs) s

/-- QUIET_POINT (R152). -/
def quietPoint (p : Port) (m : Mach) : Mach :=
  if m.isZitch p ∧ (m.z p).scheduled then (m.updZ p fun z => { z with scheduled := false }).zRequest p { kind := 1, cause := .audit } else m

def execQuietPoint (p : Port) (s : State) : Res := act (quietPoint p) s

/-! ### Link operations (R153 to R158) -/

/-- Perform an agreed operation at this end (R154, R156). -/
def Mach.zPerform (m : Mach) (p : Nat) (o : ZOp) (requester : Bool) : Mach :=
  let m := (m.updZ p fun z => { z with op := none, doing := some o, aligned := 0 }).wr (TILE_ZL_STATUS_OP_ACTIVE p) 1
  match o.kind with
  | 1 => m.zDrain p .retrain
  | 2 => if requester then ((m.updZ p fun z => { z with rxOn := false }).send (.zitch p (.set .zwc))).send (.zitch p (.set .zaln)) else m
  | 3 => if requester then m.zDrain p .lp else m
  | _ => m

/-- LINK_REQ (R154): the leader keeps its own unanswered request; the other end abandons its own and acknowledges. -/
def linkReq (p : Port) (kind mask : Nat) (m : Mach) : Mach :=
  if !m.isZitch p || m.zState p != zActive then m
  else
    let z := m.z p
    if z.op.isSome && m.flag (TILE_ZL_STATUS_LEADER p) then m
    else
      let m := if z.op.isSome then
          (m.updZ p fun z => { z with abandoned := z.op, op := none }).raise (TILE_ZL_EVENT_REQ_ABANDONED p)
        else m
      ((m.zPut p 4).send (.zitch p (.ctrl 2 kind mask))).zPerform p { kind := kind, mask := mask } false

def execLinkReq (p : Port) (kind mask : Nat) (s : State) : Res := act (linkReq p kind mask) s

/-- LINK_ACK (R154). -/
def linkAck (p : Port) (m : Mach) : Mach :=
  match (m.z p).op with
  | some o => if m.isZitch p ∧ m.zState p = zActive then m.zPerform p o true else m
  | none => m

def execLinkAck (p : Port) (s : State) : Res := act (linkAck p) s

/-- REQ_TIMEOUT (R154). -/
def reqTimeout (p : Port) (m : Mach) : Mach :=
  if m.isZitch p ∧ m.zState p = zActive ∧ (m.z p).op.isSome then (m.raise (TILE_ZL_EVENT_REQ_TIMEOUT p)).zRecover p else m

def execReqTimeout (p : Port) (s : State) : Res := act (reqTimeout p) s

/-- RETRAIN_DRAIN_DONE (R156, R166): nothing is unacknowledged any more. -/
def retrainDrainDone (p : Port) (m : Mach) : Mach :=
  let z := m.z p
  if !m.isZitch p || m.zState p != zActive || !z.buf.isEmpty then m
  else match z.drain with
    | some .retrain => ((m.zFresh p).updZ p fun z => { z with full := true, rxOn := false }).zGo p zRetrain
    | some .lp => (((m.send (.zitch p (.set .zeos))).updZ p fun z => { z with drain := none, rxOn := false, aligned := 0 }).zGo p zLp).zOpDone p
    | some .disable => m.zLeave p zDisabled
    | none => m

def execRetrainDrainDone (p : Port) (s : State) : Res := act (retrainDrainDone p) s

/-- RETRAIN_DRAIN_TIMEOUT (R156): the link goes down. -/
def retrainDrainTimeout (p : Port) (m : Mach) : Mach :=
  match (m.z p).drain with
  | some d => if m.isZitch p ∧ m.zState p = zActive then (if d = .disable then m.zLeave p zDisabled else m.zDown p) else m
  | none => m

def execRetrainDrainTimeout (p : Port) (s : State) : Res := act (retrainDrainTimeout p) s

/-- ABANDONED_REQ_REISSUE (R157): only for an audit mismatch or a degrade, whose cause still holds; a full retrain since
then has removed both. -/
def abandonedReqReissue (p : Port) (m : Mach) : Mach :=
  match (m.z p).abandoned with
  | some o =>
    let z := m.z p
    if m.isZitch p && m.zState p == zActive && z.doing.isNone && z.op.isNone then
      let m := m.updZ p fun z => { z with abandoned := none }
      if o.cause = .audit ∨ (o.cause = .degrade ∧ z.failed ≠ 0) then m.zRequest p o else m
    else m
  | none => m

def execAbandonedReqReissue (p : Port) (s : State) : Res := act (abandonedReqReissue p) s

/-- LANE_DEGRADE (R158): a logical lane is marked failed; a width change to the widest good group is requested, or a full
retrain where that would be below MIN_WIDTH. -/
def laneDegrade (p : Port) (lane : Fin 16) (m : Mach) : Mach :=
  if !m.isZitch p || m.zState p != zActive || bit (m.z p).failed lane then m
  else
    let m := (m.updZ p fun z => { z with failed := withBit z.failed lane true }).raise (TILE_ZL_EVENT_DEGRADED p)
    let m := m.error { cls := .corrected, block := 2, code := 2, port := some p.val, loc := tileOf p + lane.val * 64 }
    if m.flag (TILE_ZL_CTRL_DEGRADE_EN p) then
      match zGroup (m.zLanes p &&& (0xFFFF - (m.z p).failed)) (m.rd (TILE_ZL_STATUS_WIDTH p)) (m.rd (TILE_ZL_CTRL_MIN_WIDTH p)) with
      | some (_, mask) => m.zRequest p { kind := 2, mask := mask, cause := .degrade }
      | none => m.zRequest p { kind := 1, cause := .degrade }
    else m

def execLaneDegrade (p : Port) (lane : Fin 16) (s : State) : Res := act (laneDegrade p lane) s

/-! ### Die-to-die links (R159 to R165) -/

def Mach.dd (m : Mach) (t k : Nat) : D2d := SMap.get {} m.d2d (t * 4 + k)
def Mach.updD (m : Mach) (t k : Nat) (f : D2d → D2d) : Mach := { m with d2d := SMap.set {} m.d2d (t * 4 + k) (f (m.dd t k)) }

/-- D2D_PARITY_ERROR (R161): counted on the lane; the unit and every later one are discarded, and a NAK goes out. -/
def d2dParityError (t : Tile) (k : Fin 4) (lane : Fin 34) (m : Mach) : Mach :=
  if m.flag (TILE_D2D_STATUS_OUT t k) then m
  else
    let m := m.updD t k fun d => { d with errs := SMap.set 0 d.errs lane (SMap.get 0 d.errs lane + 1), discarding := true }
    let m := (m.addSat (TILE_D2D_STATUS_REPLAYS t k) 1).count (CNT_TILE t 109) 1
    m.send (.d2d t k false)

def execD2dParityError (t : Tile) (k : Fin 4) (lane : Fin 34) (s : State) : Res := act (d2dParityError t k lane) s

/-- D2D_CONTROL_UNIT (R160, R161): the units up to the acknowledgement are free; a NAK makes the sender replay from there,
and a control unit after a replay ends the receiver's discarding. -/
def d2dControlUnit (t : Tile) (k : Fin 4) (ack : Nat) (nk : Bool) (m : Mach) : Mach :=
  let left := min 32 (((m.dd t k).txUnit + 256 - (ack + 1) % 256) % 256)
  let m := m.updD t k fun d => { d with unacked := left, discarding := false }
  if nk then m.send (.d2d t k true) else m

def execD2dControlUnit (t : Tile) (k : Fin 4) (ack : Nat) (nk : Bool) (s : State) : Res := act (d2dControlUnit t k ack nk) s

/-- Payload of a lane at a Zitch rate, in units of 1/64 Gbit/s (R128). -/
def zPayload (rate : Nat) : Nat := [150, 1920, 3840, 7680].getD rate 0

/-- Capacity of a tile's modules toward the core, in the same units (R160, R164). -/
def Mach.d2dCap (m : Mach) (t : Nat) : Nat :=
  ((List.range 2).map fun k => if m.flag (TILE_D2D_STATUS_OUT t k) then 0
    else if m.flag (TILE_D2D_STATUS_HALF_WIDTH t k) then 480 * 64 else 960 * 64).sum

/-- R164: the Zitch ports of a tile narrow to the widest width that fits the capacity. -/
def Mach.narrow (m : Mach) (t : Nat) : Mach :=
  let ports := ((List.range 16).map (t * 16 + ·)).filter fun p => m.isZitch p && m.linkUp p
  let need := fun (c : Nat) => (ports.map fun p => 2 ^ min c (m.rd (TILE_ZL_STATUS_WIDTH p)) * zPayload (m.rd (TILE_ZL_STATUS_RATE p))).sum
  if m.d2dCap t < need 4 then
    match (List.range 4).reverse.find? fun c => need c ≤ m.d2dCap t with
    | some c =>
      let m := m.raise (TILE_D2D_EVENT_NARROWED t)
      ports.foldl (fun (m : Mach) (p : Nat) =>
        if c < m.rd (TILE_ZL_STATUS_WIDTH p) then
          match zGroup (m.zLanes p &&& (0xFFFF - (m.z p).failed)) c 0 with
          | some (_, mask) => m.zRequest p { kind := 2, mask := mask, cause := .narrow }
          | none => m
        else m) m
    | none => m
  else m

/-- A module goes out of service; both modules of a pair out contain every port of the tile (R163). -/
def Mach.d2dOut (m : Mach) (t k : Nat) : Mach :=
  if m.flag (TILE_D2D_STATUS_OUT t k) then m
  else
    let m := ((m.wr (TILE_D2D_STATUS_OUT t k) 1).raise (TILE_D2D_EVENT_OUT t)).error { cls := .corrected, block := 3, code := 2, loc := t }
    let other := if k % 2 = 0 then k + 1 else k - 1
    if m.flag (TILE_D2D_STATUS_OUT t other) then
      (((List.range 16).map (t * 16 + ·)).filter m.portExists).foldl (fun (m : Mach) (p : Nat) =>
        (if m.isZitch p then m.zLeave p zDetect else m).contain p 3 3) m
    else m.narrow t

/-- D2D_LANE_RETIRE (R163): a spare takes the lane's data; with both spares in use the module goes to half width; below 16
good lanes it goes out. -/
def d2dLaneRetire (t : Tile) (k : Fin 4) (lane : Fin 34) (m : Mach) : Mach :=
  let d := m.dd t k
  if SMap.get 0 d.errs lane < max 1 (m.rd (TILE_D2D_CFG_ERR_THRESH t)) ∨ d.retired.contains lane.val ∨ m.flag (TILE_D2D_STATUS_OUT t k) then m
  else
    let m := m.updD t k fun d => { d with retired := d.retired ++ [lane.val], errs := SMap.del d.errs lane }
    let m := ((m.wr (TILE_D2D_STATUS_RETIRED t k) (min 15 (d.retired.length + 1))).wr (TILE_D2D_STATUS_LAST_LANE t k) lane).count (CNT_TILE t 110) 1
    let m := m.error { cls := .corrected, block := 3, code := 1, loc := t.val + lane.val * 64 }
    let spares := m.rd (TILE_D2D_STATUS_SPARES_LEFT t k)
    if spares > 0 then
      ((m.wr (TILE_D2D_STATUS_SPARES_LEFT t k) (spares - 1)).raise (TILE_D2D_EVENT_RETIRE t)).updD t k fun d => { d with switching := true }
    else if 34 - (d.retired.length + 1) < 16 then m.d2dOut t k
    else if m.flag (TILE_D2D_STATUS_HALF_WIDTH t k) then m
    else (((m.wr (TILE_D2D_STATUS_HALF_WIDTH t k) 1).raise (TILE_D2D_EVENT_HALF_WIDTH t)).error
      { cls := .corrected, block := 3, code := 2, loc := t }).narrow t

def execD2dLaneRetire (t : Tile) (k : Fin 4) (lane : Fin 34) (s : State) : Res := act (d2dLaneRetire t k lane) s

/-- D2D_SPARE_SWITCH (R163). -/
def execD2dSpareSwitch (t : Tile) (k : Fin 4) (s : State) : Res := act (fun m => m.updD t k fun d => { d with switching := false }) s

/-- D2D_CLOCK_LANE_FAIL (R163). -/
def execD2dClockLaneFail (t : Tile) (k : Fin 4) (s : State) : Res := act (fun m => m.d2dOut t k) s

end Sys2Proof.Machine
end

