-- ==== Sys2Proof/Machine/Port.lean ====
section
/-! DEFINITION. Sys2Proof/Machine/Port.lean: CXL and PCIe ports (06): the port map and controls, links, containment, the FM
API, IDE, hot-plug. -/
namespace Sys2Proof.Machine

/-! ### Port map and controls (R167 to R170, R185) -/

/-- A port begins with the reset values of its port registers (R168). -/
def Mach.freshPort (m : Mach) (p : Nat) : Mach :=
  let b := 0x1000000 + tileOf p * 0x10000
  let o := p % 16
  let m := (m.resetRegs (b + 0x2000 + o * 0x100) (b + 0x2100 + o * 0x100)).resetRegs (b + 0x4000 + o * 0x100) (b + 0x4100 + o * 0x100)
  let m := (m.resetRegs (b + 0x8400 + o * 0x20) (b + 0x8420 + o * 0x20)).resetRegs (b + 0x8600 + o * 4) (b + 0x8604 + o * 4)
  { m with ibCur := SMap.drop m.ibCur (p * 8) (p * 8 + 8), ibNew := SMap.drop m.ibNew (p * 8) (p * 8 + 8),
           zx := SMap.del m.zx p, ports := SMap.del m.ports p, binds := SMap.drop m.binds (p * 16) (p * 16 + 16) }

/-- TILE_PORTMAP_WRITE (R168). -/
def tilePortmapWrite (t : Tile) (map : Word) (m : Mach) : Mach :=
  let old := m.rd (TILE_PORTMAP_MAP t)
  if mapValid map.toNat ∧ (m.tilePorts t).all (fun p => m.flag (TILE_PORT_CTRL_LINK_DIS p)) then
    let nib := fun (w o : Nat) => (w >>> (4 * o)) % 16
    let changed := (List.range 16).filter fun o => nib old o != nib map.toNat o
    changed.foldl (fun m o => m.freshPort (t * 16 + o)) (m.wr (TILE_PORTMAP_MAP t) map.toNat)
  else m.raise (TILE_CORE_EVENT_PORTMAP_REFUSED t)

def execTilePortmapWrite (t : Tile) (map : Word) (s : State) : Res := act (fun m => m.orShut t (TILE_PORTMAP t) map.toNat (tilePortmapWrite t map)) s

/-- The link of a port is disabled or enabled by a change of LINK_DIS: a disabled link that was up goes down; a Zitch port
moves as R129 and R166 give. -/
def Mach.linkDisMoved (m : Mach) (p : Nat) (was : Bool) : Mach :=
  let now := m.linkDis p
  if now == was then m
  else if m.isZitch p then
    if now then (if m.zState p = zActive then m.zDrain p .disable else m.zLeave p zDisabled)
    else if m.zState p = zDisabled then m.zLeave p zDetect else m
  else if now && m.linkUp p then m.portDown p
  else m

/-- TILE_PORT_CTRL_WRITE (R169, R170, R185): a refused write changes no field. -/
def tilePortCtrlWrite (p : Port) (v : BitVec 32) (m : Mach) : Mach :=
  if !m.portExists p then m
  else
    let w := v.toNat
    let role := w / 2 % 4
    let proto := bit w 3
    let edge := bit w 6
    let pbr := w / 2 ^ 16 % 4096
    let moves := role != m.role p || proto != m.flag (TILE_PORT_CTRL_PROTO p) || pbr != m.rd (TILE_PORT_CTRL_PBR_ID p)
    let bad := role == 3 || (proto && role != 2) || (moves && !m.flag (TILE_PORT_CTRL_LINK_DIS p))
    let tooMany := role == 1 && m.role p != 1 && m.upstreamPorts.length ≥ 256
    let dup := edge && m.allPorts.any fun q => q != p.val && m.flag (TILE_PORT_CTRL_PBR_EDGE q) && m.rd (TILE_PORT_CTRL_PBR_ID q) == pbr
    if bad || tooMany || dup then
      ((m.raiseIf bad (TILE_PORT_EVENT_CTRL_REFUSED p)).raiseIf tooMany (TILE_PORT_EVENT_UP_LIMIT p)).raiseIf dup (TILE_PORT_EVENT_PBR_DUP p)
    else
      let was := m.linkDis p
      (m.setReg (TILE_PORT_CTRL p) (BitVec.ofNat 64 (w % 2 ^ 7 + pbr * 2 ^ 16))).linkDisMoved p was

def execTilePortCtrlWrite (p : Port) (v : BitVec 32) (s : State) : Res :=
  act (fun m => m.orShut (tileOf p) (TILE_PORT_CTRL p) v.toNat (tilePortCtrlWrite p v)) s

/-! ### Links (R172, R200, R225, R636) -/

/-- Flit mode of a link (`TILE_PORT_STATUS.FLIT`) and its rate (R172). -/
def negotiate (policy cap : Nat) (x : LinkOffer) : Nat × Nat :=
  let f256 := x.flit256 && policy != 2
  let rate := min (min x.rate cap) (if f256 then 5 else 4)
  if f256 then (if x.lowLat && policy == 0 && x.cxl && 2 ≤ rate then 3 else 2, rate)
  else (if x.cxl && 2 ≤ rate then 1 else 0, rate)

/-- PERST# of a downstream port is released (R195). -/
def Mach.perstFree (m : Mach) (p : Nat) : Bool :=
  if m.role p != 0 then true
  else if (m.slotOf p).isSome && m.flag (TILE_PORT_SLOT_PERST_SRC p) then bit m.expOut (m.rd (TILE_PORT_SLOT_PERST_BIT p))
  else bit m.pins.portPerstN.toNat (tileOf p)

/-- CXL_LINK_UP (R172, R204): protocols, flit mode, rate and width; waiting allocations come into force; the vPPB reports the
link. In TF-256 mode a 256-byte flit needs SPEED64 (R607); the port status register and the link-up interrupt of the TF-256 map
follow at once, or with E7 later (R611). -/
def cxlLinkUp (p : Port) (x : LinkOffer) (m : Mach) : Mach :=
  if m.mayTrain p ∧ !m.isZitch p ∧ !m.linkUp p ∧ m.slotGood p ∧ m.perstFree p then
    let cap := ((List.range (m.portLanes p)).map fun i => m.rd (LANE_CTRL_MAX_RATE (p + i))).foldl min 7
    let policy := if m.tfLast && !m.flag (TF_QUIRK_SPEED64 (p / 256)) then 2 else m.rd (TILE_PORT_CTRL_FLIT_POLICY p)
    let (flit, rate) := negotiate policy cap x
    let m := ((m.wr (TILE_PORT_STATUS_RATE p) rate).wr (TILE_PORT_STATUS_WIDTH p) (min x.width (m.nibble p - 1))).wr (TILE_PORT_STATUS_FLIT p) flit
    let m := ((m.wrB (TILE_PORT_STATUS_CXL_IO p) (x.cxl && x.io)).wrB (TILE_PORT_STATUS_CXL_MEM p) (x.cxl && x.mem)).wrB
      (TILE_PORT_STATUS_CXL_CACHE p) (x.cxl && x.cache)
    let m := (m.wrB (TILE_PORT_STATUS_MLD p) (x.lds != 0)).updPx p fun y => { y with present := true, lds := min x.lds 16 }
    let m := ((m.ibApply p).wr (TILE_PORT_STATUS_LINK_UP p) 1).raise (TILE_PORT_EVENT_LINK_UP p)
    let m := x.credits.foldl (fun (m : Mach) (c : Nat × Nat) => m.setCredits p (c.1 % 8) c.2) m
    let e7 := m.flag (TF_QUIRK_E7 (p / 256))
    let m := if m.tfLast && !e7 then (m.updPx p fun y => { y with e7Up := true }).send (.tfLinkUp p) else m
    (m.updSlotVp p fun v => { v with dllChanged := true }).serve p
  else m

def execCxlLinkUp (p : Port) (x : LinkOffer) (s : State) : Res := act (cxlLinkUp p x) s

/-- PORT_DOWN (R225; code 0x2,1): the link layer left the active state without the switch taking the link down. -/
def portDownEvent (p : Port) (m : Mach) : Mach :=
  if m.isZitch p then (if m.linkUp p then m.zDown p else m)
  else if m.linkUp p then
    let m := m.updSlotVp p fun v => { v with dllChanged := true }
    ((m.portDown p).error { cls := .portFatal, block := 2, code := 1, port := some p }).portLog p 2 1
  else m

def execPortDown (p : Port) (s : State) : Res := act (portDownEvent p) s

/-- FLUSH_DONE (R225). -/
def execFlushDone (p : Port) (s : State) : Res := act (fun m => m.flushDone p) s

/-- The codes of R590 at which the switch itself takes a link down (R636). -/
def containCode (i : Fin 7) : Nat × Nat := [(1, 3), (1, 5), (2, 3), (2, 4), (2, 5), (2, 6), (3, 3)].getD i (2, 4)

/-- PORT_CONTAINED (R636). -/
def portContained (p : Port) (why : Fin 7) (m : Mach) : Mach :=
  if m.portExists p then m.contain p (containCode why).1 (containCode why).2 else m

def execPortContained (p : Port) (why : Fin 7) (s : State) : Res := act (portContained p why) s

/-- DPC_RELEASE (R636). -/
def dpcRelease (p : Port) (m : Mach) : Mach :=
  match m.bound p with
  | some b =>
    if (m.vp b.up b.vppb).dpcTrig then
      let m := (m.updVp b.up b.vppb fun v => { v with dpcTrig := false }).wr (TILE_PORT_STATUS_DPC p) 0
      m.updPx p fun x => { x with held := false }
    else m
  | none => m

def execDpcRelease (p : Port) (s : State) : Res := act (dpcRelease p) s

/-- SECONDARY_BUS_RESET, or Link Disable and re-enable, of the bound vPPB (R636): LINK_DIS of its port clears. -/
def secondaryBusReset (p : Port) (m : Mach) : Mach :=
  if (m.bound p).isSome && !m.portPooled p then
    let was := m.linkDis p
    (m.wr (TILE_PORT_CTRL_LINK_DIS p) 0).linkDisMoved p was
  else m

def execSecondaryBusReset (p : Port) (s : State) : Res := act (secondaryBusReset p) s

/-- UNEXPECTED_COMPLETION (R184). -/
def unexpectedCompletion (p : Port) (m : Mach) : Mach := if m.isDown p then m.contain p 2 5 else m

def execUnexpectedCompletion (p : Port) (s : State) : Res := act (unexpectedCompletion p) s

/-! ### FM API (R187 to R190); response payloads hold what the manual gives (assumption log 16) -/

/-- A source whose commands are carried out (R187). -/
def Mach.fmFrom (m : Mach) (src : FmSrc) : Bool :=
  match src with
  | .sb0 | .mgmt => true
  | .mailbox up => m.isUp up && m.portDom up == some 0

/-- One FM API command: unsupported from a source that may not send it; its code and values else. -/
def Mach.fmCmd (m : Mach) (src : FmSrc) (op : Nat) (f : Mach → FmCode × List Nat × Mach) : Mach :=
  if m.fmFrom src then
    let (c, vals, m) := f m
    m.send (.fm src op c vals)
  else m.send (.fm src op .unsupported [])

/-- IDENTIFY: identity of the upstream switch port function (R177). -/
def execIdentify (src : FmSrc) (s : State) : Res :=
  act (fun m => m.fmCmd src 0x0001 fun m => (.success, [0x0A14, 0x10, m.boot.policy.subsysVendor, m.boot.policy.subsysId], m)) s

/-- The return codes as numbers. -/
def FmCode.num : FmCode → Nat
  | .success => 0 | .background => 1 | .invalidInput => 2 | .unsupported => 3 | .busy => 6

/-- BACKGROUND_OPERATION_STATUS. -/
def execBackgroundOperationStatus (src : FmSrc) (s : State) : Res :=
  act (fun m => m.fmCmd src 0x0002 fun m => (.success, [if m.fm.bg.isSome then 1 else 0, m.fm.lastOp, m.fm.lastCode.num], m)) s

/-- GET_RESPONSE_MESSAGE_LIMIT. -/
def execGetResponseMessageLimit (src : FmSrc) (s : State) : Res :=
  act (fun m => m.fmCmd src 0x0003 fun m => (.success, [m.fm.limit], m)) s

/-- SET_RESPONSE_MESSAGE_LIMIT: 256 B to 8 KiB. -/
def execSetResponseMessageLimit (src : FmSrc) (n : Nat) (s : State) : Res :=
  act (fun m => m.fmCmd src 0x0004 fun m =>
    if 256 ≤ n ∧ n ≤ 8192 then (.success, [n], { m with fm := { m.fm with limit := n } }) else (.invalidInput, [], m)) s

/-- GET_EVENT_RECORDS: D0's event records, oldest first. -/
def execGetEventRecords (src : FmSrc) (s : State) : Res :=
  act (fun m => m.fmCmd src 0x0100 fun m => (.success, m.fm.events.flatMap fun (b, c, p) => [b, c, p], m)) s

/-- CLEAR_EVENT_RECORDS. -/
def execClearEventRecords (src : FmSrc) (s : State) : Res :=
  act (fun m => m.fmCmd src 0x0101 fun m => (.success, [], { m with fm := { m.fm with events := [] } })) s

/-- IDENTIFY_SWITCH_DEVICE: ports and VCSs. -/
def execIdentifySwitchDevice (src : FmSrc) (s : State) : Res :=
  act (fun m => m.fmCmd src 0x5100 fun m => (.success, [m.allPorts.length, m.upstreamPorts.length], m)) s

/-- GET_PHYSICAL_PORT_STATE: role, status, presence, LDs. -/
def execGetPhysicalPortState (src : FmSrc) (p : Port) (s : State) : Res :=
  act (fun m => m.fmCmd src 0x5101 fun m =>
    if m.portExists p then
      (.success, [m.role p, (m.reg (TILE_PORT_STATUS p)).toNat, (m.px p).present.toNat, (m.px p).lds], m)
    else (.invalidInput, [], m)) s

/-- PHYSICAL_PORT_CONTROL (R188, R636): PERST# held or released; a PPB reset takes the link down and lets it train again. -/
def Mach.physPort (m : Mach) (p : Nat) (op : Nat) : Mach :=
  if op = 0 then (m.updPx p fun x => { x with fmPerst := true }).perstLow p
  else if op = 1 then
    let m := m.updPx p fun x => { x with fmPerst := false }
    if m.slotGood p then m.perstHigh p else m
  else
    let was := m.linkDis p
    let m := if m.linkUp p then (if m.isZitch p then m.zLeave p zDetect else m.portDown p) else m
    ((m.wr (TILE_PORT_CTRL_LINK_DIS p) 0).wr (TILE_ZL_CTRL_LINK_DIS p) 0).linkDisMoved p was

def execPhysicalPortControl (src : FmSrc) (p : Port) (op : Fin 3) (s : State) : Res :=
  act (fun m => m.fmCmd src 0x5102 fun m =>
    if m.portExists p && (op.val == 2 || m.isDown p) then (.success, [], m.physPort p op) else (.invalidInput, [], m)) s

/-- A request that the FM API sends to the device on a port (R188). -/
def Mach.fmToDevice (m : Mach) (op p : Nat) (ld : Option Nat) (payload : List Byte) : FmCode × List Nat × Mach :=
  if m.isDown p && m.linkUp p && (match ld with | some l => m.flag (TILE_PORT_STATUS_MLD p) && l < (m.px p).lds | none => true) then
    (.success, [], m.send (.fmDevice op p ld payload))
  else (.invalidInput, [], m)

/-- SEND_PPB_CXL_IO_CONFIG_REQUEST. -/
def execSendPpbCxlIoConfigRequest (src : FmSrc) (p : Port) (payload : List Byte) (s : State) : Res :=
  act (fun m => m.fmCmd src 0x5103 fun m => m.fmToDevice 0x5103 p none payload) s

/-- TUNNEL_MANAGEMENT_COMMAND (R179, R180, R188): LD none is the FM-owned LD. -/
def execTunnelManagementCommand (src : FmSrc) (p : Port) (ld : Option (Fin 16)) (payload : List Byte) (s : State) : Res :=
  act (fun m => m.fmCmd src 0x5300 fun m => m.fmToDevice 0x5300 p (ld.map (·.val)) payload) s

/-- SEND_LD_CXL_IO_CONFIG_REQUEST. -/
def execSendLdCxlIoConfigRequest (src : FmSrc) (p : Port) (ld : Fin 16) (payload : List Byte) (s : State) : Res :=
  act (fun m => m.fmCmd src 0x5301 fun m => m.fmToDevice 0x5301 p (some ld.val) payload) s

/-- SEND_LD_CXL_IO_MEMORY_REQUEST. -/
def execSendLdCxlIoMemoryRequest (src : FmSrc) (p : Port) (ld : Fin 16) (payload : List Byte) (s : State) : Res :=
  act (fun m => m.fmCmd src 0x5302 fun m => m.fmToDevice 0x5302 p (some ld.val) payload) s

/-- FM_API_UNSUPPORTED (R187, R188). -/
def execFmApiUnsupported (src : FmSrc) (op : BitVec 16) (s : State) : Res :=
  act (fun m => m.send (.fm src op.toNat .unsupported [])) s

/-- The upstream port that heads a VCS (R173). -/
def Mach.vcsPort (m : Mach) (vcs : Nat) : Option Nat := m.upstreamPorts[vcs]?

/-- GET_VIRTUAL_CXL_SWITCH_INFO: the head port, and what each vPPB 0 to 63 is bound to, port × 16 + LD + 1, or 0. -/
def execGetVirtualCxlSwitchInfo (src : FmSrc) (vcs : Fin 256) (s : State) : Res :=
  act (fun m => m.fmCmd src 0x5200 fun m =>
    match m.vcsPort vcs with
    | some up => (.success, up :: (List.range 64).map fun v => match m.boundTo up v with | some (p, l) => p * 16 + l + 1 | none => 0, m)
    | none => (.invalidInput, [], m)) s

/-- CXL.cache devices bound to a host's VCS (R181). -/
def Mach.cacheBound (m : Mach) (up : Nat) : Nat :=
  (m.binds.filter fun (k, b) => b.up == up && m.flag (TILE_PORT_STATUS_CXL_CACHE (k / 16))).length

/-- A Casement, an interleave set's or a mirror pair's member names this port or LD (R178; assumption log 17). -/
def Mach.named (m : Mach) (p ld : Nat) : Bool :=
  let mine := fun (b : Member) => b.port == p && (if b.mld then b.ld == ld else true)
  (m.doms.any fun (x : Nat × DomRec) => x.2.cas.any fun (y : Nat × Casement) =>
    if y.2.ilv then (m.ilvSet (y.2.target % 1024)).members.any fun (z : Nat × Member) => mine z.2
    else if y.2.mirror then (let q := m.mirPair (y.2.target % 512); mine q.m0 || mine q.m1)
    else y.2.target % 1024 == p && (!bit y.2.target 14 || y.2.target / 1024 % 16 == ld))

/-- BIND_VPPB (R178, R181, R189): a background operation. -/
def execBindVppb (src : FmSrc) (vcs : Fin 256) (vppb : Fin 256) (p : Port) (ld : Option (Fin 16)) (s : State) : Res :=
  act (fun m => m.fmCmd src 0x5201 fun m =>
    if m.fm.bg.isSome then (.busy, [], m)
    else match m.vcsPort vcs with
      | none => (.invalidInput, [], m)
      | some up =>
        let l := match ld with | some x => x.val | none => 0
        if vppb.val < 64 && (m.boundTo up vppb).isNone && m.pooled p l ld.isSome && !m.named p l &&
           !(m.flag (TILE_PORT_STATUS_CXL_CACHE p) && m.cacheBound up ≥ 16) then
          (.background, [], { m with fm := { m.fm with bg := some (.bind p (ld.map (·.val)) up vppb), lastOp := 0x5201 } })
        else (.invalidInput, [], m)) s

/-- UNBIND_VPPB (R189, R190): a managed removal raises Attention first. -/
def execUnbindVppb (src : FmSrc) (vcs : Fin 256) (vppb : Fin 256) (opt : UnbindOpt) (s : State) : Res :=
  act (fun m => m.fmCmd src 0x5202 fun m =>
    if m.fm.bg.isSome then (.busy, [], m)
    else match m.vcsPort vcs with
      | none => (.invalidInput, [], m)
      | some up =>
        if (m.boundTo up vppb).isSome then
          let m := if opt = .managedRemove then m.updVp up vppb fun v => { v with attention := true } else m
          (.background, [], { m with fm := { m.fm with bg := some (.unbind up vppb opt), removing := opt = .managedRemove, lastOp := 0x5202 } })
        else (.invalidInput, [], m)) s

/-- Requests in flight to one LD are flushed as for a port-down flush (R190, R225). -/
def Mach.flushLd (m : Mach) (p ld : Nat) : Mach :=
  let hit := (m.trk.filter fun (x : Nat × Trk) => x.2.outs.contains p && x.2.x.ld == some ld).map fun (x : Nat × Trk) => x.1
  hit.foldl (fun m key => m.flushEntry p key) (m.mirFailPort p (some ld))

/-- A binding ends (R190, R225): the host sees presence and link loss; the port goes down, or its one LD is flushed. -/
def Mach.unbind (m : Mach) (up vppb : Nat) : Mach :=
  match m.boundTo up vppb with
  | none => m
  | some (p, l) =>
    let m := if m.flag (TILE_PORT_STATUS_MLD p) then m.flushLd p l
             else if m.linkUp p then m.portDown p else m
    let m := m.updVp up vppb fun v => { v with presenceChanged := true, dllChanged := true, attention := false }
    { m with binds := SMap.del m.binds (p * 16 + l) }

/-- A background operation ends. -/
def Mach.bgEnd (m : Mach) (c : FmCode) : Mach := { m with fm := { m.fm with bg := none, removing := false, lastCode := c } }

/-- BACKGROUND_OPERATION_DONE (R189, R190): a binding stands; an unbind is carried out where its option lets it. -/
def backgroundOperationDone (m : Mach) : Mach :=
  match m.fm.bg with
  | none => m
  | some (.bind p ld up vppb) =>
    let m := { m with binds := SMap.ins m.binds (p * 16 + ld.getD 0) { up := up, vppb := vppb } }
    (m.updVp up vppb fun v => { v with presenceChanged := true, dllChanged := m.linkUp p || v.dllChanged }).bgEnd .success
  | some (.unbind up vppb opt) =>
    let ok := match opt with
      | .surpriseRemove => true
      | .managedRemove => (m.vp up vppb).powerOff
      | .waitLinkDown => match m.boundTo up vppb with | some (p, _) => !m.linkUp p | none => true
    if ok then (m.unbind up vppb).bgEnd .success else m

def execBackgroundOperationDone (s : State) : Res := act backgroundOperationDone s

/-- MANAGED_HOT_REMOVE_TIMEOUT (R190). -/
def managedHotRemoveTimeout (m : Mach) : Mach :=
  match m.fm.bg with
  | some (.unbind up vppb .managedRemove) => if m.fm.removing then (m.unbind up vppb).bgEnd .success else m
  | _ => m

def execManagedHotRemoveTimeout (s : State) : Res := act managedHotRemoveTimeout s

/-- GENERATE_AER_EVENT (R200): a record in the named vPPB; the link stays as it is. -/
def execGenerateAerEvent (src : FmSrc) (vcs : Fin 256) (vppb : Fin 256) (err : Nat) (s : State) : Res :=
  act (fun m => m.fmCmd src 0x5203 fun m =>
    match m.vcsPort vcs with
    | some up => if vppb.val < 65 then (.success, [], m.updVp up vppb fun v => { v with aer := v.aer ++ [err] }) else (.invalidInput, [], m)
    | none => (.invalidInput, [], m)) s

/-! ### IDE (R191, R192) -/

/-- Ports whose streams are secure. -/
def Mach.securePorts (m : Mach) : Nat := (m.ports.filter fun (x : Nat × PortX) => x.2.secure).length

/-- K_SET_GO (R191): neither skid mode nor a 257th secure port. -/
def kSetGo (p : Port) (skid : Bool) (m : Mach) : Mach :=
  if m.portExists p && m.linkUp p && !skid && ((m.px p).secure || m.securePorts < 256) then
    ((m.updPx p fun x => { x with secure := true }).wr (TILE_PORT_STATUS_IDE p) 1).send (.ide p true)
  else m.send (.ide p false)

def execKSetGo (p : Port) (skid : Bool) (s : State) : Res := act (kSetGo p skid) s

/-- IDE_FAIL (R192; code 0x2,3). -/
def ideFail (p : Port) (m : Mach) : Mach :=
  if (m.px p).secure then
    let m := (m.updPx p fun x => { x with secure := false }).wr (TILE_PORT_STATUS_IDE p) 0
    (m.raise (TILE_PORT_EVENT_IDE_FAIL p)).contain p 2 3
  else m

def execIdeFail (p : Port) (s : State) : Res := act (ideFail p) s

/-! ### Hot-plug (R193 to R198) -/

/-- The indicators of a port follow its slot: power, and attention of the bound vPPB; at IND_BIT 127 only power. -/
def Mach.indicators (m : Mach) (p : Nat) : Mach :=
  if m.portExists p && m.flag (TILE_PORT_IND_IND_EN p) then
    let b := m.rd (TILE_PORT_IND_IND_BIT p)
    let m := m.expDrive b (m.px p).powerReq
    let att := match m.bindOf p 0 with | some v => (m.vp v.up v.vppb).attention | none => false
    if b < 127 then m.expDrive (b + 1) att else m
  else m

/-- SLOT_POWER_ON (R195, R548): the channel begins to wait for its ramp where it is not on already. -/
def slotPowerOn (p : Port) (m : Mach) : Mach :=
  match m.slotOf p with
  | none => m
  | some c =>
    let m := m.updPx p fun x => { x with powerReq := true, offPending := false, pvperl := m.flag (SPC_STATUS_PG c) }
    let m := m.updSlotVp p fun v => { v with powerOff := false }
    (if m.spcSt c = 0 then m.spcOn c else m).indicators p

def execSlotPowerOn (p : Port) (s : State) : Res := act (slotPowerOn p) s

/-- PERST_RELEASE (R195, R197): PVPERL after power good. -/
def perstRelease (p : Port) (m : Mach) : Mach :=
  if (m.px p).pvperl && m.slotGood p then (m.updPx p fun x => { x with pvperl := false }).perstHigh p else m

def execPerstRelease (p : Port) (s : State) : Res := act (perstRelease p) s

/-- SLOT_POWER_OFF (R195): PERST# first; Power Controller Control reads off at once; the channel follows. -/
def slotPowerOff (p : Port) (m : Mach) : Mach :=
  match m.slotOf p with
  | none => m
  | some _ =>
    let m := (m.perstLow p).updPx p fun x => { x with powerReq := false, offPending := true }
    (m.updSlotVp p fun v => { v with powerOff := true }).indicators p

def execSlotPowerOff (p : Port) (s : State) : Res := act (slotPowerOff p) s

/-- SLOT_CHANNEL_OFF (R195, R548): a channel that several ports name stays on while one of them requests power. -/
def slotChannelOff (p : Port) (m : Mach) : Mach :=
  if (m.px p).offPending then
    let m := m.updPx p fun x => { x with offPending := false }
    match m.slotOf p with
    | some c => if (m.owners c).any fun q => (m.px q).powerReq then m else m.spcOff c
    | none => m
  else m

def execSlotChannelOff (p : Port) (s : State) : Res := act (slotChannelOff p) s

/-- A port's presence takes a value (R195). -/
def Mach.presence (m : Mach) (p : Nat) (b : Bool) : Mach :=
  if (m.px p).present = b then m
  else
    let m := (m.updPx p fun x => { x with present := b, lds := if b then x.lds else 0 }).raise (TILE_PORT_EVENT_PRESENCE p)
    m.updSlotVp p fun v => { v with presenceChanged := true }

/-- PRESENCE_CHANGE (R193, R195). -/
def execPresenceChange (p : Port) (present : Bool) (s : State) : Res :=
  act (fun m => if m.isDown p then m.presence p present else m) s

/-- EXPANDER_POLL (R194): input bits; presence of the slots that take theirs from one, 1 present (assumption log 18). -/
def expanderPoll (bits : BitVec 128) (m : Mach) : Mach :=
  (List.range 1024).foldl (fun m p =>
    if (m.slotOf p).isSome && m.flag (TILE_PORT_SLOT_PRES_SRC p) then m.presence p (bit bits.toNat (m.rd (TILE_PORT_SLOT_PRES_BIT p)))
    else m) { m with expIn := bits.toNat }

def execExpanderPoll (bits : BitVec 128) (s : State) : Res := act (expanderPoll bits) s

/-! ### Credits; virtual functions -/

/-- LINK_CREDIT_RETURN (R220): of a CXL or PCIe port. -/
def linkCreditReturn (p : Port) (v : VC) (n : Nat) (m : Mach) : Mach :=
  if m.linkUp p ∧ !m.isZitch p then (m.setCredits p v (m.credits p v + n)).serve p else m

def execLinkCreditReturn (p : Port) (v : VC) (n : Nat) (s : State) : Res := act (linkCreditReturn p v n) s

/-- VF_ENABLE (R176): the lower of NumVFs and TotalVFs. -/
def vfEnable (p : Port) (numVfs : Nat) (m : Mach) : Mach :=
  if m.isUp p then m.updPx p fun x => { x with numVfs := numVfs, vfsOn := min numVfs (m.vfRange p).2 } else m

def execVfEnable (p : Port) (numVfs : Nat) (s : State) : Res := act (vfEnable p numVfs) s

end Sys2Proof.Machine
end

