-- ==== Sys2Proof/Machine/BriopOps.lean ====
section
/-! DEFINITION. Sys2Proof/Machine/BriopOps.lean: how Briop instructions execute (16, 17): encodings, what a thread and a route
pipe read and write, the checks of memory accesses, the traps. -/
namespace Sys2Proof.Machine

/-! ### Encodings (R477 to R481) -/

def encA (fn rd rs1 rs2 : Nat) : Nat := rd * 2 ^ 21 + rs1 * 2 ^ 16 + rs2 * 2 ^ 11 + fn
def encI (op rd rs imm : Nat) : Nat := op * 2 ^ 26 + rd * 2 ^ 21 + rs * 2 ^ 16 + imm
def encM (op r rb space size : Nat) (off : BitVec 12) : Nat :=
  op * 2 ^ 26 + r * 2 ^ 21 + rb * 2 ^ 16 + space * 2 ^ 14 + size * 2 ^ 12 + off.toNat
/-- PD in [25:23], a register in [20:16]; the rest below. -/
def encP (op pd r low : Nat) : Nat := op * 2 ^ 26 + pd * 2 ^ 23 + r * 2 ^ 16 + low

/-- Bits [lo + n − 1 : lo] of a word. -/
def wbits (w lo n : Nat) : Nat := w / 2 ^ lo % 2 ^ n

/-- Whether a word is an instruction that a thread may hold: no reserved encoding, no route-only one (R477, R478, R480). -/
def threadLegal (w : Nat) : Bool :=
  let rd := wbits w 21 5
  match wbits w 26 6 with
  | 0x00 =>
    let fn := wbits w 0 6
    wbits w 6 5 == 0 && (fn ≤ 0x0D || (0x10 ≤ fn && fn ≤ 0x12 && wbits w 11 5 == 0))
  | 0x01 | 0x02 | 0x03 | 0x04 | 0x07 | 0x09 | 0x10 | 0x21 | 0x2A => true
  | 0x05 => wbits w 8 8 == 0 && wbits w 6 2 != 3
  | 0x06 => wbits w 16 5 == 0
  | 0x08 => wbits w 21 2 == 0 && wbits w 3 8 == 0 && wbits w 0 3 != 7
  | 0x11 => wbits w 14 2 != 3
  | 0x13 | 0x14 => wbits w 14 2 == 1 || wbits w 14 2 == 2
  | 0x15 => !(wbits w 0 2 == 2 && wbits w 2 4 == 9 && (rd % 2 == 1 || wbits w 11 5 % 2 == 1 || wbits w 6 5 % 2 == 1))
  | 0x18 => wbits w 20 2 == 0
  | 0x19 => wbits w 20 1 == 0
  | 0x1A => wbits w 0 16 == 0
  | 0x24 => wbits w 21 2 == 0 && wbits w 0 11 == 0
  | 0x25 => wbits w 21 2 == 0 && wbits w 0 11 == 0 && wbits w 16 5 ≤ 30
  | 0x26 => wbits w 2 14 == 0 && wbits w 0 2 != 3
  | 0x28 | 0x29 => wbits w 1 1 == 0
  | 0x2C => wbits w 21 3 == 0 && wbits w 0 16 == 0 && wbits w 24 2 != 3
  | 0x2D => wbits w 8 13 == 0 && wbits w 0 8 != 0 && wbits w 5 3 == 0
  | 0x2E => wbits w 21 2 == 0 && (if wbits w 0 1 = 0 then wbits w 0 6 == 0 else wbits w 1 15 == 0 && wbits w 16 5 ≤ 29)
  | 0x2F => wbits w 1 20 == 0 && (wbits w 0 1 == 0 || rd ≤ 30)
  | 0x3E => wbits w 16 10 == 0
  | 0x3F => wbits w 1 25 == 0
  | _ => false

/-! ### Threads -/

/-- Run time of a thread in nanoseconds (R472). -/
def Mach.runTime (m : Mach) (t : Thread) : Nat := t.runNs + (m.now - t.since)

/-- A tenant thread that has run longer than RUN_LIMIT (R468, cause 14). -/
def Mach.overBudget (m : Mach) (t : Thread) : Bool :=
  !t.manager && (m.seqd t.dom).runLimit != 0 && (m.seqd t.dom).runLimit * 1000000 < m.runTime t

/-- The built-in DMLOAD program runs in a thread (R454); its instructions are none of the model's (assumption log 27). -/
def Thread.dmload (t : Thread) : Bool := !t.manager && t.origin == 0x10000

/-- A thread executes an instruction word: it runs, nothing holds it, and the word stands at its PC. A thread of an old
generation ends instead, one over its budget traps (R471, R504). -/
def Mach.instr (m : Mach) (th w : Nat) (f : Mach → Thread → Mach) : Mach :=
  match m.thr th with
  | none => m
  | some t =>
    if !t.running || t.hold.isSome || t.dmload then m
    else if m.staleThread t then m.endThread th
    else if m.overBudget t then m.trap th .budget 0 0xFF 0
    else if t.pc + 4 ≤ t.win ∧ t.pc % 4 = 0 ∧ m.word th t t.pc = w then f m t
    else m

/-- A thread goes on at the next instruction. -/
def Mach.next (m : Mach) (th : Nat) (t : Thread) : Mach := m.retire th { t with pc := t.pc + 4 }

/-! ### Route pipes (R456, R457) -/

/-- The VCS of a port: the one that it heads, or that it is bound in (R173). -/
def Mach.portVcs (m : Mach) (p : Nat) : Nat :=
  match m.bound p with
  | some b => m.vcsOf b.up
  | none => if m.isUp p then m.vcsOf p else 0

/-- X0 to X15 of a request (R457). -/
def Mach.xreg (m : Mach) (p : Nat) (x : Pipe) (n : Nat) : Nat :=
  let r := x.req
  match n with
  | 0 => p % 1024 + (if r.zitch then 2 * 2 ^ 10 else 0) + (match r.src with | .fabric _ f => f % 4096 * 2 ^ 12 | _ => 0)
  | 1 => (match x.dom with
    | some d => d % 4096 + (m.dom d).gen % 65536 * 2 ^ 12 + (if privOf x.dom then 2 ^ 28 else 0) + 2 ^ 29
    | none => 0)
  | 2 => r.opcode % 256 + r.vc % 8 * 2 ^ 8 + r.proto * 2 ^ 11 + (if r.poison then 2 ^ 15 else 0)
  | 3 => r.addr
  | 4 => r.len
  | 5 => r.tag
  | 6 => m.srcPbr r % 4096 + (match r.pbr with | some d => d % 4096 * 2 ^ 12 + 2 ^ 24 | none => 0)
  | 7 => r.ldId
  | 8 => (match r.egress with | some e => e % 1024 + 2 ^ 10 | none => 0) + m.portVcs p % 256 * 2 ^ 11
  | 9 => tileOf p + (Config.routePipe p).toNat * 2 ^ 6
  | 10 => x.time
  | _ => 0

/-- A source field in a route program (R478). -/
def Mach.pipeSrc (m : Mach) (p : Nat) (x : Pipe) (n : Nat) : Word :=
  if n < 16 then (if n = 0 then 0 else SMap.get 0 x.g n) else BitVec.ofNat 64 (m.xreg p x (n - 16))

def Pipe.setReg (x : Pipe) (n : Nat) (v : Word) : Pipe := if n = 0 then x else { x with g := SMap.set 0 x.g n v }
def Pipe.pr (x : Pipe) (n : Nat) : Bool := n == 0 || bit x.pred n
def Pipe.setPr (x : Pipe) (n : Nat) (b : Bool) : Pipe := if n = 0 then x else { x with pred := withBit x.pred n b }

/-- The oldest request in a port's route pipe executes an instruction word of its program. -/
def Mach.pipeInstr (m : Mach) (p w : Nat) (f : Pipe → Pipe) : Mach :=
  match SMap.get [] m.pipes p with
  | x :: rest => if (x.prog[x.pc]?).map BitVec.toNat = some w then { m with pipes := SMap.ins m.pipes p (f x :: rest) } else m
  | [] => m

/-! ### Instructions of both -/

/-- An instruction that writes a register from source registers. -/
def Mach.toReg (m : Mach) (who : Who) (w rd : Nat) (val : (Nat → Word) → Word) : Mach :=
  match who with
  | .thread th => m.instr th w fun m t => m.next th (t.setReg rd (val t.reg))
  | .pipe p => m.pipeInstr p w fun x => { x.setReg rd (val (m.pipeSrc p x)) with pc := x.pc + 1 }

/-- An instruction that writes a predicate from source registers. -/
def Mach.toPred (m : Mach) (who : Who) (w pd : Nat) (val : (Nat → Word) → Bool) : Mach :=
  match who with
  | .thread th => m.instr th w fun m t => m.next th (t.setPr pd (val t.reg))
  | .pipe p => m.pipeInstr p w fun x => { x.setPr pd (val (m.pipeSrc p x)) with pc := x.pc + 1 }

/-! ### Memory accesses of a thread (R450 to R452) -/

/-- Effective address: base and signed offset, modulo 2^64. -/
def effAddr (base : Word) (off : BitVec 12) : Nat := (base + off.signExtend 64).toNat

/-- Local DDR5 address of a DM address. -/
def Mach.dmAt (m : Mach) (t : Thread) (a : Nat) : Nat := if t.manager then a else (m.seqd t.dom).at + a

/-- DM space ends here. -/
def Mach.dmLimit (m : Mach) (t : Thread) : Nat := if t.manager then m.ddrBytes else (m.seqd t.dom).bytes

/-- n bytes of DM may not be written (R448): the areas at the bottom of a slice; in manager mode the Privet areas and the
training area. -/
def Mach.dmGuarded (m : Mach) (t : Thread) (a n : Nat) : Bool :=
  if t.manager then a < m.ddrLow || m.ddrHigh < a + n else a < 0x20000

/-- The domain on whose behalf a thread's FM accesses are made, and the KIND of their violations (R448, R341). -/
def Thread.fmDom (t : Thread) : Nat := if t.manager then t.selfDom else t.dom
def Thread.fmKind (t : Thread) : Nat := if t.manager then 6 else 5

/-- The check of an FM access (R339, R340, R488): the first disallowed byte, once the refusal is recorded. -/
def Mach.fmCheck (m : Mach) (th : Nat) (t : Thread) (r : Req) (n : Nat) : Option (Nat × Mach) :=
  match m.check t.fmDom t.manager r.kind.need r.addr n with
  | .allow _ => none
  | .refuse a c s =>
    let k := th / 8 * 2 + th % 8 % 2
    some (a, ((m.count (CNT_TILE k 106) 1).count (CNT_TILE k 108) 1).recordRefusal r (some t.fmDom) a c s t.fmKind)

/-- A thread's FM write to the line of an address has not completed (R488). -/
def Thread.writing (t : Thread) (a n : Nat) : Bool := t.outW.any fun w => w / 64 * 64 < a + n && a < w / 64 * 64 + 64

/-- Requests of a thread that have not finished. -/
def Mach.threadBusy (m : Mach) (th : Nat) : Bool :=
  let mine := fun (s : ReqSrc) => s == .thread th
  m.trk.any (fun x => mine x.2.req.src) || m.trkWait.any (fun x => x.2.any fun w => mine w.req.src)

/-- Take up what a thread's requests returned: writes that completed, and their failures (R488); data of reads and atomics for
the instruction that waits. -/
def Thread.take (t : Thread) (x : AgentDone) : Thread :=
  match x.rsp with
  | .cmp _ =>
    let a := x.addr / 64 * 64
    if t.outW.contains a then
      let t := { t with outW := t.outW.erase a }
      match x.why with
      | .lost => { t with fails := t.fails ++ [(x.addr, Trap.fmLost.code)] }
      | .timeout => { t with fails := t.fails ++ [(x.addr, Trap.fmTimeout.code)] }
      | _ => t
    else t
  | _ => { t with got := t.got ++ [x] }

/-- A thread takes up what its requests returned. -/
def Mach.threadTake (m : Mach) (th : Nat) : Mach :=
  match m.thr th with
  | none => m
  | some t =>
    let mine := fun (x : AgentDone) => x.src == .thread th
    { m.setThr th ((m.agentDone.filter mine).foldl Thread.take t) with agentDone := m.agentDone.filter fun x => !mine x }

/-- The trap of an FM access that failed; none for one that returned good data. -/
def AgentDone.trap (x : AgentDone) : Option Trap :=
  match x.why, x.rsp with
  | .refused _, _ => some .fmRefused
  | .lost, _ => some .fmLost
  | .timeout, _ => some .fmTimeout
  | .real, .data _ false _ => none
  | .real, _ => some .fmPoison

end Sys2Proof.Machine
end

