-- ==== Sys2Proof/Machine/Briop.lean ====
section
/-! DEFINITION. Sys2Proof/Machine/Briop.lean: arithmetic, logic, compares, control flow, traps, how threads start and end (R444
to R447, R465 to R470, R485, R486, R491 to R493). -/
namespace Sys2Proof.Machine

/-- ADD (R485). -/
def execOpAdd (who : Who) (rd rs1 rs2 : Fin 32) (s : State) : Res :=
  act (fun m => m.toReg who (encA 0x00 rd rs1 rs2) rd fun src => src rs1 + src rs2) s

/-- SUB (R485). -/
def execOpSub (who : Who) (rd rs1 rs2 : Fin 32) (s : State) : Res :=
  act (fun m => m.toReg who (encA 0x01 rd rs1 rs2) rd fun src => src rs1 - src rs2) s

/-- AND (R485). -/
def execOpAnd (who : Who) (rd rs1 rs2 : Fin 32) (s : State) : Res :=
  act (fun m => m.toReg who (encA 0x02 rd rs1 rs2) rd fun src => src rs1 &&& src rs2) s

/-- OR (R485). -/
def execOpOr (who : Who) (rd rs1 rs2 : Fin 32) (s : State) : Res :=
  act (fun m => m.toReg who (encA 0x03 rd rs1 rs2) rd fun src => src rs1 ||| src rs2) s

/-- XOR (R485). -/
def execOpXor (who : Who) (rd rs1 rs2 : Fin 32) (s : State) : Res :=
  act (fun m => m.toReg who (encA 0x04 rd rs1 rs2) rd fun src => src rs1 ^^^ src rs2) s

/-- SHL (R485). -/
def execShl (who : Who) (rd rs1 rs2 : Fin 32) (s : State) : Res :=
  act (fun m => m.toReg who (encA 0x05 rd rs1 rs2) rd fun src => src rs1 <<< ((src rs2).toNat % 64)) s

/-- SHR (R485). -/
def execShr (who : Who) (rd rs1 rs2 : Fin 32) (s : State) : Res :=
  act (fun m => m.toReg who (encA 0x06 rd rs1 rs2) rd fun src => src rs1 >>> ((src rs2).toNat % 64)) s

/-- SAR (R485). -/
def execSar (who : Who) (rd rs1 rs2 : Fin 32) (s : State) : Res :=
  act (fun m => m.toReg who (encA 0x07 rd rs1 rs2) rd fun src => (src rs1).sshiftRight ((src rs2).toNat % 64)) s

/-- MUL (R485). -/
def execMul (who : Who) (rd rs1 rs2 : Fin 32) (s : State) : Res :=
  act (fun m => m.toReg who (encA 0x08 rd rs1 rs2) rd fun src => src rs1 * src rs2) s

/-- MULH (R485). -/
def execMulh (who : Who) (rd rs1 rs2 : Fin 32) (s : State) : Res :=
  act (fun m => m.toReg who (encA 0x09 rd rs1 rs2) rd fun src => (((src rs1).signExtend 128 * (src rs2).signExtend 128) >>> 64).truncate 64) s

/-- MIN (R485). -/
def execOpMin (who : Who) (rd rs1 rs2 : Fin 32) (s : State) : Res :=
  act (fun m => m.toReg who (encA 0x0A rd rs1 rs2) rd fun src => if (src rs1).slt (src rs2) then src rs1 else src rs2) s

/-- MAX (R485). -/
def execOpMax (who : Who) (rd rs1 rs2 : Fin 32) (s : State) : Res :=
  act (fun m => m.toReg who (encA 0x0B rd rs1 rs2) rd fun src => if (src rs1).slt (src rs2) then src rs2 else src rs1) s

/-- MINU (R485). -/
def execMinu (who : Who) (rd rs1 rs2 : Fin 32) (s : State) : Res :=
  act (fun m => m.toReg who (encA 0x0C rd rs1 rs2) rd fun src => if src rs1 < src rs2 then src rs1 else src rs2) s

/-- MAXU (R485). -/
def execMaxu (who : Who) (rd rs1 rs2 : Fin 32) (s : State) : Res :=
  act (fun m => m.toReg who (encA 0x0D rd rs1 rs2) rd fun src => if src rs1 < src rs2 then src rs2 else src rs1) s

/-- Number of 1 bits; of leading 0 bits; the bytes in reverse order. -/
def popCount (v : Word) : Nat := ((List.range 64).filter fun i => v.getLsbD i).length
def leadZeros (v : Word) : Nat := if v = 0 then 64 else 63 - Nat.log2 v.toNat
def byteSwap (v : Word) : Word := BitVec.ofNat 64 (ofLe (leBytes 8 v.toNat).reverse)

/-- POPC (R485). -/
def execPopc (who : Who) (rd rs1 : Fin 32) (s : State) : Res :=
  act (fun m => m.toReg who (encA 0x10 rd rs1 0) rd fun src => BitVec.ofNat 64 (popCount (src rs1))) s

/-- CLZ (R485). -/
def execClz (who : Who) (rd rs1 : Fin 32) (s : State) : Res :=
  act (fun m => m.toReg who (encA 0x11 rd rs1 0) rd fun src => BitVec.ofNat 64 (leadZeros (src rs1))) s

/-- BSWAP (R485). -/
def execBswap (who : Who) (rd rs1 : Fin 32) (s : State) : Res :=
  act (fun m => m.toReg who (encA 0x12 rd rs1 0) rd fun src => byteSwap (src rs1)) s

/-- ADDI (R479, R485). -/
def execAddi (who : Who) (rd rs1 : Fin 32) (imm : BitVec 16) (s : State) : Res :=
  act (fun m => m.toReg who (encI 0x01 rd rs1 imm.toNat) rd fun src => src rs1 + imm.signExtend 64) s

/-- ANDI (R479, R485). -/
def execAndi (who : Who) (rd rs1 : Fin 32) (imm : BitVec 16) (s : State) : Res :=
  act (fun m => m.toReg who (encI 0x02 rd rs1 imm.toNat) rd fun src => src rs1 &&& imm.zeroExtend 64) s

/-- ORI (R479, R485). -/
def execOri (who : Who) (rd rs1 : Fin 32) (imm : BitVec 16) (s : State) : Res :=
  act (fun m => m.toReg who (encI 0x03 rd rs1 imm.toNat) rd fun src => src rs1 ||| imm.zeroExtend 64) s

/-- XORI (R479, R485). -/
def execXori (who : Who) (rd rs1 : Fin 32) (imm : BitVec 16) (s : State) : Res :=
  act (fun m => m.toReg who (encI 0x04 rd rs1 imm.toNat) rd fun src => src rs1 ^^^ imm.zeroExtend 64) s

/-- LIH (R479, R485). -/
def execLih (who : Who) (rd rs1 : Fin 32) (imm : BitVec 16) (s : State) : Res :=
  act (fun m => m.toReg who (encI 0x07 rd rs1 imm.toNat) rd fun src => (src rs1 &&& 0x0000FFFFFFFFFFFF) ||| (imm.zeroExtend 64 <<< 48)) s

/-- SHLI (R485). -/
def execShli (who : Who) (rd rs1 : Fin 32) (sh : Fin 64) (s : State) : Res :=
  act (fun m => m.toReg who (encI 0x05 rd rs1 (0 * 64 + sh.val)) rd fun src => src rs1 <<< sh.val) s

/-- SHRI (R485). -/
def execShri (who : Who) (rd rs1 : Fin 32) (sh : Fin 64) (s : State) : Res :=
  act (fun m => m.toReg who (encI 0x05 rd rs1 (1 * 64 + sh.val)) rd fun src => src rs1 >>> sh.val) s

/-- SARI (R485). -/
def execSari (who : Who) (rd rs1 : Fin 32) (sh : Fin 64) (s : State) : Res :=
  act (fun m => m.toReg who (encI 0x05 rd rs1 (2 * 64 + sh.val)) rd fun src => (src rs1).sshiftRight sh.val) s

/-- LUI (R485). -/
def execLui (who : Who) (rd : Fin 32) (imm : BitVec 16) (s : State) : Res :=
  act (fun m => m.toReg who (encI 0x06 rd 0 imm.toNat) rd fun _ => imm.zeroExtend 64 <<< 16) s

/-! ### Compares (R486) -/

/-- The condition of a CMP; code 7 is reserved. -/
def cmpCond (cond : Nat) (a b : Word) : Bool :=
  match cond with
  | 0 => a == b
  | 1 => a != b
  | 2 => a.slt b
  | 3 => !a.slt b
  | 4 => a.ult b
  | 5 => !a.ult b
  | _ => a &&& b != 0

/-- CMP; COND 7 is a reserved encoding. -/
def cmpInstr (who : Who) (pd : Fin 8) (rs1 rs2 : Fin 32) (cond : Fin 8) (m : Mach) : Mach :=
  let w := encP 0x08 pd rs1 (rs2.val * 2 ^ 11 + cond)
  match who with
  | .thread th => if cond.val = 7 then m.instr th w fun m _ => m.trap th .illegal 0 0xFF 0 else m.toPred who w pd fun src => cmpCond cond (src rs1) (src rs2)
  | .pipe _ => m.toPred who w pd fun src => cmpCond cond (src rs1) (src rs2)

def execCmp (who : Who) (pd : Fin 8) (rs1 rs2 : Fin 32) (cond : Fin 8) (s : State) : Res := act (cmpInstr who pd rs1 rs2 cond) s

/-- The condition of a CMPI as CMP codes it. -/
def cmpiCond (cond : Nat) : Nat := if cond = 3 then 4 else cond

/-- CMPI. -/
def execCmpi (who : Who) (pd : Fin 8) (rs1 : Fin 32) (imm : BitVec 16) (cond : Fin 4) (s : State) : Res :=
  act (fun m => m.toPred who (encP 0x09 pd rs1 (cond.val * 2 ^ 21 + imm.toNat)) pd fun src => cmpCond (cmpiCond cond) (src rs1) (imm.signExtend 64)) s

/-! ### Control flow (R491, R493) -/

/-- A target: words relative to an address, modulo 2^64. -/
def target (pc : Nat) (off : BitVec 20) : Nat := (BitVec.ofNat 64 pc + (off.signExtend 64 <<< 2)).toNat

/-- BR (R491, R455). -/
def brInstr (who : Who) (neg : Bool) (p : Fin 8) (off : BitVec 20) (m : Mach) : Mach :=
  let w := 0x18 * 2 ^ 26 + (if neg then 2 ^ 25 else 0) + p.val * 2 ^ 22 + off.toNat
  match who with
  | .thread th => m.instr th w fun m t => m.retire th { t with pc := if t.pr p != neg then target t.pc off else t.pc + 4 }
  | .pipe q => m.pipeInstr q w fun x => { x with pc := if x.pr p != neg then x.pc + off.toNat else x.pc + 1 }

def execBr (who : Who) (neg : Bool) (p : Fin 8) (off : BitVec 20) (s : State) : Res := act (brInstr who neg p off) s

/-- JAL. -/
def jalInstr (th : Thr) (rd : Fin 32) (off : BitVec 20) (m : Mach) : Mach :=
  m.instr th (0x19 * 2 ^ 26 + rd.val * 2 ^ 21 + off.toNat) fun m t =>
    m.retire th { t.setReg rd (BitVec.ofNat 64 (t.pc + 4)) with pc := target t.pc off }

def execJal (th : Thr) (rd : Fin 32) (off : BitVec 20) (s : State) : Res := act (jalInstr th rd off) s

/-- JR. -/
def jrInstr (th : Thr) (rd rs : Fin 32) (m : Mach) : Mach :=
  m.instr th (encI 0x1A rd rs 0) fun m t =>
    let a := (t.reg rs).toNat
    if a % 4 ≠ 0 then m.trap th .align 0 0xFF 0
    else m.retire th { t.setReg rd (BitVec.ofNat 64 (t.pc + 4)) with pc := a }

def execJr (th : Thr) (rd rs : Fin 32) (s : State) : Res := act (jrInstr th rd rs) s

/-- TRAP. -/
def trapInstr (th : Thr) (imm : BitVec 16) (m : Mach) : Mach :=
  m.instr th (0x3E * 2 ^ 26 + imm.toNat) fun m _ => m.trap th .trap 0 0xFF imm.toNat

def execTrap (th : Thr) (imm : BitVec 16) (s : State) : Res := act (trapInstr th imm) s

/-- NOP. -/
def nopInstr (who : Who) (m : Mach) : Mach :=
  let w := 0x3F * 2 ^ 26
  match who with
  | .thread th => m.instr th w fun m t => m.next th t
  | .pipe p => m.pipeInstr p w fun x => { x with pc := x.pc + 1 }

def execNopInstr (who : Who) (s : State) : Res := act (nopInstr who) s

/-! ### Start (R445 to R447, R472) -/

/-- The thread of a RUN entry starts (R447). -/
def Mach.runStart (m : Mach) (e : EntryRef) : Mach :=
  match m.threads.find? fun x => x.2.entry == some e && !x.2.running, m.run e with
  | some (th, t), some r =>
    let b := r.bytes
    let g := (List.range 4).foldl (fun g i => SMap.set (0 : Word) g (i + 1) (BitVec.ofNat 64 (bget b (0x20 + 8 * i) 8))) []
    let t := { t with running := true, origin := bget b 0x10 8, pc := bget b 0x18 4, g := g, since := m.now, timerAt := m.now }
    (m.loadWindow th t).setThr th t
  | _, _ => m

/-- A frozen thread of a thawed domain is placed again (R370, R472): a pending WAIT's destination stands in the instruction at
its PC. -/
def Mach.thawThread (m : Mach) (d ix : Nat) : Mach :=
  match SMap.find m.frozen (d * 64 + ix) with
  | none => m
  | some f =>
    let c := Mem.readBytes m.ddr (m.ctxAt d ix) 512
    let win := (if bget c 0x108 4 = 0 then 4 else bget c 0x108 4) * 1024
    if !f.resume || (m.dom d).state != .active then m
    else match m.placeThread win with
      | none => m
      | some (th, base) =>
        let t := { contextThread c d (m.dom d).gen base f.entry m.now with local_ := ix, timerAt := m.now }
        let m := { (m.loadWindow th t) with frozen := SMap.del m.frozen (d * 64 + ix) }
        let w := m.word th t t.pc
        m.setThr th { t with hold := if bget c 0xF9 1 = 0 then none else some (.wait (bget c 0xF9 1) (wbits w 21 5)) }

/-- The manager firmware starts a thread on a manager core (R445, R473, R474): SQC1 is no core of its own while it is in
lockstep. -/
def Mach.firmwareStart (m : Mach) (th pc : Nat) (g : List (Nat × Word)) (ls : List (Nat × List Byte)) : Mach :=
  let c := th / 8
  let pair := m.flag SEQ_CTRL_LOCKSTEP
  if (m.thr th).isSome || !m.coreTakes c true || (c = 1 && pair) || (c = 0 && m.fwDown) || m.rd WKT_BOOT_STATUS_STAGE < 2 then m
  else
    let t : Thread := { manager := true, running := true, win := 1048576, pc := pc,
                        g := g.foldl (fun g x => if x.1 = 0 ∨ 32 ≤ x.1 then g else SMap.set 0 g x.1 x.2) [],
                        since := m.now, timerAt := m.now }
    let m := m.setScratch th (ls.foldl (fun x (y : Nat × List Byte) => Mem.writeBytes x y.1 (y.2.take (1048576 - y.1))) (m.scratch th))
    m.setThr th t

/-- THREAD_START. -/
def threadStart (by_ : StartBy) (m : Mach) : Mach :=
  match by_ with
  | .run d q idx => m.runStart { dom := d, q := q, idx := idx.toNat }
  | .thaw d ix => m.thawThread d ix
  | .firmware th pc g ls => if pc.val % 4 = 0 then m.firmwareStart th pc g ls else m

def execThreadStart (by_ : StartBy) (s : State) : Res := act (threadStart by_) s

/-- DMLOAD (R454): the copy that the built-in program makes; data is what the reads return, fail the failure of the read at an
offset. -/
def dmload (th : Thr) (data : List Byte) (fail : Option (Nat × FmFail)) (m : Mach) : Mach :=
  match m.thr th with
  | none => m
  | some t =>
    if !t.running || !t.dmload then m
    else if m.staleThread t then m.endThread th
    else if m.overBudget t then m.trap th .budget 0 0xFF 0
    else
      let src := (t.reg 1).toNat
      let dst := (t.reg 2).toNat
      let n := (t.reg 3).toNat
      let put := fun (m : Mach) (k : Nat) =>
        { m with ddr := Mem.writeBytes m.ddr ((m.seqd t.dom).at + dst) ((data ++ List.replicate (k - data.length) 0).take k) }
      if src % 8 ≠ 0 ∨ n % 8 ≠ 0 ∨ dst < 0x20000 then m.trap th .trap 0 0xFF 1
      else
        let lim := (m.seqd t.dom).bytes
        let room := min n (lim - dst)
        let r : Req := { src := .thread th.val, kind := .ncRead, addr := src }
        match (if n = 0 then none else m.fmCheck th t r n) with
        | some (a, m) => (put m (min (a - src) room)).trap th .fmRefused a 2 0
        | none => match fail with
          | some (o, f) =>
            let c := match f with | .poison => Trap.fmPoison | .lost => .fmLost | .timeout => .fmTimeout
            if o < room then (put m o).trap th c (src + o) 2 0 else if room < n then (put m room).trap th .dmRange (dst + room) 1 0 else m
          | none =>
            if room < n then (put m room).trap th .dmRange (dst + room) 1 0
            else
              let m := put m n
              let m := match t.entry with | some e => m.endEntry e { result := n } | none => m
              m.endThread th

def execDmload (th : Thr) (data : List Byte) (fail : Option (Nat × FmFail)) (s : State) : Res := act (dmload th data fail) s

/-! ### Traps (R468 to R470, R504) -/

/-- Causes that a thread meets before its instruction executes: generation, budget, fetch, a reserved encoding; ecc: an
uncorrectable error of local scratch on the fetch, or on the data at an address that the instruction reads. -/
def threadTrap (th : Thr) (ecc : Option (Option Nat)) (m : Mach) : Mach :=
  match m.thr th with
  | none => m
  | some t =>
    if !t.running || t.hold.isSome then m
    else if m.staleThread t then m.endThread th
    else if m.overBudget t then m.trap th .budget 0 0xFF 0
    else if t.win < t.pc + 4 then m.trap th .lsRange t.pc 0 0
    else
      let w := m.word th t t.pc
      match ecc with
      | some none => m.trap th .ecc 0 0 0
      | some (some a) =>
        let op := wbits w 26 6
        if !threadLegal w then m.trap th .illegal 0 0xFF 0
        else if (op = 0x10 ∧ wbits w 14 2 = 0) ∨ op = 0x14 ∨ op = 0x24 then m.trap th .ecc a 0 0 else m
      | none => if !threadLegal w && !t.dmload then m.trap th .illegal 0 0xFF 0 else m

def execThreadTrap (th : Thr) (ecc : Option (Option Nat)) (s : State) : Res := act (threadTrap th ecc) s

/-- BUDGET (R468, R504): at an instruction boundary, a waiting thread's included. -/
def budget (th : Thr) (m : Mach) : Mach :=
  match m.thr th with
  | none => m
  | some t =>
    let at_ := match t.hold with | none => true | some (.wait _ _) => true | _ => false
    if t.running && at_ && m.overBudget t then m.trap th .budget 0 0xFF 0 else m

def execBudget (th : Thr) (s : State) : Res := act (budget th) s

/-- SELF_TIMER_EXPIRY (R466): the timer has counted down to 0. -/
def selfTimerExpiry (th : Thr) (m : Mach) : Mach :=
  m.updThr th fun t => if m.timerLeft t = 0 then { t with timer := 0 } else t

def execSelfTimerExpiry (th : Thr) (s : State) : Res := act (selfTimerExpiry th) s

/-- SELF_TREC_CLR (R470). -/
def selfTrecClr (th : Thr) (v : BitVec 32) (m : Mach) : Mach :=
  if bit v.toNat 0 then m.updThr th fun t => { t with trec := { t.trec with valid := false } } else m

def execSelfTrecClr (th : Thr) (v : BitVec 32) (s : State) : Res := act (selfTrecClr th v) s

end Sys2Proof.Machine
end

