-- ==== Sys2Proof/Machine/BriopMem.lean ====
section
/-! DEFINITION. Sys2Proof/Machine/BriopMem.lean: memory, atomics, tables, queues, fences, events, messages and time of Briop
threads (R466, R467, R487 to R490, R492 to R497, R500 to R502). -/
namespace Sys2Proof.Machine

/-! ### LD and ST (R487, R488) -/

/-- LD. -/
def ldInstr (th : Thr) (rd rb : Fin 32) (space size : Fin 4) (off : BitVec 12) (m : Mach) : Mach :=
  m.instr th (encM 0x10 rd rb space size off) fun m t =>
    let a := effAddr (t.reg rb) off
    let n := 2 ^ size.val
    let sp := space.val
    if sp = 3 ∧ !t.manager then m.trap th .priv 0 3 0
    else if a % n ≠ 0 then m.trap th .align a sp 0
    else if sp = 0 then
      if t.win < a + n then m.trap th .lsRange a 0 0
      else (m.coreCount th 3 1).next th (t.setReg rd (BitVec.ofNat 64 (Mem.read (m.scratch th) (t.base + a) n)))
    else if sp = 1 then
      if m.dmLimit t < a + n then m.trap th .dmRange a 1 0
      else (m.coreCount th 4 1).setThr th { t with hold := some (.ld false rd n a) }
    else if sp = 2 then
      if t.writing a n then m
      else
        let r : Req := { src := .thread th.val, kind := .ncRead, addr := a }
        match m.fmCheck th t r n with
        | some (x, m) => m.trap th .fmRefused x 2 0
        | none => ((m.coreCount th 5 1).setThr th { t with hold := some (.ld true rd n a) }).agentLine r t.fmDom t.manager t.fmKind n
    else if 0x80000 < a + n then m.trap th .tbRange a 3 0
    else m.next th (t.setReg rd (BitVec.ofNat 64 (Mem.read m.tbl a n)))

def execLd (th : Thr) (rd rb : Fin 32) (space size : Fin 4) (off : BitVec 12) (s : State) : Res := act (ldInstr th rd rb space size off) s

/-- ST; SPACE 3 is a reserved encoding. -/
def stInstr (th : Thr) (rs rb : Fin 32) (space size : Fin 4) (off : BitVec 12) (m : Mach) : Mach :=
  m.instr th (encM 0x11 rs rb space size off) fun m t =>
    let a := effAddr (t.reg rb) off
    let n := 2 ^ size.val
    let sp := space.val
    let v := (t.reg rs).toNat
    if sp = 3 then m.trap th .illegal 0 0xFF 0
    else if a % n ≠ 0 then m.trap th .align a sp 0
    else if sp = 0 then
      if t.win < a + n then m.trap th .lsRange a 0 0
      else ((m.coreCount th 3 1).setScratch th (Mem.write (m.scratch th) (t.base + a) n v)).next th t
    else if sp = 1 then
      if m.dmLimit t < a + n || m.dmGuarded t a n then m.trap th .dmRange a 1 0
      else { m.coreCount th 4 1 with ddr := Mem.write m.ddr (m.dmAt t a) n v }.next th t
    else if 32 ≤ t.outW.length then m
    else
      let r := lineWrite (.thread th.val) a (leBytes n v)
      match m.fmCheck th t r n with
      | some (x, m) => m.trap th .fmRefused x 2 0
      | none => ((m.coreCount th 5 1).next th { t with outW := t.outW ++ [a / 64 * 64] }).agentLine r t.fmDom t.manager t.fmKind n

def execSt (th : Thr) (rs rb : Fin 32) (space size : Fin 4) (off : BitVec 12) (s : State) : Res := act (stInstr th rs rb space size off) s

/-! ### FLD and FST (R489) -/

/-- The checks before an FLD or FST moves anything: the encoding, alignment, the local scratch range. -/
def lineTrap (t : Thread) (far ls n sp : Nat) : Option (Trap × Nat × Nat) :=
  if sp = 0 ∨ sp = 3 then some (.illegal, 0, 0xFF)
  else if far % n ≠ 0 then some (.align, far, sp)
  else if ls % 64 ≠ 0 then some (.align, ls, 0)
  else if t.win < ls + n then some (.lsRange, ls, 0)
  else none

/-- Addresses of the lines of a transfer. -/
def lineAddrs (far n : Nat) : List Nat := (List.range (n / 64)).map fun i => far + 64 * i

/-- FLD. -/
def fldInstr (th : Thr) (rl rb : Fin 32) (space n : Fin 4) (off : BitVec 12) (m : Mach) : Mach :=
  m.instr th (encM 0x13 rl rb space n off) fun m t =>
    let far := effAddr (t.reg rb) off
    let ls := (t.reg rl).toNat
    let len := 64 * 2 ^ n.val
    match lineTrap t far ls len space with
    | some (c, a, sp) => m.trap th c a sp 0
    | none =>
      let k := len / 64
      if space.val = 1 then
        if m.dmLimit t < far + len then m.trap th .dmRange far 1 0
        else ((m.coreCount th 3 k).coreCount th 4 k).setThr th { t with hold := some (.fld false ls len far) }
      else if t.writing far len then m
      else
        let r : Req := { src := .thread th.val, kind := .ncRead, addr := far }
        match m.fmCheck th t r len with
        | some (x, m) => m.trap th .fmRefused x 2 0
        | none =>
          let m := ((m.coreCount th 3 k).coreCount th 5 k).setThr th { t with hold := some (.fld true ls len far) }
          (lineAddrs far len).foldl (fun m a => m.agentLine { r with addr := a } t.fmDom t.manager t.fmKind 64) m

def execFld (th : Thr) (rl rb : Fin 32) (space n : Fin 4) (off : BitVec 12) (s : State) : Res := act (fldInstr th rl rb space n off) s

/-- FST. -/
def fstInstr (th : Thr) (rl rb : Fin 32) (space n : Fin 4) (off : BitVec 12) (m : Mach) : Mach :=
  m.instr th (encM 0x14 rl rb space n off) fun m t =>
    let far := effAddr (t.reg rb) off
    let ls := (t.reg rl).toNat
    let len := 64 * 2 ^ n.val
    match lineTrap t far ls len space with
    | some (c, a, sp) => m.trap th c a sp 0
    | none =>
      let k := len / 64
      if space.val = 1 then
        if m.dmLimit t < far + len || m.dmGuarded t far len then m.trap th .dmRange far 1 0
        else { (m.coreCount th 3 k).coreCount th 4 k with ddr := Mem.blit m.ddr (m.dmAt t far) len (m.scratch th) (t.base + ls) }.next th t
      else if 32 < t.outW.length + k then m
      else
        let r : Req := { src := .thread th.val, kind := .ncWrite true, addr := far }
        match m.fmCheck th t r len with
        | some (x, m) => m.trap th .fmRefused x 2 0
        | none =>
          let m := ((m.coreCount th 3 k).coreCount th 5 k).next th { t with outW := t.outW ++ lineAddrs far len }
          (lineAddrs far len).foldl (fun m a =>
            m.agentLine (lineWrite (.thread th.val) a (Mem.readBytes (m.scratch th) (t.base + ls + (a - far)) 64)) t.fmDom t.manager t.fmKind 64) m

def execFst (th : Thr) (rl rb : Fin 32) (space n : Fin 4) (off : BitVec 12) (s : State) : Res := act (fstInstr th rl rb space n off) s

/-! ### FAT (R490) -/

/-- FAT. -/
def fatInstr (th : Thr) (rd rb ra rc : Fin 32) (op : Fin 16) (size : Fin 4) (m : Mach) : Mach :=
  m.instr th (encI 0x15 rd rb (ra.val * 2 ^ 11 + rc.val * 2 ^ 6 + op.val * 4 + size)) fun m t =>
    let n := 4 * 2 ^ size.val
    let a := (t.reg rb).toNat
    let val := fun (r : Nat) => (t.reg r).toNat + (if n = 16 then 2 ^ 64 * (t.reg (r + 1)).toNat else 0)
    if !atomicSupported op n then m.trap th .atomic 0 2 0
    else if n = 16 && (rd.val % 2 == 1 || ra.val % 2 == 1 || rc.val % 2 == 1) then m.trap th .illegal 0 0xFF 0
    else if a % n ≠ 0 then m.trap th .align a 2 0
    else if t.writing a n then m
    else
      let r : Req := { src := .thread th.val, kind := .atomic op n (val ra % 2 ^ (8 * n)) (val rc % 2 ^ (8 * n)), addr := a, len := n }
      match m.fmCheck th t r n with
      | some (x, m) => m.trap th .fmRefused x 2 0
      | none => ((m.coreCount th 5 1).setThr th { t with hold := some (.fat rd n a) }).agentReq r t.fmDom t.manager t.fmKind

def execFat (th : Thr) (rd rb ra rc : Fin 32) (op : Fin 16) (size : Fin 4) (s : State) : Res := act (fatInstr th rd rb ra rc op size) s

/-! ### Accesses that end (R483, R488, R500) -/

/-- A thread that halts is over (R447, R493): a tenant's RUN entry ends with G1. -/
def Mach.haltEnd (m : Mach) (th : Nat) (t : Thread) : Mach :=
  let m := match t.manager, t.entry with
    | false, some e => m.endEntry e { result := (t.reg 1).toNat }
    | _, _ => m
  (m.coreCount th 0 1).endThread th

/-- A thread that waits for its writes goes on once they have completed: a failed write is reported first (R488); then a FENCE
ends or becomes the rule fence of its second half, and HALT ends the thread. -/
def Mach.fenceStep (m : Mach) (th : Nat) : Mach :=
  match m.thr th with
  | none => m
  | some t =>
    let fails := fun (k : Mach → Mach) =>
      if !t.outW.isEmpty then m
      else match t.fails with
        | (a, c) :: _ => (m.setThr th { t with fails := [] }).trap th (if c = Trap.fmLost.code then .fmLost else .fmTimeout) a 2 0
        | [] => k m
    match t.hold with
    | some (.fence none) => fails fun m => m.next th t
    | some (.fence (some d)) => fails fun m => (m.setThr th { t with hold := some .rule }).fence d none (some th)
    | some .halt => fails fun m => m.haltEnd th t
    | _ => m

/-- THREAD_ACCESS_COMPLETE: the data or the result of the access that holds a thread has come, or writes of it have completed; ecc:
a DM read met an uncorrectable error. A thread of an old generation ends (R471). -/
def threadAccessComplete (th : Thr) (ecc : Bool) (m : Mach) : Mach :=
  let m := m.threadTake th
  match m.thr th with
  | none => m
  | some t =>
    if m.staleThread t then (if t.accessing && m.threadBusy th then m else m.endThread th)
    else match t.hold with
    | some (.ld false rd n a) =>
      if ecc || m.ddrBadAt (m.dmAt t a) n then m.trap th .ecc a 1 0 else m.next th (t.setReg rd (BitVec.ofNat 64 (Mem.read m.ddr (m.dmAt t a) n)))
    | some (.ld true rd n a) =>
      (match t.got with
      | x :: _ => (match x.trap, x.rsp with
        | some c, _ => m.trap th c a 2 0
        | none, .data v _ _ => m.next th (t.setReg rd (BitVec.ofNat 64 (lineGet v (a % 64) n)))
        | none, _ => m)
      | [] => m)
    | some (.fld false ls n far) =>
      if ecc || m.ddrBadAt (m.dmAt t far) n then m.trap th .ecc far 1 0
      else (m.setScratch th (Mem.blit (m.scratch th) (t.base + ls) n m.ddr (m.dmAt t far))).next th t
    | some (.fld true ls n far) =>
      if t.got.length < n / 64 then m
      else (match t.got.find? fun x => x.trap.isSome with
        | some x => m.trap th (x.trap.getD .fmPoison) x.addr 2 0
        | none =>
          let mem := t.got.foldl (fun (k : Mem) (x : AgentDone) => match x.rsp with
            | .data v _ _ => Mem.write k (t.base + ls + (x.addr - far)) 64 v
            | _ => k) (m.scratch th)
          (m.setScratch th mem).next th t)
    | some (.fat rd n a) =>
      (match t.got with
      | x :: _ => (match x.trap, x.rsp with
        | some c, _ => m.trap th c a 2 0
        | none, .data v _ _ =>
          let t := t.setReg rd (BitVec.ofNat 64 (v % 2 ^ (8 * min n 8)))
          m.next th (if n = 16 then t.setReg (rd + 1) (BitVec.ofNat 64 (v / 2 ^ 64)) else t)
        | none, _ => m)
      | [] => m)
    | _ => m.fenceStep th

def execThreadAccessComplete (th : Thr) (ecc : Bool) (s : State) : Res := act (threadAccessComplete th ecc) s

/-- The word of a FENCE of a KIND. -/
def fenceWord (kind : Nat) (rs : Fin 32) : Nat := 0x2C * 2 ^ 26 + kind * 2 ^ 24 + rs.val * 2 ^ 16

/-- FENCE.MEM (R500). -/
def fenceMemInstr (th : Thr) (rs : Fin 32) (m : Mach) : Mach :=
  m.instr th (fenceWord 0 rs) fun m t => (m.setThr th { t with hold := some (.fence none) }).fenceStep th

def execFenceMemInstr (th : Thr) (rs : Fin 32) (s : State) : Res := act (fenceMemInstr th rs) s

/-- The domain that a rule fence of a thread names; none: all of them. -/
def Thread.fenceDom (t : Thread) (rs : Nat) : Option Nat :=
  if !t.manager then some t.dom
  else if bit (t.reg rs).toNat 16 then none else some ((t.reg rs).toNat % 4096)

/-- CFENCE (R347, R500). -/
def cfence (th : Thr) (rs : Fin 32) (m : Mach) : Mach :=
  m.instr th (fenceWord 1 rs) fun m t => (m.setThr th { t with hold := some .rule }).fence (t.fenceDom rs) none (some th.val)

def execCfence (th : Thr) (rs : Fin 32) (s : State) : Res := act (cfence th rs) s

/-- FENCE.ALL (R500). -/
def fenceAllInstr (th : Thr) (rs : Fin 32) (m : Mach) : Mach :=
  m.instr th (fenceWord 2 rs) fun m t => (m.setThr th { t with hold := some (.fence (some (t.fenceDom rs))) }).fenceStep th

def execFenceAllInstr (th : Thr) (rs : Fin 32) (s : State) : Res := act (fenceAllInstr th rs) s

/-- HALT (R493). -/
def haltInstr (th : Thr) (m : Mach) : Mach :=
  m.instr th (0x3F * 2 ^ 26 + 1) fun m t => (m.setThr th { t with hold := some .halt }).fenceStep th

def execHalt (th : Thr) (s : State) : Res := act (haltInstr th) s

/-! ### Tables (R494) -/

/-- TWR. -/
def twrInstr (th : Thr) (rs rb : Fin 32) (imm : BitVec 16) (m : Mach) : Mach :=
  m.instr th (encI 0x21 rs rb imm.toNat) fun m t =>
    let a := (t.reg rb + imm.zeroExtend 64).toNat
    if !t.manager then m.trap th .priv 0 3 0
    else if a % 8 ≠ 0 then m.trap th .align a 3 0
    else if 0x80000 ≤ a then m.trap th .tbRange a 3 0
    else { m with tbl := Mem.write m.tbl a 8 (t.reg rs).toNat }.next th t

def execTwr (th : Thr) (rs rb : Fin 32) (imm : BitVec 16) (s : State) : Res := act (twrInstr th rs rb imm) s

/-! ### Queues (R495 to R497) -/

/-- The domain of a queue selector; none: outside the thread's reach. -/
def Mach.selDom (m : Mach) (t : Thread) (g : Word) : Option Nat :=
  let d := if t.manager then g.toNat / 2 ^ 16 % 4096 else t.dom
  if (m.dom d).state = .free then none else some d

/-- QPOST (R495): tail is what the read of the tail shadow returns, mem what those of the scan return. -/
def qpostInstr (th : Thr) (pd : Fin 8) (re rq : Fin 32) (tail : Option Nat) (mem : QMem) (m : Mach) : Mach :=
  m.instr th (encP 0x24 pd re (rq.val * 2 ^ 11)) fun m t =>
    let a := (t.reg re).toNat
    let id := (t.reg rq).toNat % 64
    match m.selDom t (t.reg rq) with
    | none => m.trap th .priv 0 0xFF 0
    | some d =>
      if a % 32 ≠ 0 then m.trap th .align a 0 0
      else if t.win < a + 4 then m.trap th .lsRange a 0 0
      else
        let dw := m.word th t a
        let len := dw / 2 ^ 24 % 16
        let no := fun (m : Mach) => m.next th (t.setPr pd false)
        match m.sq d id with
        | none => no m
        | some q =>
          if q.error || len = 0 || len > 8 then no m
          else if t.win < a + 32 * len then m.trap th .lsRange a 0 0
          else match tail with
            | none => no (m.sqStop d id 29 q.fetch none)
            | some tl =>
              let pos := tl % q.size
              let pad := if q.size < pos + len then q.size - pos else 0
              if q.size < u32sub (tl + pad + len) q.head then no m
              else
                let m := m.coreCount th 3 1
                let m := if pad = 0 then m else m.qWrite d (q.at tl) (leBytes 4 (2 ^ 31 + pad * 2 ^ 24 + 2 ^ 16))
                let tl := u32 (tl + pad)
                let m := m.qWrite d (q.at tl + 4) (Mem.readBytes (m.scratch th) (t.base + a + 4) (32 * len - 4))
                let m := m.qWrite d (q.at tl) (leBytes 4 (dw % 2 ^ 31 + 2 ^ 31))
                let m := m.qWrite d q.tailSh (leBytes 4 (u32 (tl + len)))
                (m.tailBell d id mem).next th (t.setPr pd true)

def execQpost (th : Thr) (pd : Fin 8) (re rq : Fin 32) (tail : Option Nat) (mem : QMem) (s : State) : Res := act (qpostInstr th pd re rq tail mem) s

/-- QFETCH (R496): head and ent are what the reads of the head shadow and of the ring return. -/
def qfetchInstr (th : Thr) (pd : Fin 8) (rd rq : Fin 32) (head : Option Nat) (ent : Option (BitVec 128)) (m : Mach) : Mach :=
  m.instr th (encP 0x25 pd rd (rq.val * 2 ^ 11)) fun m t =>
    let id := (t.reg rq).toNat % 64
    if rd.val = 31 then m.trap th .illegal 0 0xFF 0
    else match m.selDom t (t.reg rq) with
    | none => m.trap th .priv 0 0xFF 0
    | some d =>
      let t := { t with watch := some (d * 64 + id) }
      let no := fun (m : Mach) => m.next th (t.setPr pd false)
      match m.cqOf d id with
      | none => no m
      | some c => match head with
        | none => no (m.cqHead d id none)
        | some h =>
          if c.idx = u32 h then no (m.cqHead d id (some h))
          else match ent with
            | none => no (m.cqHead d id none)
            | some e =>
              let m := (m.qWrite d c.headSh (leBytes 4 (u32 (h + 1)))).headBell d id (some (h + 1))
              m.next th (((t.setReg rd (e.truncate 64)).setReg (rd + 1) ((e >>> 64).truncate 64)).setPr pd true)

def execQfetch (th : Thr) (pd : Fin 8) (rd rq : Fin 32) (head : Option Nat) (ent : Option (BitVec 128)) (s : State) : Res :=
  act (qfetchInstr th pd rd rq head ent) s

/-- A DBELL of a KIND on the queue that it selects. -/
def Mach.dbell (m : Mach) (th : Thr) (rq rv : Fin 32) (kind : Nat) (f : Mach → Thread → Nat → Nat → Mach) : Mach :=
  m.instr th (encI 0x26 rv rq kind) fun m t =>
    match m.selDom t (t.reg rq) with
    | none => m.trap th .priv 0 0xFF 0
    | some d => f m t d ((t.reg rq).toNat % 64)

/-- DBELL of an SQ tail. -/
def execDbellSqTail (th : Thr) (rq rv : Fin 32) (mem : QMem) (s : State) : Res :=
  act (fun m => m.dbell th rq rv 0 fun m t d q => (m.tailBell d q mem).next th t) s

/-- DBELL of a CQ head. -/
def execDbellCqHead (th : Thr) (rq rv : Fin 32) (head : Option Nat) (s : State) : Res :=
  act (fun m => m.dbell th rq rv 1 fun m t d c => (m.headBell d c head).next th t) s

/-- DBELL of an invalidate: R goes to g[RV] and to WQ_INVAL_RESULT. -/
def dbellInvalidate (th : Thr) (rq rv : Fin 32) (mem : QMem) (m : Mach) : Mach :=
  m.dbell th rq rv 2 fun m t d q =>
    if (m.sq d q).isNone then m.next th t
    else
      let (m, r) := m.invalidate d q ((t.reg rv).toNat % 2 ^ 32) mem
      (m.updQif d fun x => { x with inval := r }).next th (t.setReg rv (BitVec.ofNat 64 r))

def execDbellInvalidate (th : Thr) (rq rv : Fin 32) (mem : QMem) (s : State) : Res := act (dbellInvalidate th rq rv mem) s

/-! ### Events (R466, R492, R628) -/

/-- Events pending for a thread, as bits of a mask. -/
def Mach.pendingEvents (m : Mach) (t : Thread) : Nat :=
  let cq := match t.watch with
    | some w => (match m.cqOf (w / 64) (w % 64) with | some c => c.idx != c.head | none => false)
    | none => false
  (if t.inbox.isEmpty then 0 else 1) + (if m.timerLeft t = 0 then 2 else 0) + (if cq then 4 else 0) + (if t.pps then 8 else 0) +
  (if m.irqStatus &&& m.rd GLB_IRQ_SEQ_EN_SEQ_EN ≠ 0 then 16 else 0)

/-- A waiting thread goes on where an event of its mask is pending. -/
def Mach.waitStep (m : Mach) (th : Nat) : Mach :=
  match m.thr th with
  | none => m
  | some t => match t.hold with
    | some (.wait mask rd) =>
      let e := m.pendingEvents t &&& mask
      if e = 0 then m else m.next th { t.setReg rd (BitVec.ofNat 64 e) with pps := if bit e 3 then false else t.pps }
    | _ => m

/-- WAIT (R492). -/
def waitInstr (th : Thr) (rd : Fin 32) (mask : BitVec 8) (m : Mach) : Mach :=
  m.instr th (encI 0x2D rd 0 mask.toNat) fun m t =>
    let k := mask.toNat
    if k = 0 ∨ k ≥ 32 then m.trap th .illegal 0 0xFF 0
    else if !t.manager ∧ k ≥ 8 then m.trap th .priv 0 0xFF 0
    else (m.setThr th { t with hold := some (.wait k rd) }).waitStep th

def execWait (th : Thr) (rd : Fin 32) (mask : BitVec 8) (s : State) : Res := act (waitInstr th rd mask) s

/-- WAIT_RETURN (R492). -/
def waitReturn (th : Thr) (m : Mach) : Mach :=
  match m.thr th with
  | some t => if m.staleThread t then m.endThread th else m.waitStep th
  | none => m

def execWaitReturn (th : Thr) (s : State) : Res := act (waitReturn th) s

/-! ### Messages and time (R467, R501, R502) -/

/-- SEND. -/
def sendInstr (th : Thr) (pd : Fin 8) (rt ra rb : Fin 32) (m : Mach) : Mach :=
  m.instr th (encP 0x2E pd rt (ra.val * 2 ^ 11 + rb.val * 2 ^ 6)) fun m t =>
    let x := (t.reg rt).toNat
    if (if t.manager then 256 ≤ x else 64 ≤ x) then m.trap th .msg 0 0xFF 0
    else
      let goal := if t.manager then (if (m.thr x).any fun u => u.running then some x else none)
        else (m.threads.find? fun (e : Nat × Thread) => !e.2.manager && e.2.dom == t.dom && e.2.local_ == x && e.2.running).map fun e => e.1
      let msg : BMsg := { a := t.reg ra, b := t.reg rb, sender := if t.manager then th.val else t.local_, mgr := t.manager }
      match goal with
      | none => m.next th (t.setPr pd false)
      | some k =>
        let room := (m.thr k).any fun u => u.inbox.length < 8
        let m := m.next th (t.setPr pd room)
        if room then m.updThr k fun u => { u with inbox := u.inbox ++ [msg] } else m

def execSend (th : Thr) (pd : Fin 8) (rt ra rb : Fin 32) (s : State) : Res := act (sendInstr th pd rt ra rb) s

/-- RECV; RD above 29 is a reserved encoding. -/
def recvInstr (th : Thr) (pd : Fin 8) (rd : Fin 32) (m : Mach) : Mach :=
  m.instr th (encP 0x2E pd rd 1) fun m t =>
    if 29 < rd.val then m.trap th .illegal 0 0xFF 0
    else match t.inbox with
      | [] => m.next th (t.setPr pd false)
      | x :: rest =>
        let t := { t with inbox := rest }
        let who := BitVec.ofNat 64 (x.sender % 256 + (if x.mgr then 256 else 0))
        m.next th ((((t.setReg rd x.a).setReg (rd + 1) x.b).setReg (rd + 2) who).setPr pd true)

def execRecv (th : Thr) (pd : Fin 8) (rd : Fin 32) (s : State) : Res := act (recvInstr th pd rd) s

/-- TBR; with F, RD 31 is a reserved encoding. -/
def tbrInstr (th : Thr) (rd : Fin 32) (f : Bool) (m : Mach) : Mach :=
  m.instr th (encI 0x2F rd 0 (if f then 1 else 0)) fun m t =>
    if f && rd.val == 31 then m.trap th .illegal 0 0xFF 0
    else
      let t := t.setReg rd (BitVec.ofNat 64 m.tbNs)
      m.next th (if f then t.setReg (rd + 1) (BitVec.ofNat 64 (m.tb / 2 ^ 16 % 2 ^ 16)) else t)

def execTbr (th : Thr) (rd : Fin 32) (f : Bool) (s : State) : Res := act (tbrInstr th rd f) s

end Sys2Proof.Machine
end

