-- ==== Sys2Proof/Machine/Route.lean ====
section
/-! DEFINITION. Sys2Proof/Machine/Route.lean: the route-only instructions, route programs and their slots, and the sequencer's
registers (R445, R453 to R465, R494, R503, R622). -/
namespace Sys2Proof.Machine

/-! ### Route-only instructions (R458 to R462, R503) -/

/-- LKP (R462, R494): a fault reads 0 and is counted. -/
def lkpInstr (p : Port) (rd rs : Fin 32) (imm : BitVec 16) (m : Mach) : Mach :=
  let w := encI 0x20 rd rs imm.toNat
  match SMap.get [] m.pipes p with
  | x :: _ =>
    if (x.prog[x.pc]?).map BitVec.toNat = some w then
      let a := (m.pipeSrc p x rs + imm.zeroExtend 64).toNat
      let ok := a % 8 == 0 && a < 0x80000
      let v := if ok then BitVec.ofNat 64 (Mem.read m.tbl a 8) else 0
      let m := m.pipeInstr p w fun x => { x.setReg rd v with pc := x.pc + 1 }
      if ok then m else (m.count (CNT_TILE (tileOf p) 105) 1).raise SEQ_EVENT_ROUTE_FAULT
    else m
  | [] => m

def execLkp (p : Port) (rd rs : Fin 32) (imm : BitVec 16) (s : State) : Res := act (lkpInstr p rd rs imm) s

/-- XLATE (R344, R458): the check, at the epoch in force. -/
def xlateInstr (p : Port) (rd : Fin 32) (m : Mach) : Mach :=
  m.pipeInstr p (encI 0x31 rd 0 0) fun x =>
    let v := m.verdict x.req x.dom (privOf x.dom)
    let d := x.dom.getD 0
    let cas := m.casAt d x.req.addr
    let (dpa, coh) := match v with | .allow y => (y.dpa, y.coh.getD 0) | .refuse _ _ _ => (0, 0)
    let x := ((x.setReg rd (BitVec.ofNat 64 (v.word cas.isNone (match cas with | some c => c.1 | none => 0xFF)))).setReg (rd + 1)
      (BitVec.ofNat 64 dpa)).setReg (rd + 2) (BitVec.ofNat 64 coh)
    { x with xl := some v, epoch := (m.dom d).ruleEpoch, pc := x.pc + 1 }

def execXlate (p : Port) (rd : Fin 32) (s : State) : Res := act (xlateInstr p rd) s

/-- HDR DST_PBR. -/
def execHdrDstPbr (p : Port) (rs : Fin 32) (s : State) : Res :=
  act (fun m => m.pipeInstr p (encI 0x32 0 rs 0) fun x => { x with pbr := some ((m.pipeSrc p x rs).toNat % 4096), pc := x.pc + 1 }) s

/-- HDR NOSPEC: the later of two stands. -/
def execHdrNospec (p : Port) (rs : Fin 32) (s : State) : Res :=
  act (fun m => m.pipeInstr p (encI 0x32 1 rs 0) fun x => { x with nospec := m.pipeSrc p x rs != 0, pc := x.pc + 1 }) s

/-- HDR SCAVENGER. -/
def execHdrScavenger (p : Port) (rs : Fin 32) (s : State) : Res :=
  act (fun m => m.pipeInstr p (encI 0x32 2 rs 0) fun x => { x with scav := m.pipeSrc p x rs != 0, pc := x.pc + 1 }) s

/-- Requests of slot 0 at the head of a pipe run the default program. -/
def Mach.pipeDrain (m : Mach) (p : Nat) : Nat → Mach
  | 0 => m
  | fuel + 1 =>
    match SMap.get [] m.pipes p with
    | x :: rest => if x.prog.isEmpty then ({ m with pipes := SMap.set [] m.pipes p rest }.routeDefault x.req x.dom).pipeDrain p fuel else m
    | [] => m

/-- ROUTE (R459, R460): the request leaves its pipe. -/
def routeInstr (p : Port) (rs : Fin 32) (m : Mach) : Mach :=
  match SMap.get [] m.pipes p with
  | x :: rest =>
    if (x.prog[x.pc]?).map BitVec.toNat = some (encI 0x30 0 rs 0) then
      let w := (m.pipeSrc p x rs).toNat
      let m := { m with pipes := SMap.set [] m.pipes p rest }
      let m := m.routed { x.req with pbr := x.pbr } x.dom x.xl { port := w % 1024, tc := w / 2 ^ 10 % 8, action := w / 2 ^ 13 % 4 } x.req.pbr
        x.nospec x.scav 0 (if x.xl.isSome then some x.epoch else none)
      m.pipeDrain p rest.length
    else m
  | [] => m

def execRoute (p : Port) (rs : Fin 32) (s : State) : Res := act (routeInstr p rs) s

/-! ### Valid programs (R455) -/

/-- A legal instruction of a route program that writes what it may (R455, R478, R503). -/
def routeLegal (w : Nat) : Bool :=
  let op := wbits w 26 6
  let rd := wbits w 21 5
  if op ≤ 7 then threadLegal w && rd != 0
  else if op = 8 ∨ op = 9 ∨ op = 0x18 then threadLegal w
  else if op = 0x20 then rd != 0
  else if op = 0x30 then rd == 0 && wbits w 0 16 == 0
  else if op = 0x31 then wbits w 0 21 == 0 && 1 ≤ rd && rd ≤ 29
  else if op = 0x32 then rd ≤ 2 && wbits w 0 16 == 0
  else if op = 0x3F then wbits w 0 26 == 0
  else false

/-- STATUS of SEQ_RP_CMD for a program; 0: it is valid. -/
def routeCheck (prog : List Nat) : Nat :=
  let n := prog.length
  let ops := prog.map fun w => wbits w 26 6
  let count := fun k => (ops.filter (· == k)).length
  if n = 0 ∨ 24 < n then 3
  else if count 0x30 ≠ 1 ∨ ops.getLast? ≠ some 0x30 then 4
  else if count 0x20 > 1 ∨ count 0x31 > 1 ∨ count 0x32 > 3 then 5
  else if (List.range n).any fun i =>
      let w := prog.getD i 0
      let off := wbits w 0 20
      wbits w 26 6 == 0x18 && (off == 0 || 2 ^ 19 ≤ off || n ≤ i + off) then 6
  else if prog.all routeLegal then 0
  else 7

/-! ### Program slots (R463) -/

/-- The slot that a port runs. -/
def Mach.rpSel (m : Mach) (p : Nat) : Nat := m.rd (SEQ_RP_SEL_SLOT (p / 8)) / 2 ^ (4 * (p % 8)) % 8

/-- Some port selects a slot. -/
def Mach.rpSelected (m : Mach) (slot : Nat) : Bool := (List.range 1024).any fun p => m.rpSel p == slot

/-- SEQ_RP_CMD as a load or clear leaves it. -/
def Mach.rpDone (m : Mach) (slot len st : Nat) : Mach :=
  ((m.wr SEQ_RP_CMD_SLOT slot).wr SEQ_RP_CMD_LEN len).wr SEQ_RP_CMD_STATUS st

/-- SEQ_RP_LOAD: ignored in TF-256 mode. -/
def seqRpLoad (slot : Fin 8) (len : Fin 32) (l : ModeLatch) (m : Mach) : Mach :=
  if l.tf then m
  else
    let prog := (List.range len.val).map fun i => m.rd (SEQ_RP_BUF_INSTR i)
    let st := if slot.val = 0 then 2 else if m.rpSelected slot then 1 else if len.val = 0 ∨ 24 < len.val then 3 else routeCheck prog
    let m := m.rpDone slot len st
    if st = 0 then { m with rp := SMap.ins m.rp slot (prog.map (BitVec.ofNat 32)) } else m

def execSeqRpLoad (slot : Fin 8) (len : Fin 32) (s : State) : Res := actL (seqRpLoad slot len) s

/-- SEQ_RP_CLEAR: slot 0 and a selected slot are kept (assumption log 29). -/
def seqRpClear (slot : Fin 8) (len : Fin 32) (l : ModeLatch) (m : Mach) : Mach :=
  if l.tf then m
  else
    let st := if slot.val = 0 then 2 else if m.rpSelected slot then 1 else 0
    let m := m.rpDone slot len st
    if st = 0 then { m with rp := SMap.del m.rp slot } else m

def execSeqRpClear (slot : Fin 8) (len : Fin 32) (s : State) : Res := actL (seqRpClear slot len) s

/-- SEQ_RP_SEL_WRITE: ports 8i to 8i + 7; ignored in TF-256 mode. A selection of an empty slot refuses the whole write
(R463, R621). -/
def seqRpSelWrite (i : Fin 128) (v : BitVec 32) (l : ModeLatch) (m : Mach) : Mach :=
  let slots := (List.range 8).map fun k => v.toNat / 2 ^ (4 * k) % 8
  if l.tf then m
  else if slots.any fun n => n != 0 && (SMap.find m.rp n).isNone then m.raise SEQ_EVENT_RP_REFUSED
  else m.wr (SEQ_RP_SEL_SLOT i) (v.toNat &&& 0x77777777)

def execSeqRpSelWrite (i : Fin 128) (v : BitVec 32) (s : State) : Res := actL (seqRpSelWrite i v) s

/-! ### Registers (R445, R453, R476, R622) -/

/-- SEQ_DOM_DM_WRITE (R453), on the domain that SEQ_DOM_SEL selects. -/
def seqDomDmWrite (v : BitVec 64) (m : Mach) : Mach :=
  let d := m.rd SEQ_DOM_SEL_DOMAIN
  let base := v.toNat / 2 ^ 20 % 2 ^ 20
  let size := v.toNat / 2 ^ 40 % 2 ^ 12
  if m.domThreads d > 0 || (d == 0 && size != 0) || m.sliceBad d base size then m.raise SEQ_EVENT_DM_REFUSED
  else m.updSeqd d fun s => { s with base := base, size := size }

def execSeqDomDmWrite (v : BitVec 64) (s : State) : Res := act (seqDomDmWrite v) s

/-- SEQ_CORE_MODE_WRITE (R445): a core takes threads of the new kind once its own have ended (Mach.coreTakes). -/
def seqCoreModeWrite (v : BitVec 32) (m : Mach) : Mach := m.wr SEQ_CORE_MODE_TENANT (v.toNat / 4)

def execSeqCoreModeWrite (v : BitVec 32) (s : State) : Res := act (seqCoreModeWrite v) s

/-- SEQ_CTRL_LOCK, a write of SEQ_CTRL (R473, R622): a locked LOCKSTEP stays, and a write that would change it sets LOCKED; LOCK
locks after the write's own value has been taken. -/
def seqCtrlLock (v : BitVec 32) (m : Mach) : Mach :=
  let b := v.toNat % 2
  let m := if m.flag SEQ_CTRL_LOCK then
      (if b = m.rd SEQ_CTRL_LOCKSTEP then m else (m.raise GLB_ACC_EVENT_LOCKED).wr GLB_ACC_ADDR_OFFSET SEQ_CTRL)
    else m.wr SEQ_CTRL_LOCKSTEP b
  if bit v.toNat 1 then m.raise SEQ_CTRL_LOCK else m

def execSeqCtrlLock (v : BitVec 32) (s : State) : Res := act (seqCtrlLock v) s

end Sys2Proof.Machine
end

