-- ==== Sys2Proof/Machine/Time.lean ====
section
/-! DEFINITION. Sys2Proof/Machine/Time.lean: the timebase, its alignment to PPS_IN, and the fallback counters (18). -/
namespace Sys2Proof.Machine

/-! ### The accumulator (R519, R520) -/

/-- The rate in use: `TB_RATE`, where a value outside ±2,147,483 acts as the nearer limit (R520). -/
def Mach.tbRate (m : Mach) : Int := max (-2147483) (min 2147483 (sext (m.rd TB_RATE_RATE) 32))

/-- One TB cycle: the accumulator counts 1 ns and the rate (R519). -/
def Mach.tick (m : Mach) : Mach :=
  let d := (2 ^ 32 + m.tbRate).toNat
  { m with tb := (m.tb + d) % 2 ^ 96, ppsAge := m.ppsAge + d, now := m.now + 1 }

/-- The timebase takes a value (R525): a sampling instant that is skipped is taken in this cycle. -/
def Mach.tbSet (m : Mach) (ns frac : Nat) : Mach :=
  let old := m.tbNs
  let m := { m with tb := (ns % 2 ^ 64) * 2 ^ 32 + frac }
  m.smp.foldl (fun (m : Mach) (x : Nat × Sampler) =>
    let last := m.tbNs / x.2.period * x.2.period
    if old < last && x.2.due last then m.takeSample x.1 x.2 last else m) m

/-- The timebase with a signed number of nanoseconds added. -/
def Mach.tbAdd (m : Mach) (d : Int) (frac : Nat) : Mach := m.tbSet ((m.tbNs + d) % 2 ^ 64).toNat frac

/-- TB_LOAD (R521). -/
def tbLoad (m : Mach) : Mach := m.tbSet (m.rd TB_SET_VALUE) 0

def execTbLoad (s : State) : Res := act tbLoad s

/-- TB_STEP (R521): the fraction stays. -/
def tbStep (m : Mach) : Mach := m.tbAdd (sext (m.rd TB_SET_VALUE) 64) (m.tb % 2 ^ 32)

def execTbStep (s : State) : Res := act tbStep s

/-- TB_RATE_WRITE (R520): ignored while CLKIN_EN is 1. -/
def tbRateWrite (v : BitVec 32) (m : Mach) : Mach :=
  if m.flag TB_CTRL_CLKIN_EN then m else m.wr TB_RATE_RATE v.toNat

def execTbRateWrite (v : BitVec 32) (s : State) : Res := act (tbRateWrite v) s

/-- CLKIN_MEASUREMENT (R520): the rate with which 100,000 measured periods count 10 ms is in use, and `TB_RATE` reads it. -/
def clkinMeasurement (rate : Int) (m : Mach) : Mach :=
  if m.flag TB_CTRL_CLKIN_EN then m.wr TB_RATE_RATE ((max (-2147483) (min 2147483 rate)) % 2 ^ 32).toNat else m

def execClkinMeasurement (rate : Int) (s : State) : Res := act (clkinMeasurement rate) s

/-! ### PPS (R522 to R524) -/

/-- The offset of a capture from the nearest multiple of 10^9, in (−5 × 10^8, 5 × 10^8] (R522). -/
def ppsOffset (ns : Nat) : Int :=
  let r := ns % 1000000000
  if r ≤ 500000000 then r else (r : Int) - 1000000000

/-- PPS_EDGE (R522 to R524). An edge is accepted unless it comes less than 5 × 10^8 ns after the last accepted one; writing
says that a LOAD or STEP takes effect in the TB cycle of the capture. -/
def ppsEdge (writing : Bool) (m : Mach) : Mach :=
  if !m.flag TB_CTRL_PPS_EN then m
  else if m.ppsSeen && m.ppsAge < 500000000 * 2 ^ 32 then m.raise TB_EVENT_PPS_EARLY
  else
    let e := ppsOffset m.tbNs
    let m := (m.wr TB_PPS_CAPT_VALUE m.tbNs).wr TB_PPS_OFFSET_VALUE (e % 2 ^ 64).toNat
    let m := { m with ppsAge := 0, ppsSeen := true, ppsLost := false,
                      threads := m.threads.map fun (x : Nat × Thread) => (x.1, { x.2 with pps := true }) }
    let m := m.addSat TB_PPS_STATUS_EDGES 1
    if writing then m
    else if e.natAbs ≤ min 1000000 (m.rd TB_WINDOW_WINDOW) then
      ((m.tbAdd (-e) 0).wr TB_PPS_STATUS_LOCKED 1).raise TB_EVENT_PPS_SNAP
    else
      let m := (m.wr TB_PPS_STATUS_LOCKED 0).raise TB_EVENT_PPS_FAR
      if m.flag TB_CTRL_PPS_FORCE then m.tbAdd (-e) (m.tb % 2 ^ 32) else m

def execPpsEdge (writing : Bool) (s : State) : Res := act (ppsEdge writing) s

/-- PPS_LOSS (R524): 1.5 × 10^9 ns without an accepted edge; raised once until the next one. -/
def ppsLoss (m : Mach) : Mach :=
  if m.ppsLost then m else ({ m with ppsLost := true }.wr TB_PPS_STATUS_LOCKED 0).raise TB_EVENT_PPS_LOSS

def execPpsLoss (s : State) : Res := act ppsLoss s

/-! ### Fallback counters (R516 to R518) -/

/-- FALLBACK_COUNTER_WRITE (R518): counter n of a core, or its cycle counter (n = 8), ends at the written value plus the count k of
that SEQ cycle, which is nothing while the core's counters are frozen. -/
def fallbackCounterWrite (c : Fin 32) (n : Fin 9) (v : Word) (k : Nat) (m : Mach) : Mach :=
  let k := if m.flag (CNT_FB_CTRL_FREEZE c) then 0 else k
  if n.val < 8 then (m.wr (CNT_FB_CNT_COUNT c n) v.toNat).fbAdd c n k
  else m.wr (CNT_FB_CYCLE_CYCLES c) (v.toNat + (if m.flag (CNT_FB_CTRL_CYC_EN c) then k else 0))

def execFallbackCounterWrite (c : Fin 32) (n : Fin 9) (v : Word) (k : Nat) (s : State) : Res := act (fallbackCounterWrite c n v k) s

end Sys2Proof.Machine
end

