-- ==== Sys2Proof/Machine/Reset.lean ====
section
/-! DEFINITION. Sys2Proof/Machine/Reset.lean: what the resets keep and lose (R87 to R100), the boot flash as R77 to R81 read it, and
what the staged start loads. -/
namespace Sys2Proof.Machine

/-! ### The boot flash (R76 to R81) -/

/-- The copy in force of a pair (R77): the valid one of higher SEQ, copy 0 on a tie; none where neither is valid. -/
def newest (v0 v1 : Bool) (s0 s1 : Nat) : Option Bool :=
  match v0, v1 with
  | true, true => some (s0 < s1)
  | true, false => some false
  | false, true => some true
  | false, false => none

def PtrRec.valid (r : PtrRec) : Bool := r.magicOk && r.crcOk && r.active ≤ 1

/-- The slot that the pointer names (R77): false A, true B. -/
def Flash.pointed (f : Flash) : Option Bool :=
  (newest f.ptr0.valid f.ptr1.valid f.ptr0.seq f.ptr1.seq).map fun c => (if c then f.ptr1 else f.ptr0).active == 1

/-- Rewrite the pointer copy that is not in use, SEQ one higher (R77). -/
def Flash.writePtr (f : Flash) (slot : Bool) : Flash :=
  let r := fun (s : Nat) => ({ magicOk := true, crcOk := true, seq := (s + 1) % 2 ^ 32, active := if slot then 1 else 0 } : PtrRec)
  match newest f.ptr0.valid f.ptr1.valid f.ptr0.seq f.ptr1.seq with
  | some false => { f with ptr1 := r f.ptr0.seq }
  | some true => { f with ptr0 := r f.ptr1.seq }
  | none => { f with ptr0 := r 0 }

def Policy.valid (p : Policy) : Bool := p.magicOk && p.crcOk

/-- The policy block in force (R77); where no copy is valid, one that holds nothing. -/
def Flash.policy (f : Flash) : Policy :=
  match newest f.pol0.valid f.pol1.valid f.pol0.seq f.pol1.seq with
  | some false => f.pol0
  | some true => f.pol1
  | none => {}

/-- Write a policy block (R77, R98). -/
def Flash.writePolicy (f : Flash) (p : Policy) : Flash :=
  let r := fun (s : Nat) => ({ p with magicOk := true, crcOk := true, seq := (s + 1) % 2 ^ 32 } : Policy)
  match newest f.pol0.valid f.pol1.valid f.pol0.seq f.pol1.seq with
  | some false => { f with pol1 := r f.pol0.seq }
  | some true => { f with pol0 := r f.pol1.seq }
  | none => { f with pol0 := r 0 }

def Flash.slot (f : Flash) (s : Bool) : Image := if s then f.slotB else f.slotA
def Flash.setSlot (f : Flash) (s : Bool) (im : Image) : Flash := if s then { f with slotB := im } else { f with slotA := im }

/-- The key hash of a fuse slot. -/
def Fuses.key (f : Fuses) (i : Nat) : Nat := [f.key0, f.key1, f.key2, f.key3].getD i 0

/-- The header checks of R79 and R7, and the loader's digest (R68). -/
def Image.verifies (im : Image) (f : Fuses) : Bool :=
  im.magicOk && im.hdrVersion == 1 && im.sectionCount != 0 && im.sectionCount ≤ im.sections.length &&
  (im.mode == 0 || (im.mode == 1 && 1 ≤ im.personalities && im.personalities ≤ 4)) &&
  im.keyIndex ≤ 3 && im.keyHash == f.key im.keyIndex && im.keyHash != 0 && !bit f.revoke im.keyIndex && im.sigOk && f.minSec ≤ im.secVersion &&
  match im.sections with | l :: _ => l.digestOk | [] => false

/-! ### What the policy block gives (R554, R198, 06) -/

/-- Stage W (R554, R612): the slot-power, ORing and identity registers; ORing takes its mode. -/
def Mach.loadPolicyWicket (m : Mach) (p : Policy) : Mach :=
  let m := (p.regs.filter fun (e : Nat × Word) => (0x100000 ≤ e.1 && e.1 < 0x200000) || (0x8010 ≤ e.1 && e.1 < 0x8030)).foldl
    (fun (m : Mach) (e : Nat × Word) => m.setReg e.1 e.2) m
  m.feedSet

/-- Stage C (06): the manager firmware writes the port map and the port controls before lanes train. -/
def Mach.loadPolicyStageC (m : Mach) (p : Policy) : Mach :=
  (p.regs.filter fun (e : Nat × Word) => 0x1000000 ≤ e.1 && e.1 < 0x2200000).foldl (fun (m : Mach) (e : Nat × Word) => m.setReg e.1 e.2) m

/-- The channels that the policy block turns on in stage W begin to wait together (R67, R546). -/
def Mach.startPolicyChannels (m : Mach) (p : Policy) : Mach :=
  (List.range 72).foldl (fun (m : Mach) c => if bit p.chanMask c then m.spcOn c else m) m

/-- PORT_PERST_N at stage F (R195, R197, R198): released for downstream ports that are powered, or have no slot; a tile without a
downstream port takes the policy block's state. -/
def Mach.releasePerst (m : Mach) : Mach :=
  let m := (m.allPorts.filter m.isDown).foldl (fun (m : Mach) p => if m.slotGood p then m.perstHigh p else m) m
  (List.range 64).foldl (fun (m : Mach) t =>
    if (m.tilePorts t).any m.isDown then m
    else { m with pins := { m.pins with portPerstN := BitVec.ofNat 64 (withBit m.pins.portPerstN.toNat t (!bit m.boot.policy.perstLow.toNat t)) } }) m

/-- Privet at stage F (R75, R294): the summary is rebuilt after a core reset. -/
def Mach.privetStageF (m : Mach) : Mach := if m.boot.cold then m else ({ m with rebuilding := false }).rebuild

/-! ### Causes, rails -/

/-- A reset records its cause (R99). -/
def Mach.recordCause (m : Mach) (c : Nat) : Mach :=
  (m.wr WKT_BOOT_STATUS_PREV_RESET (m.rd WKT_BOOT_STATUS_LAST_RESET)).wr WKT_BOOT_STATUS_LAST_RESET c

/-- The switch takes core resets in stages C and F (R95). -/
def Mach.takesCore (m : Mach) : Bool := m.rd WKT_BOOT_STATUS_STAGE == 2 || m.rd WKT_BOOT_STATUS_STAGE == 3

/-- Deassert the next enable, in the order VLANE_EN, VDDQ_EN, VCORE_EN (R43). -/
def Mach.dropNext (m : Mach) : Mach :=
  if m.boot.dropVlane then
    { m with boot := { m.boot with dropVlane := false }, pins := { m.pins with vlaneEn := false } }
  else if m.boot.dropVddq then
    { m with boot := { m.boot with dropVddq := false }, pins := { m.pins with vddqEn := false } }
  else if m.boot.dropVcore then
    { m with boot := { m.boot with dropVcore := false }, pins := { m.pins with vcoreEn := false } }
  else m

/-- Begin to deassert enables: the first falls at once, each further one 100 µs after the one before (R43). -/
def Mach.startDrop (m : Mach) (vlane vddq vcore : Bool) : Mach :=
  let b := { m.boot with dropVlane := m.boot.dropVlane || (vlane && m.pins.vlaneEn), dropVddq := m.boot.dropVddq || (vddq && m.pins.vddqEn),
                         dropVcore := m.boot.dropVcore || (vcore && m.pins.vcoreEn) }
  ({ m with boot := b }).dropNext

/-! ### Loss of local DDR5 (R45, R86, R92, R296) -/

/-- Local DDR5 contents are lost: Privet's state there (R296), the domains, Casements and queue contexts that it held; a freed record
keeps its generation (R348). -/
def Mach.loseDdr (m : Mach) : Mach :=
  let doms := m.doms.map fun (x : Nat × DomRec) =>
    if x.1 = 0 then (x.1, { state := DomState.active, kind := DomKind.d0, gen := x.2.gen }) else (x.1, ({ gen := x.2.gen } : DomRec))
  let m := { m with ddr := [], doms := doms.filter fun (x : Nat × DomRec) => x.2 != ({} : DomRec), domPort := [], domFabric := [], changes := [], fences := [],
                    ddrBad := [], sqs := [], cqs := [], qifs := [], frozen := [], hinges := [], lvr := [], selfRefresh := false }
  m.stateLost

/-! ### Flushes -/

/-- Every tracker entry that f names is flushed as at a port-down (R89, R100): requests outstanding at devices end there; what is
still not answered is answered; private entries are freed. -/
def Mach.flushEntries (m : Mach) (f : Nat → Bool) : Mach :=
  let keys := (m.trk.map fun (x : Nat × Trk) => x.1).filter f
  keys.foldl (fun (m : Mach) key =>
    match m.entry key with
    | none => m
    | some e =>
      let m := e.outs.foldl (fun (m : Mach) p => m.flushEntry p key) m
      match m.entry key with
      | none => m
      | some e =>
        if e.x.coh.isSome then m.answer key (e.req.failRsp .ur) .lost none
        else if e.outs.isEmpty && !e.answered then m.endLost key e e.x.port
        else m) m

/-- A line's entry that is in neither tier goes to tier 2; the flows of requests end with their entries (R89). -/
def Mach.dropFlows (m : Mach) : Mach :=
  let held := m.lines.filterMap fun (x : Nat × Line) => if x.2.by_ = .evict then none else x.2.held
  let m := { m with lines := (m.lines.filter fun (x : Nat × Line) => x.2.by_ == .evict).map fun (x : Nat × Line) => (x.1, { x.2 with queue := [] }),
                    busyWait := [] }
  held.foldl (fun (m : Mach) e => (m.spill e).getD m) m

/-- The flush of R89 step 2. -/
def Mach.flushAllTrackers (m : Mach) : Mach :=
  let m := m.flushEntries fun _ => true
  ({ m with trk := [], trkWait := [], tags := [], mirWait := [], pipes := [] }).dropFlows

/-- No request is in the switch (R89, R562). -/
def Mach.trackerEmpty (m : Mach) : Bool := m.trk.isEmpty && m.trkWait.isEmpty && m.pipes.isEmpty

/-- Tier 1 spills into tier 2 (R89 step 3, R260): an entry that has to wait for an eviction flow stays for the next go. -/
def Mach.spillTier1 (m : Mach) : Mach :=
  m.t1.foldl (fun (m : Mach) (x : Nat × PvtEnt) =>
    match m.spill x.2 with
    | some m' => { m' with t1 := SMap.del m'.t1 x.1 }
    | none => m) m

/-- Tier 1 is empty and no eviction flow runs. -/
def Mach.tier1Out (m : Mach) : Bool := m.t1.isEmpty && m.lines.isEmpty

/-! ### The core reset (R89 to R95) -/

/-- A merged record of corrected errors is written (R589). -/
def Mach.mergedOut (m : Mach) (g : Merging) : Mach :=
  let (m, _) := m.journal g.e g.time g.gen g.count
  { m with merging := m.merging.filter fun x => x != g }

/-- Registers that a core reset returns to their reset values: those outside the blocks and lists that 02 to 23 keep. -/
def coreResetReg (off : Nat) : Bool :=
  if off < 0x200000 then 0x2000 ≤ off && off < 0x2100
  else if off < 0x300000 then off != TB_CTRL && off != TB_RATE && off != TB_WINDOW
  else if off < 0x400000 then false
  else if off < 0x500000 then
    off == PVT_EVENT || off == PVT_LOSS_EVENT || off == PVT_RECOVERY || off == PVT_RING_STATUS || off == PVT_DEAD_LAST
  else if off < 0x600000 then 0x50E000 ≤ off
  else if off < 0x700000 then !(off == SEQ_CTRL || off == SEQ_CORE_MODE || off == SEQ_DOM_SEL || off == SEQ_DOM_DM || off == SEQ_DOM_RUN || off == SEQ_DOM_TRAPS)
  else if off < 0x800000 then off != CPE_CTRL
  else if off < 0xF00000 then false
  else if off < 0x1000000 then false
  else if off < 0x2000000 then !(0x6010 ≤ off % 0x10000 && off % 0x10000 < 0x6020)
  else if off < 0x2200000 then true
  else if off < 0x4000000 then false
  else true

/-- A queue over a core reset (R94, R425): what was fetched and not completed will complete with ABORTED_GEN under the new
generation; what an earlier generation had left is gone. The RUN entries of a frozen domain's saved threads stay as they are (R362). -/
def Sq.coreReset (s : Sq) (old new : Nat) (saved : Nat → Bool) : Sq :=
  let fetched := s.cache.map fun c => ({ idx := c.idx, bytes := c.bytes, gen := new, work := .finished { status := 5 },
                                         posts := s.cq.isSome && entCqe c.bytes && entOp c.bytes != 0x01 } : Run)
  let run := (s.run.filter fun r => r.done || r.gen == old).map fun r =>
    if r.done then r else if saved r.idx then { r with gen := new } else { r with gen := new, work := .finished { status := 5 } }
  { s with cache := [], run := run ++ fetched, scan := none, rescan := false, closing := false, bells := [] }

/-- One domain over a core reset (R92, R348): its generation rises; a reset or destroy that ran on it is over, since nothing of it is
left in flight; its queues go on. -/
def Mach.domCoreReset (m : Mach) (d : Nat) : Mach :=
  let old := (m.dom d).gen
  let m := m.bumpGen d
  let new := (m.dom d).gen
  let saved := fun (q i : Nat) => m.frozen.any fun (x : Nat × FrozenThr) => x.2.entry == some { dom := d, q := q, idx := i }
  let m := (m.sqIds d).foldl (fun (m : Mach) q => m.updSq d q fun s => s.coreReset old new (saved q)) m
  let m := (m.cqIds d).foldl (fun (m : Mach) c => m.updCq d c fun x => { x with held := false, since := 0, reread := none }) m
  let m := { m with frozen := m.frozen.map fun (x : Nat × FrozenThr) => if x.1 / 64 = d then (x.1, { x.2 with gen := new }) else x }
  match (m.dom d).state with
  | .resetting => m.domResetEnd d
  | .destroying => m.domDestroyEnd d
  | _ => m

/-- The timebase after a core reset (R92): reseeded to within 1 µs, by a free value. -/
def Mach.reseed (m : Mach) : Mach :=
  let (w, m) := m.free
  { m with tb := ((m.tbNs + w.toNat % 2001 + 2 ^ 64 - 1000) % 2 ^ 64) * 2 ^ 32, ppsAge := 0, ppsSeen := false, ppsLost := false }

/-- What the core and lane dies hold is lost, by a reset or in DORMANT (R92, R564); what the Wicket island, the keep banks and local DDR5
hold is kept. -/
def Mach.coreOff (m : Mach) (orderly : Bool) : Mach :=
  let m := if orderly then m.merging.foldl Mach.mergedOut m else { m with merging := [] }
  let m := { m with regs := m.regs.filter fun (x : Nat × Word) => !coreResetReg x.1 }
  let ports := m.ports.map fun (x : Nat × PortX) => (x.1, { x.2 with held := false, flushing := false, secure := false, aer := [], viral := false, e7Up := false })
  let m : Mach := { m with
    selfRefresh := true, ports := ports,
    fm := { m.fm with bg := none, removing := false }, vppbs := m.vppbs.map fun (x : Nat × Vppb) => (x.1, { x.2 with dpcTrig := false, aer := [] }),
    trk := [], trkWait := [], trkRr := [], voqs := [], reseqs := [], classes := [], postedSent := [], postedTx := [], egress := [], egOcc := [],
    egDrr := [], linkCr := [], ibuf := [], tags := [], planeErr := [], agentDone := [], latches := [], shutWr := [] }
  let m : Mach := { m with
    lkpDef := [], lkpLast := [], smp := [], t1 := [], summary := [], rebuilding := false, lines := [], busyWait := [], tenures := [],
    vc2Rx := [], birsps := [], flowCnt := [], specWin := [], changed := [], recovering := false, mirWait := [], lanes := [], zx := [],
    ibTimes := [], ibCur := [], ibNew := [], pipes := [], rp := [], tbl := [] }
  { m with
    shadow := if orderly then [] else m.shadow, ring := if orderly then [] else m.ring,
    d2d := m.d2d.map fun (x : Nat × D2d) => (x.1, { retired := x.2.retired }),
    qLastDom := 0, qLast := [], cpeLastDom := 0, cpeLast := [], runLastDom := 0, cpeRdDom := 0, cpeRd := [], cpeWrDom := 0, cpeWr := [],
    chans := [], threads := [], ls := [], fwDown := false, lockAt := none, fences := [],
    changes := m.changes.map fun (c : PendChange) => { c with entry := none },
    hinges := (m.hinges.filter fun (x : Nat × HingeOp) => x.2.op == 1),
    tfCtr := [], vcsRouted := [],
    lvr := m.lvr.map fun (x : Nat × LvrEnt) => (x.1, x.2.full m.now) }

/-- The core and lane dies reset (R89 step 6, R90, R92); the slot choice begins again. -/
def Mach.coreReset (m : Mach) (orderly ddrLost : Bool) : Mach :=
  let m := m.coreOff orderly
  let b : Boot := { m.boot with cold := false, trying := none, lastTry := false, modeRefused := false, booted := none, pllLock := false,
                                loaderUp := false, loaded := 0, trained := 0, disabled := 0, allCached := true, orderly := none, drained := false }
  let m := ((m.wr WKT_BOOT_STATUS_STAGE 0).wr WKT_BOOT_STATUS_HALT_CODE 0).wr WKT_BOOT_STATUS_TRAIN_CACHE 0
  let m := m.wr WKT_PWR_STATUS_STATE m.onState
  let m := { m with boot := b, pw := {}, hdm := [] }
  let m := (m.doms.map fun (x : Nat × DomRec) => x.1).foldl Mach.domCoreReset m
  let m := m.reseed
  if ddrLost then m.loseDdr else m

/-- A disorderly core reset (R90), where it is taken (R95), with its cause; local DDR5 that has lost its supply is lost either way. -/
def Mach.disorderly (cause : Nat) (ddrLost : Bool) (m : Mach) : Mach :=
  if m.takesCore then (m.coreReset false ddrLost).recordCause cause
  else if ddrLost then m.loseDdr else m

/-- An orderly core reset begins (R89, R95): in stage F, where none runs. -/
def Mach.startOrderly (m : Mach) (cause : Nat) : Mach :=
  if m.rd WKT_BOOT_STATUS_STAGE = 3 ∧ m.boot.orderly.isNone then
    { m with boot := { m.boot with orderly := some cause, drained := false } }
  else m

/-! ### The cold reset (R87, R92, R99) -/

/-- A cold reset with its cause: the mode latch is cleared; the flash, the fuses, the boot counts of R99, what `TF_STATUS.PREV_TF` will
read and the levels of the input pins are kept; the enables and PORT_PERST_N fall. -/
def State.cold (s : State) (cause : Nat) : State :=
  let m := s.m
  let p : Pins := { m.pins with vcoreEn := false, vlaneEn := false, vddqEn := false, thermtripN := true, portPerstN := 0 }
  let n : Mach := { flash := m.flash, fuses := m.fuses, pins := p, tfPrev := m.tfPrev, tfLast := m.tfLast, freeIx := m.freeIx, now := m.now }
  let n := ((n.wr WKT_BOOT_STATUS_ATTEMPTS (m.rd WKT_BOOT_STATUS_ATTEMPTS)).wr WKT_BOOT_STATUS_BAD_A (m.rd WKT_BOOT_STATUS_BAD_A)).wr
    WKT_BOOT_STATUS_BAD_B (m.rd WKT_BOOT_STATUS_BAD_B)
  let n := (n.wr WKT_BOOT_STATUS_LAST_RESET (m.rd WKT_BOOT_STATUS_LAST_RESET)).recordCause cause
  { latch := {}, m := n, pending := s.pending }

/-! ### The tile reset (R100) -/

/-- A tile reset, where it is taken (R95): the tile's links go down, its queues and tracker entries are flushed as at a port-down, its
lanes and its slice start anew; registers are kept and the tile's counters are zero (R92). -/
def Mach.tileReset (m : Mach) (t : Nat) : Mach :=
  if m.rd WKT_BOOT_STATUS_STAGE ≠ 3 ∨ m.boot.orderly.isSome ∨ 3 ≤ m.rd WKT_PWR_STATUS_STATE then m
  else
    let m := (m.tilePorts t).foldl (fun (m : Mach) p => if m.isZitch p then m.zLeave p 1 else m.portDown p) m
    let m := m.flushEntries fun key => key / 2048 == t
    let src := fun (p : Nat) => if p < 1024 then tileOf p == t else p - 1024 == t
    let waits := (m.trkWait.filter fun (x : Nat × List Waiting) => x.1 / 16 == t)
    let gone := (waits.map fun (x : Nat × List Waiting) => x.2.length).sum + ((m.voqs.filter fun (x : Nat × Voq) => x.1 / 512 == t).map fun (x : Nat × Voq) => x.2.q.length).sum
    let m := m.addSat (TILE_FLUSH_COUNT_DISCARDS t) gone
    { m with
      trkWait := m.trkWait.filter fun (x : Nat × List Waiting) => x.1 / 16 != t,
      voqs := m.voqs.filter fun (x : Nat × Voq) => x.1 / 512 != t && x.1 / 8 % 64 != t,
      reseqs := m.reseqs.filter fun (x : Nat × Reseq) => x.1 / 512 != t && x.1 / 8 % 64 != t,
      classes := m.classes.filter fun (x : Nat × ClassRec) => !src (x.1 / 512) && x.1 / 8 % 64 != t,
      postedSent := m.postedSent.filter fun (x : Nat × Nat) => !src (x.1 / 64) && x.1 % 64 != t,
      postedTx := m.postedTx.filter fun (x : Nat × Nat) => x.1 / 1024 != t && !(src (x.1 % 1024)),
      egDrr := SMap.drop m.egDrr (t * 128) (t * 128 + 128), egOcc := SMap.drop m.egOcc (t * 128) (t * 128 + 128),
      ibuf := SMap.drop m.ibuf (t * 128) (t * 128 + 128), ibTimes := SMap.drop m.ibTimes (t * 128) (t * 128 + 128),
      trkRr := SMap.del m.trkRr t, lanes := SMap.drop m.lanes (t * 16) (t * 16 + 16) }.resetRegs (CNT_TILE t 0) (CNT_TILE t 128)

/-! ### Device-fatal errors (R586) -/

/-- A device-fatal error: Viral on every enabled upstream port, the journal record, then the disorderly core reset with cause 0x0C. -/
def Mach.deviceFatal (m : Mach) (block code : Nat) : Mach :=
  let m := m.upstreamPorts.foldl Mach.viral m
  (m.error { cls := .deviceFatal, block := block, code := code }).disorderly 0x0C false

end Sys2Proof.Machine
end

