-- ==== Sys2Proof/Machine/Switch.lean ====
section
/-! DEFINITION. Sys2Proof/Machine/Switch.lean: the tile slices and the planes as the rows use them (07): requests, tracker entries,
cells and their resequencing, responses, planes out of service, buffer allocations. -/
namespace Sys2Proof.Machine

/-! ### Requests (R25, R202, R208, R456) -/

/-- A port admits messages of the domain it belongs to now: a domain that is reset, destroyed or frozen is held (R351, R361). -/
def Mach.takesFrom (m : Mach) (r : Req) : Bool :=
  match r.src.port? with
  | some p => m.admits p && (match m.reqDom r with
      | some d => let s := (m.dom d).state
                  s == .active || s == .disabled
      | none => true)
  | none => false

/-- REQUEST_RECEIVE: the message takes its ingress slots, which on a Zitch link its flit took (R148); its route program runs, the
default program at once (R456, R463). -/
def requestReceive (r : Req) (m : Mach) : Mach :=
  match r.src.port? with
  | none => m
  | some p =>
    if !m.takesFrom r then m
    else
      let t := tileOf p
      let z := m.isZitch p
      let n := SMap.get 0 m.vc2Rx p
      let r := { r with zitch := z, stamp := n }
      let m := if r.vc = 2 then { m with vc2Rx := SMap.set 0 m.vc2Rx p (n + 1) } else m
      let m := if z then m else m.ibTake p (r.vc % 8) r.slots
      let m := (m.count (CNT_TILE t (6 * (p % 16))) 1).count (CNT_TILE t (6 * (p % 16) + 2)) r.slots
      let d := m.reqDom r
      let m := m.count (CNT_TILE t 106) 1
      let m := match d with | some d => if m.tfLast then { m with vcsRouted := SMap.set 0 m.vcsRouted d (SMap.get 0 m.vcsRouted d + 1) } else m | none => m
      let slot := m.rpSel p
      let q := SMap.get [] m.pipes p
      if slot = 0 ∧ q.isEmpty then m.routeDefault r d
      else
        let x : Pipe := { req := r, dom := d, prog := if slot = 0 then [] else SMap.get [] m.rp slot, pbr := r.pbr, time := m.tbNs }
        { m with pipes := SMap.ins m.pipes p (q ++ [x]) }

def execRequestReceive (r : Req) (s : State) : Res := act (requestReceive r) s

/-- TRACKER_ENTRY_GRANT (R208, R209). -/
def trackerEntryGrant (t : Tile) (m : Mach) : Mach :=
  match m.nextClass t, m.freeEntry t with
  | some q, some key => match m.waitQ t q with
    | w :: rest =>
      let below := m.inUse t q < m.qMin t q
      let m := m.setWaitQ t q rest
      let m := if below then m else { m with trkRr := SMap.set 0 m.trkRr t ((q + 1) % 16) }
      m.takeEntry t key w q
    | [] => m
  | _, _ => m

def execTrackerEntryGrant (t : Tile) (s : State) : Res := act (trackerEntryGrant t) s

/-- CLASS_FENCE_RELEASE (R223). -/
def classFenceRelease (src : Fin 1088) (dst : Tile) (v : VC) (m : Mach) : Mach :=
  let key := (src.val * 64 + dst) * 8 + v
  m.fenceRelease (if src.val < 1024 then tileOf src else src - 1024) key (SMap.get {} m.classes key).fence

def execClassFenceRelease (src : Fin 1088) (dst : Tile) (v : VC) (s : State) : Res := act (classFenceRelease src dst v) s

/-! ### Cells (R214 to R216, R228 to R230) -/

/-- Index of a resequencing context. -/
def reseqKey (dst src tc : Nat) : Nat := (dst * 64 + src) * 8 + tc

/-- A cell error of a plane (R214, R228): counted, recorded, and kept for the millisecond that R228 looks at. -/
def Mach.cellError (m : Mach) (dst plane : Nat) : Mach :=
  let l := ((SMap.get [] m.planeErr plane).filter fun t => m.now < t + 1000000) ++ [m.now]
  let m := ({ m with planeErr := SMap.ins m.planeErr plane l }.addSat GLB_PLANE_STATUS_CELL_ERRS 1).count (CNT_TILE dst 103) 1
  m.error { cls := .corrected, block := 0, code := 1, loc := dst + 64 * plane }

/-- A cell is released to the egress buffer of its tile. -/
def Mach.releaseCell (m : Mach) (last : Option Pkt) : Mach := match last with | some k => m.toEgress k | none => m

/-- Release the cells that follow in order, from E on. -/
def Mach.releaseFrom (m : Mach) (key : Nat) : Nat → Mach
  | 0 => m
  | fuel + 1 =>
    let c : Reseq := SMap.get {} m.reseqs key
    match SMap.find c.stored c.e with
    | some last =>
      let c' : Reseq := { e := (c.e + 1) % 65536, stored := SMap.del c.stored c.e }
      ({ m with reseqs := SMap.set {} m.reseqs key c' }.releaseCell last).releaseFrom key fuel
    | none => m

/-- CELL_RECEIVE (R214). A cell that its input tile does not retain is none, but for a duplicate. -/
def cellReceive (dst src : Tile) (tc : Fin 8) (seq : Fin 65536) (plane : Plane) (crcOk : Bool) (m : Mach) : Mach :=
  if !crcOk then m.cellError dst plane
  else
    let key := reseqKey dst src tc
    let c : Reseq := SMap.get {} m.reseqs key
    let d := (seq.val + 65536 - c.e) % 65536
    if 65280 ≤ d then m
    else if 255 < d then m.cellError dst plane
    else match (m.voq (voqKey src dst tc)).retained.find? fun x => x.seq == seq.val with
      | none => m
      | some x =>
        if (SMap.find c.stored seq.val).isSome then m
        else
          let m := m.count (CNT_TILE dst 101) 1
          let c' : Reseq := { c with stored := SMap.ins c.stored seq.val x.last }
          { m with reseqs := SMap.set {} m.reseqs key c' }.releaseFrom key 257

def execCellReceive (dst src : Tile) (tc : Fin 8) (seq : Fin 65536) (plane : Plane) (crcOk : Bool) (s : State) : Res :=
  act (cellReceive dst src tc seq plane crcOk) s

/-- RESEQ_TIMEOUT (R215): a cell at E is missing; the NAK names E. -/
def reseqTimeout (dst src : Tile) (tc : Fin 8) (m : Mach) : Mach :=
  let c : Reseq := SMap.get {} m.reseqs (reseqKey dst src tc)
  if (m.voq (voqKey src dst tc)).retained.any fun x => x.seq == c.e then
    ((m.count (CNT_TILE dst 102) 1).raise (TILE_CORE_EVENT_RESEQ_NAK dst)).send (.reseqNak dst src tc c.e)
  else m

def execReseqTimeout (dst src : Tile) (tc : Fin 8) (s : State) : Res := act (reseqTimeout dst src tc) s

/-- The plane of a retransmission (R215): in service, and another than the last, where there is one. -/
def Mach.otherPlane (m : Mach) (last : Nat) : Nat :=
  match m.planes.find? fun n => last < n with
  | some n => n
  | none => (m.planes.find? fun n => n != last).getD (m.planes.headD last)

/-- RESEQ_NAK (R215): every retained cell from E on goes again. -/
def reseqNak (dst src : Tile) (tc : Fin 8) (e : Fin 65536) (m : Mach) : Mach :=
  let key := voqKey src dst tc
  let v := m.voq key
  let again := fun (x : Cell) => (x.seq + 65536 - e.val) % 65536 < 32768
  let l := v.retained.map fun x => if again x then { x with plane := m.otherPlane x.plane } else x
  let sent := l.filter again
  let m := sent.foldl (fun (m : Mach) x => m.send (.cellAgain dst src tc x.seq x.plane)) (m.setVoq key { v with retained := l })
  m.count (CNT_TILE src 100) sent.length

def execReseqNak (dst src : Tile) (tc : Fin 8) (e : Fin 65536) (s : State) : Res := act (reseqNak dst src tc e) s

/-- RESEQ_ACK (R206, R215, R216): the cells before E are retained no more, and their ingress slots are free. -/
def reseqAck (dst src : Tile) (tc : Fin 8) (m : Mach) : Mach :=
  let key := voqKey src dst tc
  let v := m.voq key
  let e := (SMap.get ({} : Reseq) m.reseqs (reseqKey dst src tc)).e
  let acked := fun (x : Cell) => x.seq != e && (e + 65536 - x.seq) % 65536 ≤ 256
  let m := (v.retained.filter acked).foldl (fun (m : Mach) x => m.ibFree x.srcPort x.srcVc x.slots)
    (m.setVoq key { v with retained := v.retained.filter fun x => !acked x })
  m.voqPump key

def execReseqAck (dst src : Tile) (tc : Fin 8) (s : State) : Res := act (reseqAck dst src tc) s

/-- PLANE_OUT (R228 to R230): for its cell errors, for an uncorrectable error, or by software. -/
def planeOut (n : Plane) (unc : Bool) (m : Mach) : Mach :=
  let many := max 1 (m.rd GLB_PLANE_CFG_ERR_THRESH) ≤ ((SMap.get [] m.planeErr n).filter fun t => m.now < t + 1000000).length
  let soft := bit (m.rd GLB_PLANE_CTRL_OUT) n
  if bit (m.rd GLB_PLANE_STATUS_IN_SERVICE) n && (many || unc || soft) then
    let m := (m.wr GLB_PLANE_STATUS_IN_SERVICE (withBit (m.rd GLB_PLANE_STATUS_IN_SERVICE) n false)).raise GLB_PLANE_EVENT_PLANE_OUT
    let m := m.error { cls := .corrected, block := 0, code := 2, loc := n }
    let out := 4 - m.planes.length
    if out = 2 then (m.raise GLB_PLANE_EVENT_DEGRADED).error { cls := .corrected, block := 0, code := 3 }
    else if out = 3 then m.deviceFatal 0 4
    else m
  else m

def execPlaneOut (n : Plane) (unc : Bool) (s : State) : Res := act (planeOut n unc) s

/-! ### Responses (R26, R182, R333 to R335, R582) -/

/-- A response to an entry whose timer has fired (R582): consumed and recorded; the entry ends unless it waits for more. A shared line's flow
ends with a synthesised result in place of the response. -/
def Mach.lateRsp (m : Mach) (key p : Nat) : Mach :=
  match m.entry key with
  | none => m
  | some e =>
    let m := m.error { cls := .corrected, block := 1, code := 6, port := some p, dom := some e.dom, addr := e.req.addr }
    let e := { e with outs := e.outs.erase p }
    if e.x.coh.isSome then
      m.setEntry key { e with synth := true,
                              arrived := e.arrived ++ [if e.req.kind.writes || e.phase == .writing then .cmp 0 else .data 0 true 0] }
    else if e.outs.isEmpty && e.specTag.isNone then m.freeEntryAt key
    else m.setEntry key e

/-- Where member i of the mirror pair of a translation has the same byte. -/
def Mach.atMember (m : Mach) (x : Xlat) (i : Nat) : Option (Nat × Option Nat × Nat) :=
  x.pair.map fun k =>
    let b := (m.mirPair k).mem i
    (b.port, (if b.mld then some b.ld else none), b.dpaBase + (x.dpa - ((m.mirPair k).mem x.member).dpaBase))

/-- A response reaches its tracker entry: poison of a mirror member waits for the other one (R335), a mirror member that fails a
write is marked failed (R334); a private access whose last response has come is answered, and its entry freed. -/
def Mach.takeRsp (m : Mach) (key p : Nat) (r : Rsp) : Mach :=
  match m.entry key with
  | none => m
  | some e =>
    let wr := e.req.kind.writes || e.phase == .writing
    let poison := match r with | .data _ q _ => q | .zPoison => true | _ => false
    let bad := match r with | .ur | .ca => true | _ => false
    if !wr && poison && e.x.pair.isSome && !e.reissued && (m.otherMember e.x).isSome then m.setEntry key { e with badMember := some e.x.member }
    else
      let m := match e.badMember, e.reissued && !wr && !poison, r with
        | some b, true, .data v _ _ => match m.atMember e.x b with
          | some (q, ld, dpa) => ((m.send (.repairWrite q ld dpa v)).error
              { cls := .corrected, block := 8, code := 2, port := some q, addr := dpa }).setEntry key { e with badMember := none }
          | none => m
        | _, _, _ => m
      let fails := wr && bad && e.x.pair.isSome
      let m := match fails, e.x.pair with
        | true, some k => (m.mirFail k (if (m.mirPair k).m0.port = p then 0 else 1)).mirRelease
        | _, _ => m
      let r := if fails then .cmp 0 else r
      if e.x.coh.isSome then m.updEntry key fun e => { e with arrived := e.arrived ++ [r] }
      else if e.outs.isEmpty then (m.answer key r .real (some (tileOf p))).release key
      else m

/-- RESPONSE_RECEIVE (R26, R182, R303, R383): matched by its device tag; a completion that matches none is unexpected (R184). -/
def responseReceive (p : Port) (tag : Fin 8192) (r : Rsp) (load : Option (Fin 4)) (m : Mach) : Mach :=
  if !m.linkUp p then m
  else
    let t := tileOf p
    let m := match load with | some l => m.setDevLoad p l | none => m
    match SMap.find m.tags (t * 8192 + tag) with
    | none => unexpectedCompletion p m
    | some v =>
      if v % 1024 ≠ p.val then unexpectedCompletion p m
      else
        let key := v / 1024
        match m.entry key with
        | none => m
        | some e =>
          let n := r.slots e.devLen
          let m := (m.count (CNT_TILE t (6 * (p.val % 16))) 1).count (CNT_TILE t (6 * (p.val % 16) + 2)) n
          let m := if m.isZitch p then m.ibFree p r.vc n else m
          let m := { m with tags := SMap.del m.tags (t * 8192 + tag) }
          if e.specTag = some tag.val then
            if e.phase = .draining then m.freeEntryAt key
            else if e.late then (m.setEntry key { e with specTag := none }).lateRsp key p
            else
              let m := m.setEntry key { e with specTag := none }
              if e.gate = .discarded then m else m.takeRsp key p r
          else if e.late then m.lateRsp key p
          else (m.setEntry key { e with outs := e.outs.erase p }).takeRsp key p r

def execResponseReceive (p : Port) (tag : Fin 8192) (r : Rsp) (load : Option (Fin 4)) (s : State) : Res :=
  act (responseReceive p tag r load) s

/-! ### Allocations (R205, R209, R218) -/

/-- Allocations of a tile's ports as last written, and the agent reservation, in slots. -/
def Mach.ibSum (m : Mach) (t : Nat) : Nat :=
  ((m.tilePorts t).map fun p => ((List.range 8).map fun v => m.ibufAlloc p v).sum).sum + m.rd (TILE_IBUF_AGENT_SLOTS t)

/-- TILE_IBUF_ALLOC_WRITE (R204, R205): of an allocation, which waits for the next training, or of the agent reservation, which has no least size. -/
def tileIbufAllocWrite (t : Tile) (ov : Option (Fin 16 × VC)) (v : BitVec 32) (m : Mach) : Mach :=
  let n := v.toNat % 2 ^ 18
  match ov with
  | none =>
    if m.ibSum t - m.rd (TILE_IBUF_AGENT_SLOTS t) + n > 131072 then m.raise (TILE_CORE_EVENT_IBUF_CFG_REFUSED t)
    else m.wr (TILE_IBUF_AGENT_SLOTS t) n
  | some (o, c) =>
    let p := t.val * 16 + o
    if !m.portExists p then m
    else if m.ibSum t - m.ibufAlloc p c + n > 131072 || n < 17 then m.raise (TILE_CORE_EVENT_IBUF_CFG_REFUSED t)
    else if n = m.ibufCur p c then { m with ibNew := SMap.del m.ibNew (p * 8 + c) }
    else { m with ibNew := SMap.ins m.ibNew (p * 8 + c) n }

def execTileIbufAllocWrite (t : Tile) (ov : Option (Fin 16 × VC)) (v : BitVec 32) (s : State) : Res :=
  act (fun m => m.orShut t (match ov with | some (o, c) => TILE_IBUF_ALLOC (t * 16 + o) c | none => TILE_IBUF_AGENT t) v.toNat (tileIbufAllocWrite t ov v)) s

/-- TILE_EBUF_WRITE (R218). -/
def tileEbufWrite (t : Tile) (o : Fin 16) (vc : Option VC) (v : BitVec 32) (m : Mach) : Mach :=
  let p := t.val * 16 + o
  let w := v.toNat
  if !m.portExists p then m
  else match vc with
    | none => m.wr (TILE_EBUF_PORTMAX_MAX p) w
    | some c =>
      let lo := w % 2 ^ 13
      let hi := w / 2 ^ 16 % 2 ^ 13
      let sum := ((m.tilePorts t).map fun q => ((List.range 8).map fun i => m.rd (TILE_EBUF_VC_MIN q i)).sum).sum
      if lo > hi || sum - m.rd (TILE_EBUF_VC_MIN p c) + lo > 4096 then m.raise (TILE_CORE_EVENT_EBUF_CFG_REFUSED t)
      else (m.wr (TILE_EBUF_VC_MIN p c) lo).wr (TILE_EBUF_VC_MAX p c) hi

def execTileEbufWrite (t : Tile) (o : Fin 16) (vc : Option VC) (v : BitVec 32) (s : State) : Res :=
  act (fun m => m.orShut t (match vc with | some c => TILE_EBUF_VC (t * 16 + o) c | none => TILE_EBUF_PORTMAX (t * 16 + o)) v.toNat (tileEbufWrite t o vc v)) s

/-- TILE_TRK_QCLASS_WRITE (R209). -/
def tileTrkQclassWrite (t : Tile) (q : Fin 16) (v : BitVec 32) (m : Mach) : Mach :=
  let lo := v.toNat % 2 ^ 12
  let hi := v.toNat / 2 ^ 16 % 2 ^ 12
  let sum := ((List.range 16).map fun i => m.qMin t i).sum
  if lo > hi || sum - m.qMin t q + lo > 2048 then m.raise (TILE_CORE_EVENT_TRK_CFG_REFUSED t)
  else (m.wr (TILE_TRK_QCLASS_MIN t q) lo).wr (TILE_TRK_QCLASS_MAX t q) hi

def execTileTrkQclassWrite (t : Tile) (q : Fin 16) (v : BitVec 32) (s : State) : Res :=
  act (fun m => m.orShut t (TILE_TRK_QCLASS t q) v.toNat (tileTrkQclassWrite t q v)) s

end Sys2Proof.Machine
end

