-- ==== Sys2Proof/Machine/TfOps.lean ====
section
/-! DEFINITION. Sys2Proof/Machine/TfOps.lean: what TF-256 mode does at the staged start and to its ports and counters (22). A
personality's configuration copy is held as the ports that its bytes spell, since the TF-256's own layout is not the manual's. -/
namespace Sys2Proof.Machine

/-- The native port of port k of a personality (R593). -/
def tfNative (p k : Nat) : Nat := 256 * p + 8 * k

/-- The host domain of VCS v of a personality (R593). -/
def tfDom (p v : Nat) : Nat := 1 + 16 * p + v

/-- The ports of a configuration that exist (R594): a known width; x16 only at an even port, whose odd neighbour then does not exist; a
port that is named twice keeps its first description. -/
def tfPorts (l : List TfPort) : List TfPort :=
  let ok := fun (x : TfPort) => x.k < 32 && 1 ≤ x.width && x.width ≤ 5 && (x.width != 5 || x.k % 2 == 0)
  let l := (List.range 32).filterMap fun k => l.find? fun x => x.k == k && ok x
  l.filter fun x => !(x.k % 2 == 1 && l.any fun y => y.k + 1 == x.k && y.width == 5)

/-- The upstream ports of a configuration: VCS v is headed by the v-th (R593). -/
def tfUps (l : List TfPort) : List TfPort := ((tfPorts l).filter (·.up)).take 16

/-- The switch takes a configuration's port widths, roles, slot bindings and VCS bindings (R594, R596, R614). -/
def Mach.applyTf (m : Mach) (p : Nat) (l : List TfPort) : Mach :=
  let ps := tfPorts l
  let ups := (tfUps l).map fun x => tfNative p x.k
  let code := fun (k : Nat) => ((ps.find? (·.k == k)).map (·.width)).getD 0
  let m := (List.range 16).foldl (fun (m : Mach) j => m.wr (TILE_PORTMAP_MAP (16 * p + j)) (code (2 * j) + code (2 * j + 1) * 2 ^ 32)) m
  ps.foldl (fun (m : Mach) (x : TfPort) =>
    let q := tfNative p x.k
    let m := m.wr (TILE_PORT_CTRL_ROLE q) (if x.up then 1 else 0)
    let m := match x.slot with
      | some (c, priv) => ((m.wr (TILE_PORT_SLOT_SLOT_EN q) 1).wr (TILE_PORT_SLOT_CHANNEL q) c).wrB (TILE_PORT_SLOT_PRIV q) priv
      | none => m
    match x.up, x.bind with
    | false, some (v, vppb, ld) => (match ups[v]? with
      | some up => { m with binds := SMap.ins m.binds (q * 16 + ld % 16) { up := up, vppb := vppb } }
      | none => m)
    | _, _ => m) m

/-- The ports of a personality's configuration in use (R596): its copy's where that passes its checksum, else the TF-256's reset
configuration, which the manual does not give. -/
def Mach.tfConfig (m : Mach) (p : Nat) : List TfPort :=
  let c : TfCopy := SMap.get {} m.flash.tf p
  if c.present && c.sumOk then c.ports else Config.tfResetPorts.map fun x => { k := x.1, width := x.2.1, up := x.2.2 }

/-- `WKT_SHUTTER_STATUS` takes a mask, and `WKT_SHUTTER_DIE` and the power state follow (R556, R557). -/
def Mach.setGated (m : Mach) (g : Nat) : Mach :=
  let m := m.wr WKT_SHUTTER_STATUS_TILE g
  let m := m.wr WKT_SHUTTER_DIE_DIE (((List.range 8).filter fun d => g / 256 ^ d % 256 == 255).map fun d => 2 ^ d).sum
  if m.rd WKT_PWR_STATUS_STATE ≤ 1 then m.wr WKT_PWR_STATUS_STATE m.onState else m

/-- Tiles of personalities that do not exist (R595). -/
def tfUnused (n : Nat) : Nat := 2 ^ 64 - 2 ^ (16 * n)

/-- LANE_CTRL.MAX_RATE of the lanes of a personality as SPEED64 gives (R611). -/
def Mach.tfRates (m : Mach) (p : Nat) : Mach :=
  let r := if m.flag (TF_QUIRK_SPEED64 p) then 5 else 4
  (List.range 256).foldl (fun (m : Mach) l => m.wr (LANE_CTRL_MAX_RATE (256 * p + l)) r) m

/-- The identity that REVEAL asks for takes effect for function p (R602). -/
def Mach.revealFn (m : Mach) (p : Nat) : Mach := m.wr (TF_IDENT_REVEAL_IN_EFFECT p) (m.rd (TF_IDENT_REVEAL_REVEAL p))

/-- At a deassertion of MG_PERST_N, for every function of a personality (R602). -/
def Mach.applyReveal (m : Mach) (l : ModeLatch) : Mach :=
  if l.tf then (List.range l.personalities).foldl Mach.revealFn m else m

/-- The identity takes effect for the switch functions of an upstream port, at its PERST# or hot reset (R602). -/
def Mach.revealPort (m : Mach) (q : Nat) : Mach :=
  if m.tfLast && m.isUp q then m.updPx q fun x => { x with revealed := m.flag (TF_IDENT_REVEAL_REVEAL (q / 256)) } else m

/-- Stage C of TF-256 mode (R594 to R596, R602, R611): configuration copies are loaded, tiles without a personality are gated, identities and
rates take effect. -/
def Mach.tfStageC (m : Mach) (l : ModeLatch) : Mach :=
  if !l.tf then m
  else
    let n := l.personalities
    let m := (List.range n).foldl (fun (m : Mach) p =>
      let c : TfCopy := SMap.get {} m.flash.tf p
      let m := m.wr TF_STATUS_CFG_VALID (withBit (m.rd TF_STATUS_CFG_VALID) p (c.present && c.sumOk))
      ((m.applyTf p (m.tfConfig p)).tfRates p)) m
    let gate := tfUnused n
    let m := (m.wr WKT_SHUTTER_TILE (m.rd WKT_SHUTTER_TILE ||| gate)).setGated (m.rd WKT_SHUTTER_STATUS_TILE ||| gate)
    let m := if m.boot.cold then m.applyReveal l else m
    m.upstreamPorts.foldl Mach.revealPort m

/-- A host domain of a VCS is there, and its upstream port belongs to it (R593, R598, R614). -/
def Mach.tfDomain (m : Mach) (d : Nat) (up : Option Nat) (keep : Bool) : Mach :=
  let r := m.dom d
  let m := m.setDom d { r with state := .active, kind := .host, cas := if keep then r.cas else [] }
  match up with
  | some q => { m with domPort := SMap.ins m.domPort q d }
  | none => m

/-- TF-256 mode at stage F (R598): D(1 + 16p + v) exists for every VCS of every personality; decoders start uncommitted, so that no
Casement and no interleave set is in use. -/
def Mach.tfDomains (m : Mach) (l : ModeLatch) : Mach :=
  if !l.tf then m
  else
    let m := { m with ilv := [], hdm := [] }
    (List.range l.personalities).foldl (fun (m : Mach) p =>
      let ups := (tfUps (m.tfConfig p)).map fun x => tfNative p x.k
      (List.range 16).foldl (fun (m : Mach) v => m.tfDomain (tfDom p v) ups[v]? false) m) m

/-- The import at the first stage F of native mode after TF-256 mode (R614): every valid copy's ports and bindings, and the host domains of
its upstream ports. -/
def Mach.tfImport (m : Mach) : Mach :=
  (List.range 4).foldl (fun (m : Mach) p =>
    let c : TfCopy := SMap.get {} m.flash.tf p
    if c.present && c.sumOk then
      (tfUps c.ports).zipIdx.foldl (fun (m : Mach) (x : TfPort × Nat) => m.tfDomain (tfDom p x.2) (some (tfNative p x.1.k)) true) (m.applyTf p c.ports)
    else m) m

/-! ### Counters of the personalities (R606) -/

/-- What the native source of an event has counted; arbitration stalls are counted by the tick. -/
def Mach.tfSource (m : Mach) (p : Nat) : TfEvent → Nat
  | .rx k => (m.reg (CNT_TILE (16 * p + k / 2) (6 * (8 * (k % 2))))).toNat
  | .tx k => (m.reg (CNT_TILE (16 * p + k / 2) (6 * (8 * (k % 2)) + 1))).toNat
  | .stall k => (m.reg (CNT_TILE (16 * p + k / 2) (6 * (8 * (k % 2)) + 5))).toNat
  | .replay k => (m.reg (CNT_TILE (16 * p + k / 2) (6 * (8 * (k % 2)) + 4))).toNat
  | .routed v => SMap.get 0 m.vcsRouted (tfDom p v)
  | .timeouts v => (m.reg (CNT_DOM (tfDom p v) 15)).toNat
  | .xbar | .none => 0

def TfCtr.ctr (c : TfCtr) (n : Nat) : TfCnt := SMap.get {} c.cnt n
def TfCtr.setCtr (c : TfCtr) (n : Nat) (x : TfCnt) : TfCtr := { c with cnt := SMap.set {} c.cnt n x }

/-- Counter n of a personality is the upper half of a chained pair (R517). -/
def TfCtr.chained (c : TfCtr) (n : Nat) : Bool := n % 2 == 1 && bit c.chain (n / 2)

/-- Add to a programmable counter; a wrap sets its OVF bit, and carries into the odd counter of a chained pair (R517). -/
def TfCtr.addCnt (c : TfCtr) (n k : Nat) : TfCtr :=
  let x := c.ctr n
  let v := x.count + k
  let wrap := decide (2 ^ 32 ≤ v)
  let c := c.setCtr n { x with count := v % 2 ^ 32, ovf := x.ovf || wrap }
  if wrap && n % 2 == 0 && c.chained (n + 1) then
    let y := c.ctr (n + 1)
    let w := y.count + v / 2 ^ 32
    c.setCtr (n + 1) { y with count := w % 2 ^ 32, ovf := y.ovf || decide (2 ^ 32 ≤ w) }
  else c

/-- Whether counter n counts its own event now. -/
def TfCtr.counts (c : TfCtr) (n : Nat) : Bool := (c.ctr n).en && !c.freeze && !c.chained n

/-- The counters of a personality take what their native sources have counted since the last time (R606). -/
def Mach.tfSync (m : Mach) (p : Nat) : Mach :=
  let c := (List.range 8).foldl (fun (c : TfCtr) n =>
    let x := c.ctr n
    let now := m.tfSource p x.sel
    let d := now - x.seen
    let c := c.setCtr n { x with seen := now }
    if c.counts n && d != 0 then c.addCnt n d else c) (SMap.get {} m.tfCtr p)
  { m with tfCtr := SMap.set {} m.tfCtr p c }

/-- A VOQ of one of the personality's tiles holds a message. -/
def Mach.tfBusy (m : Mach) (p : Nat) : Bool := m.voqs.any fun (x : Nat × Voq) => x.1 / 512 / 16 == p && !x.2.q.isEmpty

/-- One TB cycle of a personality's counters (R606): the cycle counter adds 1; a counter of arbitration stalls adds 1 where a VOQ of a tile was
eligible and not matched, which a free value says while some VOQ holds a message. -/
def Mach.tfTick (m : Mach) (p : Nat) : Mach :=
  let m := m.tfSync p
  let c : TfCtr := SMap.get {} m.tfCtr p
  let c := if c.cycEn && !c.freeze then { c with cyc := (c.cyc + 1) % 2 ^ 64 } else c
  let stalls := (List.range 8).filter fun n => (c.ctr n).sel == .xbar && c.counts n
  let (m, k) := if !stalls.isEmpty && m.tfBusy p then ((m.free).2, (m.free).1.toNat % 2) else (m, 0)
  let c := if k = 0 then c else stalls.foldl (fun (c : TfCtr) n => c.addCnt n k) c
  { m with tfCtr := SMap.set {} m.tfCtr p c }

/-- The port status register of the TF-256 map (R611): whether it shows the link up. -/
def Mach.tfUpShown (m : Mach) (q : Nat) : Bool := m.linkUp q && (m.px q).e7Up

end Sys2Proof.Machine
end

