-- ==== Sys2Proof/Machine/PowerOps.lean ====
section
/-! DEFINITION. Sys2Proof/Machine/PowerOps.lean: what the DORMANT entry and the wake are built from (20). -/
namespace Sys2Proof.Machine

/-- Every SQ stops fetching, and what it fetched and did not start is dropped (R562 step 1, R361 step 2). -/
def Mach.dropFetched (m : Mach) : Mach :=
  m.sqs.foldl (fun (m : Mach) (x : Nat × Sq) =>
    m.updSq (x.1 / 64) (x.1 % 64) fun s => { s with fetch := s.startPt, cache := [], scan := none, rescan := false }) m

/-- The SQs fetch again: each is scanned as at a doorbell, over what its reads return. -/
def Mach.rescanAll (m : Mach) (mems : List (Nat × QMem)) : Mach :=
  mems.foldl (fun (m : Mach) (x : Nat × QMem) => m.tailBell (x.1 / 64) (x.1 % 64) x.2) m

/-- Tenant threads stop where they can (R562 step 2). -/
def Mach.freezeTenants (m : Mach) : Mach :=
  (m.threads.filter fun (x : Nat × Thread) => !x.2.manager).foldl (fun (m : Mach) (x : Nat × Thread) => m.freezeThread x.1 x.2) m

/-- Stopped threads of domains that are not frozen wait to be placed again. -/
def Mach.resumeTenants (m : Mach) : Mach :=
  { m with frozen := m.frozen.map fun (x : Nat × FrozenThr) =>
      if (m.dom (x.1 / 64)).state = .frozen then x else (x.1, { x.2 with resume := true }) }

/-- Step 2 of the entry has finished (R562): no request, no started entry but those of stopped threads, no descriptor, no tenant thread. -/
def Mach.dormantDrained (m : Mach) : Bool :=
  m.trackerEmpty && m.chans.isEmpty && !(m.threads.any fun (x : Nat × Thread) => !x.2.manager) &&
  m.sqs.all fun (x : Nat × Sq) => x.2.run.all fun r =>
    r.done || m.frozen.any fun (y : Nat × FrozenThr) => y.2.entry == some { dom := x.1 / 64, q := x.1 % 64, idx := r.idx }

/-- The entry is abandoned (R563): credits and fetching resume, the state is as before; nothing drained is undone. -/
def Mach.dormantAbandon (m : Mach) (code : Nat) (mems : List (Nat × QMem)) : Mach :=
  let m := { m with pw := {} }
  ((((m.wr WKT_PWR_STATUS_STATE m.onState).wr WKT_PWR_STATUS_ABORT_CODE code).raise WKT_PWR_EVENT_ENTRY_ABORT).resumeTenants).rescanAll mems

/-- A wake starts (R570): STATE becomes WAKING, and LAST_WAKE has the lowest source. -/
def Mach.wakeStart (m : Mach) : Mach :=
  let src := ((List.range 5).find? fun i => bit m.pw.pend i).getD 0
  let m := (m.wr WKT_PWR_STATUS_STATE 5).wr WKT_PWR_STATUS_LAST_WAKE src
  { m with pw := { m.pw with pend := 0 } }

/-- STATE becomes DORMANT once VCORE_EN has fallen (R562 step 5); a wake that is pending starts at once (R569). -/
def Mach.dormantReached (m : Mach) : Mach :=
  if m.rd WKT_PWR_STATUS_STATE = 3 ∧ m.pw.committed ∧ !m.pins.vcoreEn then
    let m := m.wr WKT_PWR_STATUS_STATE 4
    if m.pw.pend != 0 && !m.pw.window then m.wakeStart else m
  else m

/-- The wake is over (R564, R570): the timebase is reseeded, the summary is rebuilt, stopped threads are placed again, SQs fetch. -/
def Mach.wakeDone (m : Mach) (mems : List (Nat × QMem)) : Mach :=
  let m := { m with pw := {} }
  ((((m.wr WKT_PWR_STATUS_STATE m.onState).raise WKT_PWR_EVENT_WOKE).reseed.rebuild).resumeTenants).rescanAll mems

end Sys2Proof.Machine
end

