-- ==== Sys2Proof/Machine/Boot.lean ====
section
/-! DEFINITION. Sys2Proof/Machine/Boot.lean: the staged start, the resets, the pins and rails, the thermal sensors and
the firmware update (02, 03): the meanings of the table's first rows. A row that names an event which cannot occur in
the state it finds has no effect (assumption log 2). -/
namespace Sys2Proof.Machine

/-! ### Supplies and cold resets -/

/-- VAUX_POWER_ON (R634): a cold reset; the fields whose value the manual gives "at VAUX power-on" return to it. What
the module holds outside the Wicket island's volatile state, flash and fuses, is kept. -/
def execVauxPowerOn (s : State) : Res :=
  .next { s.cold 0 with m := { (s.cold 0).m with
    regs := SMap.del (s.cold 0).m.regs WKT_BOOT_STATUS, tfPrev := false, tfLast := false } }

/-- AUX_RESET_N_ASSERT (R51, R87): a cold reset with cause 0x01; the pin is low until AUX good. -/
def execAuxResetNAssert (s : State) : Res :=
  .next { s.cold 0x01 with m := { (s.cold 0x01).m with pins := { (s.cold 0x01).m.pins with auxResetN := false } } }

/-- SUPPLY_UNDERVOLTAGE (R40): a cold reset with cause 0x0F. -/
def execSupplyUndervoltage (s : State) : Res := .next (s.cold 0x0F)

/-- AUX good (R39, R66, R67, R554): stage W begins; the policy block in force is read; its slot-power values are loaded
and its stage-W channels wait for admission. -/
def auxGood (m : Mach) : Mach :=
  if m.boot.auxGood then m else
  let pol := m.flash.policy
  let m := { m with boot := { m.boot with auxGood := true, policy := pol, mgLink := .stageW },
                    pins := { m.pins with auxResetN := true } }
  (m.loadPolicyWicket pol).startPolicyChannels pol

/-- AUX_GOOD. -/
def execAuxGood (s : State) : Res := act auxGood s

/-! ### Slot choice (R77 to R83) -/

/-- Whether a slot's BAD bit is set (R83). -/
def Mach.bad (m : Mach) (slot : Bool) : Bool :=
  m.flag (if slot then WKT_BOOT_STATUS_BAD_B else WKT_BOOT_STATUS_BAD_A)

/-- No slot remains (R81): halt in stage W, for a mode mismatch where a verified slot was refused for its mode. -/
def Mach.haltNoSlot (m : Mach) : Mach :=
  let m := (m.wr WKT_BOOT_STATUS_STAGE 4).wr WKT_BOOT_STATUS_HALT_CODE (if m.boot.modeRefused then 2 else 1)
  { m with boot := { m.boot with trying := none } }

/-- Begin to verify a slot; a slot whose BAD bit is set is skipped (R81, R83). -/
def Mach.trySlot (m : Mach) (slot last : Bool) : Mach :=
  if !m.bad slot then { m with boot := { m.boot with trying := some slot, lastTry := last } }
  else if !last && !m.bad (!slot) then { m with boot := { m.boot with trying := some (!slot), lastTry := true } }
  else m.haltNoSlot

/-- The slot tried first (R81): the pointed slot, slot A where no pointer copy is valid, the other slot after three
failed attempts. -/
def Mach.firstSlot (m : Mach) : Bool :=
  let pointed := m.flash.pointed.getD false
  if m.rd WKT_BOOT_STATUS_ATTEMPTS ≥ 3 then !pointed else pointed

/-- BOOT_SLOT_CHOICE: the slot choice of R81 begins, after AUX good and after a core reset. -/
def bootSlotChoice (m : Mach) : Mach :=
  if m.boot.auxGood ∧ m.rd WKT_BOOT_STATUS_STAGE = 0 ∧ m.boot.trying = none ∧ m.boot.booted = none then
    m.trySlot m.firstSlot false
  else m

def execBootSlotChoice (s : State) : Res := act bootSlotChoice s

/-- The slot is taken for this boot (R69, R81, R82): stage W waits for the start of stage C. -/
def Mach.takeSlot (m : Mach) (slot : Bool) : Mach :=
  let m := ((m.wr WKT_BOOT_STATUS_STAGE 1).wrB WKT_BOOT_STATUS_SLOT slot).wrB WKT_BOOT_STATUS_FALLBACK
    (slot != m.flash.pointed.getD false)
  { m with boot := { m.boot with trying := none, booted := some slot } }

/-- The slot under verification fails or is refused: the other one is tried, once (R81). -/
def Mach.nextSlot (m : Mach) (slot : Bool) : Mach :=
  if m.boot.lastTry then m.haltNoSlot else m.trySlot (!slot) true

/-- The mode that an image header records, as a latch (R3). -/
def Image.modeLatch (im : Image) : ModeLatch :=
  { latched := true, tf := im.mode = 1, personalities := if im.mode = 1 then im.personalities else 0 }

/-- Whether an image records the latched mode (R6): the mode and, in TF-256 mode, the personality count. -/
def ModeLatch.same (l : ModeLatch) (im : Image) : Bool := l = im.modeLatch

/-- SLOT_VERIFY_DONE (R79, R81, R3 to R6): a verified slot is taken at a cold-reset boot, which finds no mode latched, and its mode is
latched; after a core reset it is taken only where it records the latched mode. Any other outcome tries the other slot or halts. -/
def execSlotVerifyDone (s : State) : Res :=
  let m := { s.m with out := [] }
  match m.boot.trying with
  | none => .next { s with m := m }
  | some slot =>
    let im := m.flash.slot slot
    if im.verifies m.fuses then
      if !s.latch.latched then
        let l := im.modeLatch
        let m := { m with tfPrev := m.tfLast, tfLast := l.tf, boot := { m.boot with importTf := !l.tf && m.tfLast } }
        .next { s with latch := l, m := m.takeSlot slot }
      else if s.latch.same im then .next { s with m := m.takeSlot slot }
      else .next { s with m := ({ m with boot := { m.boot with modeRefused := true } }).nextSlot slot }
    else .next { s with m := m.nextSlot slot }

/-! ### Start of stage C, rails and power goods -/

/-- SYS_PWRGD_WAIT_TIMEOUT (R70). -/
def sysPwrgdWaitTimeout (m : Mach) : Mach :=
  if m.rd WKT_BOOT_STATUS_STAGE = 1 ∧ !m.pins.sysPwrgd then
    ({ m with pins := { m.pins with warmResetN := true } }).wr WKT_BOOT_STATUS_HALT_CODE 6
  else m

def execSysPwrgdWaitTimeout (s : State) : Res := act sysPwrgdWaitTimeout s

/-- UPSTREAM_PERST_RELEASE (R69 to R71, R91): SYS_PWRGD and WARM_RESET_N are both high and a header has verified, so
stage C starts; HALT_CODE 6 clears; the management endpoint goes to Detect; the manager firmware's port map and port
controls of the policy block, and in TF-256 mode its configuration copies (R594 to R596), stand before lanes train. -/
def upstreamPerstRelease (l : ModeLatch) (m : Mach) : Mach :=
  if m.rd WKT_BOOT_STATUS_STAGE = 1 then
    let m := { m with pins := { m.pins with sysPwrgd := true, warmResetN := true },
                      boot := { m.boot with mgLink := .detect } }
    (((m.wr WKT_BOOT_STATUS_STAGE 2).wr WKT_BOOT_STATUS_HALT_CODE 0).loadPolicyStageC m.boot.policy).tfStageC l
  else m

def execUpstreamPerstRelease (s : State) : Res := actL upstreamPerstRelease s

/-- MGMT_ENDPOINT_RETRAIN (R71). -/
def mgmtEndpointRetrain (m : Mach) : Mach :=
  if m.boot.mgLink = .detect then { m with boot := { m.boot with mgLink := .native } } else m

def execMgmtEndpointRetrain (s : State) : Res := act mgmtEndpointRetrain s

/-- The order of stage C runs: in stage C, and in a wake (R570). -/
def Mach.starting (m : Mach) : Bool := m.rd WKT_BOOT_STATUS_STAGE == 2 || m.rd WKT_PWR_STATUS_STATE == 5

/-- The enable pin of a rail. -/
def Pins.en (p : Pins) : Rail → Bool
  | .vcore => p.vcoreEn | .vddq => p.vddqEn | .vlane => p.vlaneEn

/-- The power-good pin of a rail. -/
def Pins.pg (p : Pins) : Rail → Bool
  | .vcore => p.vcorePg | .vddq => p.vddqPg | .vlane => p.vlanePg

/-- Drive a rail's enable. -/
def Pins.setEn (p : Pins) (r : Rail) (b : Bool) : Pins :=
  match r with
  | .vcore => { p with vcoreEn := b } | .vddq => { p with vddqEn := b } | .vlane => { p with vlaneEn := b }

/-- A rail's power-good input takes a level. -/
def Pins.setPg (p : Pins) (r : Rail) (b : Bool) : Pins :=
  match r with
  | .vcore => { p with vcorePg := b } | .vddq => { p with vddqPg := b } | .vlane => { p with vlanePg := b }

/-- Whether a rail's enable may be asserted now (R43, R44, R72, R570): in stage C or in a wake, in the order VCORE_EN,
VDDQ_EN, VLANE_EN, its power-good input low, and VCORE_EN only while SYS_PWRGD is high. -/
def Mach.mayAssert (m : Mach) (r : Rail) : Bool :=
  let p := m.pins
  m.starting && p.auxResetN && p.thermtripN &&
  !p.en r && !p.pg r && !(m.boot.dropVlane || m.boot.dropVddq || m.boot.dropVcore) &&
  match r with
  | .vcore => p.sysPwrgd
  | .vddq => p.vcoreEn && p.vcorePg
  | .vlane => p.vcoreEn && p.vcorePg && p.vddqEn

/-- ENABLE_ASSERT (R43): the event is that the input has been low for 10 ms. -/
def enableAssert (r : Rail) (m : Mach) : Mach :=
  if m.mayAssert r then { m with pins := m.pins.setEn r true } else m

def execEnableAssert (r : Rail) (s : State) : Res := act (enableAssert r) s

/-- ENABLE_DEASSERT (R43): the next enable in reverse order falls, 100 µs after the one before; with VCORE_EN the DORMANT entry is over (R562). -/
def execEnableDeassert (s : State) : Res := act (fun m => m.dropNext.dormantReached) s

/-- POWER_GOOD_RISE (R41). -/
def powerGoodRise (r : Rail) (m : Mach) : Mach := { m with pins := m.pins.setPg r true }

def execPowerGoodRise (r : Rail) (s : State) : Res := act (powerGoodRise r) s

/-- POWER_GOOD_DEADLINE_MISS (R72): in stage C, every enable falls in reverse order and the start halts in stage W. In a
wake the deadline is WAKE_ABORT's (R571). -/
def powerGoodDeadlineMiss (r : Rail) (m : Mach) : Mach :=
  if m.rd WKT_BOOT_STATUS_STAGE = 2 ∧ m.pins.en r ∧ !m.pins.pg r then
    let code := match r with | .vcore => 3 | .vddq => 4 | .vlane => 5
    ((m.wr WKT_BOOT_STATUS_STAGE 4).wr WKT_BOOT_STATUS_HALT_CODE code).startDrop true true true
  else m

def execPowerGoodDeadlineMiss (r : Rail) (s : State) : Res := act (powerGoodDeadlineMiss r) s

/-- RAIL_POWER_GOOD_LOSS (R45): VLANE_EN and VCORE_EN fall, and VDDQ_EN for a VDDQ loss, which also loses local DDR5; a
disorderly core reset follows. While the enable is deasserted its input causes no action (R43). -/
def railPowerGoodLoss (r : Rail) (m : Mach) : Mach :=
  if m.pins.en r then
    let m := { m with pins := m.pins.setPg r false }
    match r with
    | .vddq => (m.startDrop true true true).disorderly 0x09 true
    | _ => (m.startDrop true false true).disorderly 0x08 false
  else { m with pins := m.pins.setPg r false }

def execRailPowerGoodLoss (r : Rail) (s : State) : Res := act (railPowerGoodLoss r) s

/-- SYS_PWRGD_LOSS (R46, R198): while VCORE_EN is asserted, as a VCORE_PG loss with cause 0x0A, and every slot channel
off with PORT_PERST_N and the expander PERST# bits asserted. -/
def sysPwrgdLoss (m : Mach) : Mach :=
  let up := m.pins.vcoreEn
  let m := { m with pins := { m.pins with sysPwrgd := false } }
  if up then ((m.allChannelsOff).assertAllPerst.startDrop true false true).disorderly 0x0A false else m

def execSysPwrgdLoss (s : State) : Res := act sysPwrgdLoss s

/-! ### Stage C -/

/-- CORE_PLL_LOCK (R72). -/
def corePllLock (m : Mach) : Mach :=
  if m.starting ∧ m.pins.vcoreEn ∧ m.pins.vcorePg then
    { m with boot := { m.boot with pllLock := true } } else m

def execCorePllLock (s : State) : Res := act corePllLock s

/-- LOADER_VERIFIED (R72, R83): the loader is entry 0 and counts as the first section loaded. -/
def loaderVerified (m : Mach) : Mach :=
  if m.rd WKT_BOOT_STATUS_STAGE = 2 ∧ m.boot.pllLock ∧ !m.boot.loaderUp then
    { m with boot := { m.boot with loaderUp := true, loaded := 1 } } else m

def execLoaderVerified (s : State) : Res := act loaderVerified s

/-- The image that boots. -/
def Mach.bootImage (m : Mach) : Image := m.flash.slot (m.boot.booted.getD false)

/-- A section digest does not match in stage C (R83). -/
def Mach.sectionBad (m : Mach) : Mach :=
  let m := m.raise (if m.boot.booted.getD false then WKT_BOOT_STATUS_BAD_B else WKT_BOOT_STATUS_BAD_A)
  (m.addSat WKT_BOOT_STATUS_ATTEMPTS 1).disorderly 0x0E false

/-- SECTION_LOADED (R83): sections are loaded in the order of their entries, each digest checked before use. -/
def sectionLoaded (i : Nat) (m : Mach) : Mach :=
  let im := m.bootImage
  if m.rd WKT_BOOT_STATUS_STAGE = 2 ∧ m.boot.loaderUp ∧ i = m.boot.loaded ∧ i < im.sectionCount then
    match im.sections[i]? with
    | some sec => if sec.digestOk then { m with boot := { m.boot with loaded := i + 1 } } else m.sectionBad
    | none => m.sectionBad
  else m

def execSectionLoaded (i : Nat) (s : State) : Res := act (sectionLoaded i) s

/-- The training cache in use (R77), where a copy is valid. -/
def Flash.cache (f : Flash) : Option TrainCopy :=
  (newest (f.tc0.magicOk && f.tc0.crcOk) (f.tc1.magicOk && f.tc1.crcOk) f.tc0.seq f.tc1.seq).map fun c =>
    if c then f.tc1 else f.tc0

/-- Write a new training-cache copy with a channel's results: the copy not in use, SEQ one higher (R77, R84). -/
def Flash.writeCache (f : Flash) (ch : Nat) (id : DimmId) : Flash :=
  let old := (f.cache).getD {}
  let new : TrainCopy := { magicOk := true, crcOk := true, seq := (old.seq + 1) % 2 ^ 32, chans := SMap.ins old.chans ch id }
  match newest (f.tc0.magicOk && f.tc0.crcOk) (f.tc1.magicOk && f.tc1.crcOk) f.tc0.seq f.tc1.seq with
  | some false => { f with tc1 := new }
  | _ => { f with tc0 := new }

/-- Whether the training cache serves a channel (R84). -/
def Mach.cacheServes (m : Mach) (ch : Nat) (id : DimmId) : Bool :=
  match m.flash.cache with
  | some c => SMap.find c.chans ch = some id
  | none => false

/-- A channel has finished training. -/
def Mach.trainedCh (m : Mach) (ch : Nat) (cached : Bool) : Mach :=
  let b := { m.boot with trained := withBit m.boot.trained ch true, allCached := m.boot.allCached && cached }
  let m := { m with boot := b, selfRefresh := if b.trained ||| b.disabled = 0xFF then false else m.selfRefresh }
  m.wrB WKT_BOOT_STATUS_TRAIN_CACHE (b.trained = 0xFF && b.allCached)

/-- DDR5_TRAINING_DONE (R84, R86): the channel's DIMM as its SPD names it, whether the margin check of a cache load held
and whether a full training, if one ran, succeeded. A channel that fails is disabled and local DDR5 counts as lost. -/
def ddr5TrainingDone (ch : Fin 8) (id : DimmId) (marginOk fullOk : Bool) (m : Mach) : Mach :=
  if (m.starting ∨ (m.rd WKT_BOOT_STATUS_STAGE = 3 ∧ m.tfLast)) ∧ m.pins.vddqPg ∧ m.boot.loaderUp ∧ !bit m.boot.trained ch ∧ !bit m.boot.disabled ch then
    if m.cacheServes ch id && marginOk then m.trainedCh ch true
    else if fullOk then ({ m with flash := m.flash.writeCache ch id }).trainedCh ch false
    else
      let b := { m.boot with disabled := withBit m.boot.disabled ch true, allCached := false }
      let m := ({ m with boot := b }).loseDdr
      let m := { m with selfRefresh := if b.trained ||| b.disabled = 0xFF then false else m.selfRefresh }
      m.error { cls := .contained, block := 5, code := 3, loc := ch.val * 64 }
  else m

def execDdr5TrainingDone (ch : Fin 8) (id : DimmId) (marginOk fullOk : Bool) (s : State) : Res :=
  act (ddr5TrainingDone ch id marginOk fullOk) s

/-- A fuse-request section is carried out (R80): only under key slot 0 or 1, never clearing a blown fuse or lowering the
minimum security version; a request for what is already so is ignored. -/
def Fuses.program (f : Fuses) (im : Image) : Fuses :=
  match im.fuseReq with
  | none => f
  | some q =>
    if im.keyIndex ≤ 1 && q.minSec ≥ f.minSec && (f.key2 == 0 || q.key2 == none || q.key2 == some f.key2) &&
       (f.key3 == 0 || q.key3 == none || q.key3 == some f.key3) then
      { f with key2 := q.key2.getD f.key2, key3 := q.key3.getD f.key3, revoke := f.revoke ||| q.revoke % 16, minSec := q.minSec }
    else f

/-- STAGE_F_REACHED (R73 to R75, R80, R195, R614): every section loaded and every channel trained or disabled, the
manager firmware enables Privet, releases PORT_PERST_N, sets STAGE to F and clears ATTEMPTS; Device Readiness Status goes
to every upstream port; a fuse request is carried out; a TF-256 configuration is imported once. In TF-256 mode channels A and B
are enough (R610), and the host domains of its VCSs exist from here (R598). The SQs fetch again, mems being what their scans read. At the end
of a wake the firmware reports ready in the same way (R570). -/
def stageFReached (l : ModeLatch) (mems : List (Nat × QMem)) (m : Mach) : Mach :=
  let need := if l.tf then 0x03 else 0xFF
  let trained := (m.boot.trained ||| m.boot.disabled) &&& need = need
  if m.rd WKT_PWR_STATUS_STATE = 5 then
    if m.boot.pllLock ∧ trained ∧ m.pins.vlanePg then (m.wakeDone mems).upstreamPorts.foldl (fun m p => m.send (.drs p)) (m.wakeDone mems)
    else m
  else if m.rd WKT_BOOT_STATUS_STAGE = 2 ∧ m.boot.loaderUp ∧ m.boot.loaded = m.bootImage.sectionCount ∧
     trained ∧ m.pins.vlanePg then
    let m := if m.boot.importTf then { m.tfImport with boot := { m.boot with importTf := false } } else m
    let m := m.tfDomains l
    let m := m.privetStageF.releasePerst
    let m := (m.wr WKT_BOOT_STATUS_STAGE 3).wr WKT_BOOT_STATUS_ATTEMPTS 0
    let m := { m with fuses := m.fuses.program m.bootImage }
    let m := m.rescanAll mems
    m.upstreamPorts.foldl (fun m p => m.send (.drs p)) m
  else m

def execStageFReached (mems : List (Nat × QMem)) (s : State) : Res := actL (fun l m => stageFReached l mems m) s

/-- BOOT_WATCHDOG (R74). -/
def bootWatchdog (m : Mach) : Mach :=
  if m.rd WKT_BOOT_STATUS_STAGE = 2 then (m.addSat WKT_BOOT_STATUS_ATTEMPTS 1).disorderly 0x07 false else m

def execBootWatchdog (s : State) : Res := act bootWatchdog s

/-- CONFIG_REQUEST_RETRY (R73): from the upstream PERST release until stage F, and in a wake (R570). -/
def configRequestRetry (p : Port) (tag : Nat) (m : Mach) : Mach :=
  if m.starting ∧ m.rd (TILE_PORT_CTRL_ROLE p) = 1 then m.send (.crs p tag) else m

def execConfigRequestRetry (p : Port) (tag : Nat) (s : State) : Res := act (configRequestRetry p tag) s

/-! ### Core, tile and cold resets by request -/

/-- WARM_RESET_N_FALL (R87, R95, R572): orderly in stage F, disorderly in stage C, DORMANT and WAKING; otherwise the low
pin only holds stage C back. -/
def warmResetNFall (m : Mach) : Mach :=
  let m := { m with pins := { m.pins with warmResetN := false } }
  let pw := m.rd WKT_PWR_STATUS_STATE
  if pw = 4 ∨ pw = 5 ∨ m.rd WKT_BOOT_STATUS_STAGE = 2 then m.disorderly 0x0D false
  else if m.rd WKT_BOOT_STATUS_STAGE = 3 then m.startOrderly 0x03
  else m

def execWarmResetNFall (s : State) : Res := act warmResetNFall s

/-- ORDERLY_DRAIN_TIMEOUT (R89 step 2): the remaining tracker entries are flushed. -/
def orderlyDrainTimeout (m : Mach) : Mach :=
  if m.boot.orderly.isSome ∧ !m.boot.drained then
    { m.flushAllTrackers with boot := { m.boot with drained := true } } else m

def execOrderlyDrainTimeout (s : State) : Res := act orderlyDrainTimeout s

/-- ORDERLY_CORE_RESET (R89 steps 3 to 6): once the tracker is empty or flushed, tier 1 spills into tier 2, DDR5 enters
self-refresh and the dies reset. Tier 1 that still has to wait for evictions is spilled further by the next such command. -/
def orderlyCoreReset (m : Mach) : Mach :=
  match m.boot.orderly with
  | some cause =>
    if m.boot.drained ∨ m.trackerEmpty then
      let m := m.spillTier1
      if m.tier1Out then (m.coreReset true false).recordCause cause else m
    else m
  | none => m

def execOrderlyCoreReset (s : State) : Res := act orderlyCoreReset s

/-- ORDERLY_RESET_DEADLINE (R89): the running orderly reset becomes disorderly, with cause 0x04. -/
def orderlyResetDeadline (m : Mach) : Mach :=
  if m.boot.orderly.isSome then m.disorderly 0x04 false else m

def execOrderlyResetDeadline (s : State) : Res := act orderlyResetDeadline s

/-- DISORDERLY_CORE_RESET (R90), with the cause its trigger records; it is taken under R95. -/
def execDisorderlyCoreReset (cause : Nat) (s : State) : Res := act (Mach.disorderly cause false) s

/-- RESET_CTRL_ORDERLY_CORE (R87): `WKT_RESET_CTRL` with TYPE 1; ignored without the key 0x5A17 (R99). -/
def execResetCtrlOrderlyCore (key : BitVec 16) (s : State) : Res :=
  act (fun m => if key = 0x5A17 then m.startOrderly 0x05 else m) s

/-- RESET_CTRL_IMMEDIATE_CORE (R87). -/
def execResetCtrlImmediateCore (key : BitVec 16) (s : State) : Res :=
  act (fun m => if key = 0x5A17 then m.disorderly 0x06 false else m) s

/-- RESET_CTRL_COLD (R87). -/
def execResetCtrlCold (key : BitVec 16) (s : State) : Res :=
  if key = 0x5A17 then .next (s.cold 0x02) else act id s

/-- RESET_CTRL_TILE (R100). -/
def execResetCtrlTile (t : Tile) (key : BitVec 16) (s : State) : Res :=
  act (fun m => if key = 0x5A17 then m.tileReset t else m) s

/-! ### Thermal sensors and the device-fatal error -/

/-- WARN_C as it acts (R635): a value above the ordering code's maximum junction temperature acts as that. -/
def Mach.warnAt (m : Mach) : Int := min (m.warnC : Int) (Config.maxJunction : Int)

/-- THERMAL_SAMPLE (R63): the sensors' samples in order, each in °C, two's complement. -/
def thermalSample (temps : List Byte) (m : Mach) : Mach :=
  let m := (temps.take 40).zipIdx.foldl (fun m (t, k) => m.wr (WKT_THERM_SENSOR_TEMP k) t.toNat) m
  if (temps.take 40).any (fun t => m.warnAt < t.toInt) then
    (m.raise WKT_THERM_EVENT_WARN).error { cls := .corrected, block := 9, code := 2 }
  else m

def execThermalSample (temps : List Byte) (s : State) : Res := act (thermalSample temps) s

/-- THERMAL_TRIP (R64, R88): a sensor has reached 125 °C: THERMTRIP_N falls, the three enables fall at once, local DDR5
is lost; a disorderly core reset with cause 0x0B, where one is taken (R95), ends in the hold of STAGE 4, HALT_CODE 7.
Slot channels keep their state. -/
def thermalTrip (k : Fin 40) (m : Mach) : Mach :=
  let m := m.wr (WKT_THERM_SENSOR_TEMP k) 125
  let taken := m.takesCore
  let p := m.pins
  let m := { m with pins := { p with thermtripN := false, vlaneEn := false, vddqEn := false, vcoreEn := false,
                                     vlanePg := false, vddqPg := false, vcorePg := false },
                    boot := { m.boot with dropVlane := false, dropVddq := false, dropVcore := false } }
  let m := m.disorderly 0x0B true
  if taken then (m.wr WKT_BOOT_STATUS_STAGE 4).wr WKT_BOOT_STATUS_HALT_CODE 7 else m

def execThermalTrip (k : Fin 40) (s : State) : Res := act (thermalTrip k) s

/-- DEVICE_FATAL_ERROR (R586): Viral first, then the journal record, then the disorderly core reset. -/
def deviceFatalError (block code : Nat) (m : Mach) : Mach := m.deviceFatal block code

def execDeviceFatalError (block code : Nat) (s : State) : Res := act (deviceFatalError block code) s

/-- MG_PERST_N_ASSERT (R50): the management endpoint's functions are in fundamental reset; its MSI-X table returns to
reset (assumption log 9). -/
def mgPerstNAssert (m : Mach) : Mach := { m with pins := { m.pins with mgPerstN := false } }.resetRegs 0xF000 0xF808

def execMgPerstNAssert (s : State) : Res := act mgPerstNAssert s

/-- MG_PERST_N_DEASSERT (R602): a pending identity REVEAL takes effect in TF-256 mode. -/
def execMgPerstNDeassert (s : State) : Res :=
  actL (fun l m => ({ m with pins := { m.pins with mgPerstN := true } }).applyReveal l) s

/-! ### PLDM firmware update (R97, R98) -/

/-- The PLDM commands in R97's order, as the response message numbers them. -/
def pldmRsp (cmd : Nat) (ok : Bool) (vals : List Nat) (m : Mach) : Mach := m.send (.pldm cmd ok vals)

/-- QUERY_DEVICE_IDENTIFIERS. -/
def execQueryDeviceIdentifiers (s : State) : Res := act (pldmRsp 0 true [0x0A10]) s

/-- GET_FIRMWARE_PARAMETERS: the running image's version and the one ready to be activated. -/
def execGetFirmwareParameters (s : State) : Res :=
  act (fun m => pldmRsp 1 true [m.bootImage.fwVersion, if m.pldm.readyImage then m.pldm.image.fwVersion else m.bootImage.fwVersion] m) s

/-- REQUEST_UPDATE: an update starts where none runs. -/
def requestUpdate (m : Mach) : Mach :=
  if m.pldm.st = .idle then pldmRsp 2 true [] { m with pldm := { st := .learnComponents } } else pldmRsp 2 false [] m

def execRequestUpdate (s : State) : Res := act requestUpdate s

/-- PASS_COMPONENT_TABLE: components 0x0001 and 0x0002 exist. -/
def passComponentTable (comps : List Nat) (m : Mach) : Mach :=
  if m.pldm.st = .learnComponents ∧ comps.all (fun c => c = 1 ∨ c = 2) then
    pldmRsp 3 true [] { m with pldm := { m.pldm with st := .readyXfer, table := comps } }
  else pldmRsp 3 false [] m

def execPassComponentTable (comps : List Nat) (s : State) : Res := act (passComponentTable comps) s

/-- The slot that did not boot (R98). -/
def Mach.otherSlot (m : Mach) : Bool := !(m.boot.booted.getD false)

/-- UPDATE_COMPONENT (R98): the component's size and, as records, what its bytes spell. The image goes only to the slot
that did not boot. -/
def updateComponent (comp size : Nat) (im : Image) (pol : Policy) (m : Mach) : Mach :=
  if m.pldm.st = .readyXfer ∧ comp ∈ m.pldm.table ∧ (comp = 1 → size ≤ 32 * 2 ^ 20) ∧ (comp = 2 → size ≤ 32 * 2 ^ 10) then
    pldmRsp 4 true [] { m with pldm := { m.pldm with st := .download, comp := comp, size := size, got := 0, image := im, policy := pol, verified := false } }
  else pldmRsp 4 false [] m

def execUpdateComponent (comp size : Nat) (im : Image) (pol : Policy) (s : State) : Res :=
  act (updateComponent comp size im pol) s

/-- REQUEST_FIRMWARE_DATA (R97, R83): one transfer of 4 KiB; the Wicket island writes it to flash. The target slot holds
no image until the whole component is there, and writing into it clears its BAD bit. -/
def requestFirmwareData (m : Mach) : Mach :=
  if m.pldm.st = .download ∧ m.pldm.got < m.pldm.size then
    let m := { m with pldm := { m.pldm with got := m.pldm.got + 4096 } }
    if m.pldm.comp = 1 then
      let m := { m with flash := m.flash.setSlot m.otherSlot {} }
      m.wr (if m.otherSlot then WKT_BOOT_STATUS_BAD_B else WKT_BOOT_STATUS_BAD_A) 0
    else m
  else m

def execRequestFirmwareData (s : State) : Res := act requestFirmwareData s

/-- TRANSFER_COMPLETE. -/
def transferComplete (m : Mach) : Mach :=
  if m.pldm.st = .download ∧ m.pldm.size ≤ m.pldm.got then
    let m := if m.pldm.comp = 1 then { m with flash := m.flash.setSlot m.otherSlot m.pldm.image } else m
    pldmRsp 6 true [] { m with pldm := { m.pldm with st := .verify } }
  else pldmRsp 6 false [] m

def execTransferComplete (s : State) : Res := act transferComplete s

/-- VERIFY_COMPLETE (R98): R79 on the whole written image, every section digest included. -/
def verifyComplete (m : Mach) : Mach :=
  if m.pldm.st = .verify then
    let ok := if m.pldm.comp = 1 then
        let im := m.flash.slot m.otherSlot
        im.verifies m.fuses && (im.sections.take im.sectionCount).all (·.digestOk)
      else m.pldm.policy.magicOk && m.pldm.policy.crcOk
    pldmRsp 7 ok [] { m with pldm := { m.pldm with st := if ok then .apply else .readyXfer, verified := ok } }
  else pldmRsp 7 false [] m

def execVerifyComplete (s : State) : Res := act verifyComplete s

/-- APPLY_COMPLETE. -/
def applyComplete (m : Mach) : Mach :=
  if m.pldm.st = .apply ∧ m.pldm.verified then
    pldmRsp 8 true [] { m with pldm := { m.pldm with
      st := .readyXfer, readyImage := m.pldm.readyImage || m.pldm.comp = 1, readyPolicy := m.pldm.readyPolicy || m.pldm.comp = 2 } }
  else pldmRsp 8 false [] m

def execApplyComplete (s : State) : Res := act applyComplete s

/-- ACTIVATE_FIRMWARE (R98, R77): the slot pointer record copy that is not in use is rewritten, SEQ one higher, naming
the written slot; a policy block copy likewise. -/
def activateFirmware (m : Mach) : Mach :=
  if m.pldm.readyImage ∨ m.pldm.readyPolicy then
    let f := if m.pldm.readyImage then m.flash.writePtr m.otherSlot else m.flash
    let f := if m.pldm.readyPolicy then f.writePolicy m.pldm.policy else f
    pldmRsp 9 true [] { m with flash := f, pldm := {} }
  else pldmRsp 9 false [] m

def execActivateFirmware (s : State) : Res := act activateFirmware s

/-- The number of an update state. -/
def PldmState.num : PldmState → Nat
  | .idle => 0 | .learnComponents => 1 | .readyXfer => 2 | .download => 3 | .verify => 4 | .apply => 5

/-- GET_STATUS. -/
def execGetStatus (s : State) : Res := act (fun m => pldmRsp 10 true [m.pldm.st.num, m.pldm.got] m) s

/-- CANCEL_UPDATE_COMPONENT: the transfer of one component ends. -/
def cancelUpdateComponent (m : Mach) : Mach :=
  match m.pldm.st with
  | .download | .verify | .apply => pldmRsp 11 true [] { m with pldm := { m.pldm with st := .readyXfer, comp := 0, got := 0, verified := false } }
  | _ => pldmRsp 11 false [] m

def execCancelUpdateComponent (s : State) : Res := act cancelUpdateComponent s

/-- CANCEL_UPDATE: the update ends and nothing of it is activated. -/
def cancelUpdate (m : Mach) : Mach :=
  if m.pldm.st = .idle then pldmRsp 12 false [] m else pldmRsp 12 true [] { m with pldm := {} }

def execCancelUpdate (s : State) : Res := act cancelUpdate s

end Sys2Proof.Machine
end

