-- ==== Sys2Proof/Machine/Lane.lean ====
section
/-! DEFINITION. Sys2Proof/Machine/Lane.lean: the lanes (04): calibration and rate changes, clock recovery and signal
detection, equalisation, test mode, the injector, the loopback. -/
namespace Sys2Proof.Machine

/-- What a lane holds beyond its registers. -/
def Mach.lx (m : Mach) (l : Nat) : LaneX := SMap.get {} m.lanes l
def Mach.updLx (m : Mach) (l : Nat) (f : LaneX → LaneX) : Mach := { m with lanes := SMap.set {} m.lanes l (f (m.lx l)) }

/-- LANE_CALIBRATE (R112): after VLANE_PG has risen, the lane starts at rate code 0. -/
def laneCalibrate (l : Lane) (m : Mach) : Mach :=
  if m.pins.vlanePg then (m.wr (LANE_STATUS_RATE l) 0).wr (LANE_STATUS_PLL_LOCK l) 1 else m

def execLaneCalibrate (l : Lane) (s : State) : Res := act (laneCalibrate l) s

/-- LANE_RATE_CHANGE (R104, R112): the steps in order; a step that fails shows in `LANE_STATUS`. -/
def laneRateChange (l : Lane) (rate : Fin 7) (pll cdr adapt : Bool) (m : Mach) : Mach :=
  if rate.val ≤ m.rd (LANE_CTRL_MAX_RATE l) ∧ !m.flag (LANE_TEST_CTRL_TEST_OWN l) then
    let m := (m.wr (LANE_STATUS_RATE l) rate).wrB (LANE_STATUS_PLL_LOCK l) pll
    (m.wrB (LANE_STATUS_CDR_LOCK l) (pll && cdr)).wrB (LANE_RXEQ_ADAPT_DONE l) (pll && cdr && adapt)
  else m

def execLaneRateChange (l : Lane) (rate : Fin 7) (pll cdr adapt : Bool) (s : State) : Res :=
  act (laneRateChange l rate pll cdr adapt) s

/-- CDR_LOCK (R106). -/
def execCdrLock (l : Lane) (s : State) : Res := act (fun m => m.wr (LANE_STATUS_CDR_LOCK l) 1) s

/-- CDR_LOSS_OF_LOCK (R106, R109): no LOL while loss of signal is asserted. -/
def cdrLossOfLock (l : Lane) (m : Mach) : Mach :=
  if m.flag (LANE_STATUS_LOS l) then m else (m.wr (LANE_STATUS_CDR_LOCK l) 0).raise (LANE_EVENT_LOL l)

def execCdrLossOfLock (l : Lane) (s : State) : Res := act (cdrLossOfLock l) s

/-- LOS_ASSERT (R108, R109): the CDR holds its estimate and is no longer locked to a signal (assumption log 11). -/
def losAssert (l : Lane) (m : Mach) : Mach :=
  if m.flag (LANE_STATUS_LOS l) then m
  else ((m.wr (LANE_STATUS_LOS l) 1).wr (LANE_STATUS_CDR_LOCK l) 0).raise (LANE_EVENT_LOS_SET l)

def execLosAssert (l : Lane) (s : State) : Res := act (losAssert l) s

/-- LOS_DEASSERT (R108). -/
def losDeassert (l : Lane) (m : Mach) : Mach :=
  if m.flag (LANE_STATUS_LOS l) then (m.wr (LANE_STATUS_LOS l) 0).raise (LANE_EVENT_LOS_CLR l) else m

def execLosDeassert (l : Lane) (s : State) : Res := act (losDeassert l) s

/-- LOS_RELOCK_TIMEOUT (R109). -/
def losRelockTimeout (l : Lane) (m : Mach) : Mach :=
  if !m.flag (LANE_STATUS_LOS l) ∧ !m.flag (LANE_STATUS_CDR_LOCK l) then m.raise (LANE_EVENT_LOL l) else m

def execLosRelockTimeout (l : Lane) (s : State) : Res := act (losRelockTimeout l) s

/-- A coefficient set as `LANE_TXEQ` lays it out is valid at a rate code (R113). -/
def txeqValid (v rate : Nat) : Bool :=
  let m2 := (sext v 5).natAbs
  let m1 := (sext (v / 2 ^ 5) 6).natAbs
  let c0 := v / 2 ^ 11 % 2 ^ 7
  let p1 := (sext (v / 2 ^ 18) 6).natAbs
  let p2 := (sext (v / 2 ^ 24) 5).natAbs
  m2 + m1 + c0 + p1 + p2 ≤ 63 && m2 + m1 + p1 + p2 ≤ c0 && (6 ≤ rate || (m2 == 0 && p2 == 0))

/-- Load a coefficient set, or refuse it (R113). -/
def Mach.loadTxeq (m : Mach) (l v : Nat) : Mach :=
  if txeqValid v (m.rd (LANE_STATUS_RATE l)) then
    let f := LANE_TXEQ_C_M2 l
    m.setReg f.off (putField (m.reg f.off) 0 29 v)
  else m.raise (LANE_EVENT_TXEQ_REJ l)

/-- LANE_TXEQ_WRITE (R113, R114): a write that spells an invalid set is refused whole (R621). -/
def laneTxeqWrite (l : Lane) (v : BitVec 32) (m : Mach) : Mach :=
  if bit v.toNat 31 then
    if txeqValid v.toNat (m.rd (LANE_STATUS_RATE l)) then (m.loadTxeq l v.toNat).wr (LANE_TXEQ_SW_OWN l) 1
    else m.raise (LANE_EVENT_TXEQ_REJ l)
  else m.wr (LANE_TXEQ_SW_OWN l) 0

def execLaneTxeqWrite (l : Lane) (v : BitVec 32) (s : State) : Res := act (fun m => m.orShut (l / 16) (LANE_TXEQ l) v.toNat (laneTxeqWrite l v)) s

/-- COEFFICIENT_REQUEST (R113, R114). -/
def coefficientRequest (l : Lane) (v : BitVec 32) (m : Mach) : Mach :=
  if m.flag (LANE_TXEQ_SW_OWN l) then m.send (.coefReject l) else m.loadTxeq l v.toNat

def execCoefficientRequest (l : Lane) (v : BitVec 32) (s : State) : Res := act (coefficientRequest l v) s

/-- LANE_RXEQ_MODE_WRITE (R115): mode 2 uses the peaking and gain as written. -/
def laneRxeqModeWrite (l : Lane) (v : BitVec 32) (m : Mach) : Mach :=
  let f := LANE_RXEQ_ADAPT_MODE l
  let m := m.setReg f.off (putField (m.reg f.off) 0 12 v.toNat)
  if v.toNat % 4 = 2 then
    (m.wr (LANE_RXEQ_CTLE_USED l) (v.toNat / 4 % 16)).wr (LANE_RXEQ_VGA_USED l) (v.toNat / 64 % 64)
  else m

def execLaneRxeqModeWrite (l : Lane) (v : BitVec 32) (s : State) : Res :=
  act (fun m => m.orShut (l / 16) (LANE_RXEQ l) v.toNat (laneRxeqModeWrite l v)) s

/-- CHK_CLR (R116). -/
def chkClr (l : Lane) (m : Mach) : Mach :=
  (((m.wr (LANE_INJ_COUNT_COUNT l) 0).wr (LANE_CHK_BITS_COUNT l) 0).wr (LANE_CHK_ERRS_COUNT l) 0).wr
    (LANE_TEST_STATUS_SYNC_LOSS_CNT l) 0

def execChkClr (l : Lane) (s : State) : Res :=
  act (fun m => m.orShut (l / 16) (LANE_TEST_CTRL l) ((m.reg (LANE_TEST_CTRL l)).toNat ||| 2 ^ 14) (chkClr l)) s

/-- Software may take a lane for test (R116): it belongs to no configured port, or its port's link is disabled. -/
def Mach.mayTest (m : Mach) (l : Nat) : Bool :=
  match m.portOfLane l with | none => true | some p => m.linkDis p

/-- A test pattern may run at a rate (R117). -/
def patternOk (pat rate : Nat) : Bool := pat ≤ 8 && (!(pat == 6 || pat == 7) || 5 ≤ rate)

/-- LANE_TEST_CTRL_WRITE (R116, R117): the whole write is ignored where TEST_OWN is refused; clearing TEST_OWN stops the
generator, the checker and the loopback and returns to rate code 0. -/
def laneTestCtrlWrite (l : Lane) (v : BitVec 32) (m : Mach) : Mach :=
  let w := v.toNat
  if bit w 0 && !m.mayTest l then m.raise (LANE_EVENT_TEST_REFUSED l)
  else
    let f := LANE_TEST_CTRL_TEST_OWN l
    let was := m.flag f
    let m := m.setReg f.off (putField (m.reg f.off) 0 14 w)
    let m := m.wrB (LANE_STATUS_TEST_OWN l) (bit w 0)
    let m := if bit w 14 then chkClr l m else m
    let quiet := fun (m : Mach) => (m.wr (LANE_TEST_STATUS_CHK_LOCK l) 0).wr (LANE_TEST_STATUS_PAT_INV l) 0
    if bit w 0 then
      let rate := w / 2 % 8
      let gen := w / 16 % 16
      let chk := w / 256 % 16
      let m := (m.wr (LANE_STATUS_RATE l) rate).raiseIf (!patternOk gen rate || !patternOk chk rate) (LANE_EVENT_PAT_CFG_ERR l)
      (quiet m).updLx l fun x => { x with gen := gen != 0 && patternOk gen rate, chk := chk != 0 && patternOk chk rate }
    else if was then
      ((quiet m).wr (LANE_STATUS_RATE l) 0).updLx l fun x => { x with gen := false, chk := false }
    else m

def execLaneTestCtrlWrite (l : Lane) (v : BitVec 32) (s : State) : Res :=
  act (fun m => m.orShut (l / 16) (LANE_TEST_CTRL l) v.toNat (laneTestCtrlWrite l v)) s

/-- CHECKER_LOCK (R118). -/
def checkerLock (l : Lane) (inv : Bool) (m : Mach) : Mach :=
  if (m.lx l).chk then (m.wr (LANE_TEST_STATUS_CHK_LOCK l) 1).wrB (LANE_TEST_STATUS_PAT_INV l) inv else m

def execCheckerLock (l : Lane) (inv : Bool) (s : State) : Res := act (checkerLock l inv) s

/-- CHK_SYNC_LOSS (R118): the bits compared and the errors since lock enter the counters with the loss. -/
def chkSyncLoss (l : Lane) (bits errs : Nat) (m : Mach) : Mach :=
  if m.flag (LANE_TEST_STATUS_CHK_LOCK l) then
    let m := (m.addSat (LANE_CHK_BITS_COUNT l) bits).addSat (LANE_CHK_ERRS_COUNT l) errs
    ((m.wr (LANE_TEST_STATUS_CHK_LOCK l) 0).addSat (LANE_TEST_STATUS_SYNC_LOSS_CNT l) 1).raise (LANE_EVENT_CHK_SYNC_LOSS l)
  else m

def execChkSyncLoss (l : Lane) (bits errs : Nat) (s : State) : Res := act (chkSyncLoss l bits errs) s

/-- The injector may act now (R120): on the generator's output in test mode; with TARGET 1 also on live traffic. -/
def Mach.injects (m : Mach) (l : Nat) : Bool := (m.lx l).gen || m.flag (LANE_INJ_CTRL_TARGET l)

/-- INJ_FIRE (R119, R120): the flip or the burst that a FIRE started lands, and its bits are counted. -/
def injFire (l : Lane) (m : Mach) : Mach :=
  let n := (m.lx l).flip
  let m := m.updLx l fun x => { x with flip := 0 }
  if m.injects l then m.addSat (LANE_INJ_COUNT_COUNT l) n else m

def execInjFire (l : Lane) (s : State) : Res := act (injFire l) s

/-- A mode-3 rate is in range (R119): mantissa 1 to 9, and 1e-12 to 1e-3. -/
def injRateOk (mant exp : Nat) : Bool := 1 ≤ mant && mant ≤ 9 && ((4 ≤ exp && exp ≤ 12) || (exp == 3 && mant == 1))

/-- LANE_INJ_CTRL_WRITE (R119): a FIRE in modes 1 and 2 starts a flip or a burst where none is pending. -/
def laneInjCtrlWrite (l : Lane) (v : BitVec 32) (m : Mach) : Mach :=
  let w := v.toNat
  let mode := w % 4
  let f := LANE_INJ_CTRL_MODE l
  let m := (m.setReg f.off (putField (m.reg f.off) 0 16 w)).wrB (LANE_INJ_CTRL_TARGET l) (bit w 17)
  let m := m.raiseIf (mode == 3 && !injRateOk (w / 2 ^ 8 % 16) (w / 2 ^ 12 % 16)) (LANE_EVENT_INJ_CFG_ERR l)
  if bit w 16 && (mode == 1 || mode == 2) && (m.lx l).flip == 0 then
    m.updLx l fun x => { x with flip := if mode = 1 then 1 else w / 4 % 64 + 1 }
  else m

def execLaneInjCtrlWrite (l : Lane) (v : BitVec 32) (s : State) : Res :=
  act (fun m => m.orShut (l / 16) (LANE_INJ_CTRL l) v.toNat (laneInjCtrlWrite l v)) s

/-- FE_SLIP (R121). -/
def feSlip (l : Lane) (m : Mach) : Mach :=
  m.raiseIf (m.flag (LANE_TEST_CTRL_TEST_OWN l) && m.rd (LANE_TEST_CTRL_LOOPBACK l) == 3) (LANE_EVENT_FE_SLIP l)

def execFeSlip (l : Lane) (s : State) : Res := act (feSlip l) s

end Sys2Proof.Machine
end

