-- ==== Sys2Proof/Machine/Power.lean ====
section
/-! DEFINITION. Sys2Proof/Machine/Power.lean: Shutter, IDLE, DORMANT and the wake (20). -/
namespace Sys2Proof.Machine

/-! ### Shutter (R557 to R559, R595) -/

/-- Every port of a tile is disabled and has been flushed (R557). -/
def Mach.mayGate (m : Mach) (t : Nat) : Bool :=
  (m.tilePorts t).all fun p => m.linkDis p && !m.linkUp p && !(m.px p).flushing

/-- What a gated tile loses (R558): its output queues, tracker entries and egress buffer; its counters read 0. -/
def Mach.gateTile (m : Mach) (t : Nat) : Mach :=
  { m with
    trk := SMap.drop m.trk (t * 2048) (t * 2048 + 2048), trkWait := SMap.drop m.trkWait (t * 16) (t * 16 + 16),
    voqs := SMap.drop m.voqs (t * 512) (t * 512 + 512), egress := SMap.drop m.egress (t * 1024) (t * 1024 + 1024),
    egOcc := SMap.drop m.egOcc (t * 128) (t * 128 + 128), egDrr := SMap.drop m.egDrr (t * 128) (t * 128 + 128) }.resetRegs
    (CNT_TILE t 0) (CNT_TILE t 128)

/-- SHUTTER_WRITE: refused as a whole where a tile to be gated still has a port in use, or where a tile without a personality would be
ungated; an ungated tile shows so once it has calibrated. -/
def shutterWrite (l : ModeLatch) (mask : Word) (m : Mach) : Mach :=
  let old := m.rd WKT_SHUTTER_TILE
  let w := mask.toNat
  let new := (List.range 64).filter fun t => bit w t && !bit old t
  let keep := if l.tf then tfUnused l.personalities else 0
  if new.any (fun t => !m.mayGate t) || w &&& keep != keep then m.raise WKT_PWR_EVENT_SHUTTER_REFUSED
  else new.foldl Mach.gateTile ((m.wr WKT_SHUTTER_TILE w).setGated (m.rd WKT_SHUTTER_STATUS_TILE ||| w))

def execShutterWrite (mask : Word) (s : State) : Res := actL (fun l m => shutterWrite l mask m) s

/-! ### IDLE (R560, R561) -/

/-- A walk of Privet runs: for a quota, a dead member, a coverage removal, or lines still to be evicted. -/
def Mach.privetWalks (m : Mach) : Bool :=
  !m.quotaWalk.isEmpty || !m.deadWalks.isEmpty || !m.toEvict.isEmpty || m.changes.any fun c => c.needWalk

/-- The conditions of R560 that the state shows; that links of CXL and PCIe are in L1, that firmware threads have waited, and the time of
IDLE_HOLD are what the row says. -/
def Mach.mayIdle (m : Mach) : Bool :=
  m.flag WKT_PWR_CTRL_IDLE_EN && m.trackerEmpty && m.chans.isEmpty && m.hinges.isEmpty && !m.privetWalks && !m.recovering && !m.rebuilding &&
  m.allPorts.all (fun p => !m.isZitch p || !m.linkUp p || m.zState p == zLp) &&
  m.threads.all fun (x : Nat × Thread) => x.2.manager && match x.2.hold with | some (.wait _ _) => true | _ => false

/-- IDLE_ENTRY. -/
def idleEntry (m : Mach) : Mach :=
  if m.rd WKT_BOOT_STATUS_STAGE = 3 ∧ m.rd WKT_PWR_STATUS_STATE ≤ 1 ∧ m.boot.orderly.isNone ∧ m.mayIdle then m.wr WKT_PWR_STATUS_STATE 2 else m

def execIdleEntry (s : State) : Res := act idleEntry s

/-- IDLE_EXIT. -/
def idleExit (m : Mach) : Mach := if m.rd WKT_PWR_STATUS_STATE = 2 then m.wr WKT_PWR_STATUS_STATE m.onState else m

def execIdleExit (s : State) : Res := act idleExit s

/-! ### DORMANT (R562 to R567) -/

/-- The plain fields of `WKT_PWR_CTRL` take a written value; REQ reads 0. -/
def Mach.pwrCtrl (m : Mach) (w : Nat) : Mach :=
  m.setReg WKT_PWR_CTRL (BitVec.ofNat 64 (w / 256 % 256 * 256 + w / 4 % 4 * 4))

/-- DORMANT_REQUEST (R562 step 1), or its refusal with ABORT_CODE 5. -/
def dormantRequest (v : BitVec 32) (l2 : Bool) (m : Mach) : Mach :=
  let m := m.pwrCtrl v.toNat
  if m.rd WKT_PWR_STATUS_STATE ≥ 3 then m
  else
    let links := m.flag WKT_PWR_CTRL_FORCE || l2 || m.upstreamPorts.all fun p => !m.linkUp p
    let busy := m.privetWalks || m.rebuilding || m.recovering || (m.mir.any fun (x : Nat × MirPair) => x.2.st0 == .resync || x.2.st1 == .resync) ||
      m.pldm.st != .idle
    if m.rd WKT_BOOT_STATUS_STAGE = 3 && m.boot.orderly.isNone && links && !busy then
      let m := { m with pw := {} }
      ((m.wr WKT_PWR_STATUS_STATE 3).dropFetched).freezeTenants
    else (m.wr WKT_PWR_STATUS_ABORT_CODE 5).raise WKT_PWR_EVENT_ENTRY_ABORT

def execDormantRequest (v : BitVec 32) (l2 : Bool) (s : State) : Res := act (dormantRequest v l2) s

/-- DORMANT_DRAIN_TIMEOUT (R563). -/
def dormantDrainTimeout (mems : List (Nat × QMem)) (m : Mach) : Mach :=
  if m.rd WKT_PWR_STATUS_STATE = 3 ∧ !m.pw.committed ∧ !m.dormantDrained then m.dormantAbandon 3 mems else m

def execDormantDrainTimeout (mems : List (Nat × QMem)) (s : State) : Res := act (dormantDrainTimeout mems) s

/-- DORMANT_COMMIT (R562 steps 2 to 5, R564, R565): once all has drained, tier 1 spills, merged errors are written and DDR5 enters self-refresh;
with the last of it, the commit point: VLANE_EN falls, VCORE_EN follows, and the dies' contents go. -/
def dormantCommit (m : Mach) : Mach :=
  if m.rd WKT_PWR_STATUS_STATE = 3 ∧ !m.pw.committed then
    let m := m.freezeTenants
    if !m.dormantDrained then m
    else
      let m := m.spillTier1
      if !m.tier1Out then m
      else
        let m := m.coreOff true
        let m : Mach := { m with
          pw := { m.pw with committed := true, window := true },
          keepLost := m.keepLost ||| (0xFF00 - m.rd WKT_KEEP_SEL_SEL * 256),
          boot := { m.boot with pllLock := false, trained := 0, allCached := true } }
        m.startDrop true false true
  else m

def execDormantCommit (s : State) : Res := act dormantCommit s

/-! ### Wake (R568 to R571) -/

/-- The pin WAKE_N as it stands. -/
def Mach.setWakeN (m : Mach) (low : Bool) : Mach := { m with pins := { m.pins with wakeN := !low } }

/-- WAKE_WINDOW_END (R569): WAKE_N is sampled; edge events are taken again. -/
def wakeWindowEnd (low : Bool) (m : Mach) : Mach :=
  if m.pw.window then
    let m := { m.setWakeN low with pw := { m.pw with window := false } }
    let m := if low then m.wakeEdge 0 else m
    if m.rd WKT_PWR_STATUS_STATE = 4 ∧ m.pw.pend ≠ 0 then m.wakeStart else m
  else m

def execWakeWindowEnd (low : Bool) (s : State) : Res := act (wakeWindowEnd low) s

/-- WAKE_REQUEST (R568): REQ = 2. -/
def wakeRequest (v : BitVec 32) (m : Mach) : Mach := (m.pwrCtrl v.toNat).wakeEdge 1

def execWakeRequest (v : BitVec 32) (s : State) : Res := act (wakeRequest v) s

/-- WAKE_TIMER_EXPIRY (R568): the timer runs from the commit point; 0 disables it. -/
def wakeTimerExpiry (m : Mach) : Mach := if m.pw.committed ∧ m.rd WKT_WAKE_TIMER_MS ≠ 0 then m.wakeEdge 2 else m

def execWakeTimerExpiry (s : State) : Res := act wakeTimerExpiry s

/-- WAKE: a source that has been taken, or WAKE_N low, cancels an entry before the commit point (R563), or starts the wake from DORMANT. -/
def wake (low : Bool) (mems : List (Nat × QMem)) (m : Mach) : Mach :=
  let m := m.setWakeN low
  let m := if low then m.wakeEdge 0 else m
  if m.pw.pend = 0 then m
  else if m.rd WKT_PWR_STATUS_STATE = 3 ∧ !m.pw.committed then m.dormantAbandon 4 mems
  else if m.rd WKT_PWR_STATUS_STATE = 4 then m.wakeStart
  else m

def execWake (low : Bool) (mems : List (Nat × QMem)) (s : State) : Res := act (wake low mems) s

/-- WAKE_ABORT (R571): the enables that the wake asserted fall in reverse order. -/
def wakeAbort (vlane : Bool) (m : Mach) : Mach :=
  let p := m.pins
  let late := if vlane then p.vlaneEn && !p.vlanePg else p.vcoreEn && !p.vcorePg
  if m.rd WKT_PWR_STATUS_STATE = 5 ∧ late then
    let m := (((m.wr WKT_PWR_STATUS_STATE 4).wr WKT_PWR_STATUS_ABORT_CODE (if vlane then 2 else 1)).raise WKT_PWR_EVENT_WAKE_ABORT).startDrop true false true
    { m with selfRefresh := true, boot := { m.boot with pllLock := false, trained := 0 } }
  else m

def execWakeAbort (vlane : Bool) (s : State) : Res := act (wakeAbort vlane) s

/-- Whether ALERT_N is asserted (R63, R571, 19): an enabled event of a slot channel, of ORing or of the thermal sensors, or an aborted wake. -/
def Mach.alert (m : Mach) : Bool :=
  m.flag WKT_PWR_EVENT_WAKE_ABORT ||
  m.regs.any fun (x : Nat × Word) => 0x100000 ≤ x.1 && x.1 < 0x200000 && x.1 != WKT_PWR_EVENT && eventGroup x.1 == some 0 && x.2 &&& m.reg (x.1 + 4) != 0

end Sys2Proof.Machine
end

