-- ==== Sys2Proof/Machine/Ras.lean ====
section
/-! DEFINITION. Sys2Proof/Machine/Ras.lean: completion timeouts, Viral, the error journal, scrub and reload, lockstep (21, 16). -/
namespace Sys2Proof.Machine

/-! ### Completion timeout (R580 to R583) -/

/-- What a fired timer does to the requester (R581), with the code that is recorded: a posted write has no response; a write is possibly lost,
with Viral for CXL.mem; an atomic hold of the line ends; the entry stays for late responses. -/
def Mach.timedOut (m : Mach) (key : Nat) (e : Trk) (code : Nat) : Mach :=
  let k := e.x.line
  let m := match e.x.coh.isSome, e.req.kind, m.line k with
    | true, .atomic _ _ _ _, some l => if l.hold && (l.by_ == FlowBy.entry key || l.queue.contains key) then m.setLine k { l with hold := false } else m
    | _, _, _ => m
  let m := if e.req.kind = .ioWrite then m.updEntry key fun e => { e with answered := true } else m.answer key (e.req.failRsp .ca) .timeout none
  let m := m.updEntry key fun e => { e with late := true }
  let m := m.error { cls := .contained, block := 1, code := code, port := some e.x.port, dom := some e.dom, addr := e.req.addr }
  let m := m.count (CNT_DOM e.dom 15) 1
  let lost := (e.req.kind.writes || e.phase == .writing) && e.req.kind != .ioWrite && !e.req.zitch
  let m := if lost then m.viralDom e.dom else m
  m.updHinge e.dom fun h => if h.op == 1 && h.draining then { h with timeouts := h.timeouts + 1 } else h

/-- COMPLETION_TIMEOUT (R581, R248): nothing for an entry that has its answer and nothing outstanding, or that waits for a dead host's walk
(R580). A request that waits on its owner's write-back goes on against state I, and the line is lost (R248); a read of a mirror pair goes on
at the other member. -/
def completionTimeout (key : Nat) (m : Mach) : Mach :=
  match m.entry key with
  | none => m
  | some e =>
    let k := e.x.line
    let coh := e.x.coh.isSome
    if e.late || e.phase = .draining || (e.answered && e.outs.isEmpty) || (coh && !e.answered && m.deadOwned k) then m
    else
      let wait := coh && match m.line k with | some l => l.ownerWait && l.by_ == FlowBy.entry key | none => false
      if wait then
        let g := match m.ent k with | some x => x.owner | none => 0
        let kind := match m.line k with | some l => l.kind | none => e.req.kind
        (m.lineLost k g 3).flowStart k key kind
      else
        let rd := !e.req.kind.writes && e.phase != .writing
        match rd && !e.reissued && e.outs.contains e.x.port, m.otherMember e.x, e.x.pair with
        | true, some x, some i =>
          let m := (m.mirFail i e.x.member).mirRelease.takeBack key e.x.port
          (m.updEntry key fun e => { e with x := { e.x with port := x.port, ld := x.ld, dpa := x.dpa, member := x.member }, reissued := true }).issue
            key e.req.kind.atDevice e.req.data e.req.mask e.req.poison false
        | _, _, _ => m.timedOut key e 4

def execCompletionTimeout (key : Nat) (s : State) : Res := act (completionTimeout key) s

/-- LATE_PERIOD_END (R582): the port of each device at which the request is outstanding is contained, and its flush ends the entry. -/
def latePeriodEnd (key : Nat) (m : Mach) : Mach :=
  match m.entry key with
  | none => m
  | some e =>
    if !e.late then m
    else (e.outs ++ (if e.specTag.isSome then [e.x.port] else [])).eraseDups.foldl (fun (m : Mach) p => m.contain p 1 5) m

def execLatePeriodEnd (key : Nat) (s : State) : Res := act (latePeriodEnd key) s

/-- LATE_RESPONSE (R582): a response of an entry whose timer has fired; responseReceive consumes it. -/
def lateResponse (p : Port) (tag : Fin 8192) (r : Rsp) (load : Option (Fin 4)) (m : Mach) : Mach :=
  match (SMap.find m.tags (tileOf p * 8192 + tag)).bind fun v => m.entry (v / 1024) with
  | some e => if e.late then responseReceive p tag r load m else m
  | none => m

def execLateResponse (p : Port) (tag : Fin 8192) (r : Rsp) (load : Option (Fin 4)) (s : State) : Res := act (lateResponse p tag r load) s

/-! ### Viral (R585) -/

/-- VIRAL: of an upstream port itself, of a bound device toward its host, or of a pooled device, which is contained. -/
def viralRow (p : Port) (m : Mach) : Mach :=
  if m.isUp p then m.viral p
  else if m.portPooled p then m.contain p 2 6
  else match m.bound p with
    | some b => m.viral b.up
    | none => m

def execViral (p : Port) (s : State) : Res := act (viralRow p) s

/-- VIRAL_CLEAR: PERST# or a hot reset of an upstream port; its switch functions take the identity that REVEAL asks for (R602). -/
def viralClear (p : Port) (m : Mach) : Mach :=
  if m.isUp p then
    let i := p.val / 32
    let m := m.wr (ERR_VIRAL_STATUS_PORTS i) (withBit (m.rd (ERR_VIRAL_STATUS_PORTS i)) (p.val % 32) false)
    (m.updPx p fun x => { x with viral := false }).revealPort p
  else m

def execViralClear (p : Port) (s : State) : Res := act (viralClear p) s

/-! ### The journal (R587 to R590) -/

/-- The class of a code (R590); none for one that is reserved. -/
def codeClass (block code : Nat) : Option ErrClass :=
  match block, code with
  | 0, 1 | 0, 2 | 0, 3 | 1, 1 | 1, 6 | 2, 2 | 3, 1 | 3, 2 => some .corrected
  | 4, 1 | 4, 2 | 4, 3 | 4, 4 | 4, 5 | 4, 6 | 4, 10 => some .corrected
  | 5, 1 | 5, 4 | 7, 1 | 7, 3 | 7, 4 | 8, 1 | 8, 2 | 8, 3 | 9, 1 | 9, 2 => some .corrected
  | 1, 2 | 1, 4 | 1, 7 | 1, 8 | 4, 7 | 4, 9 | 5, 2 | 5, 3 | 6, 1 | 11, 1 => some .contained
  | 1, 3 | 1, 5 | 2, 1 | 2, 3 | 2, 4 | 2, 5 | 2, 6 | 3, 3 => some .portFatal
  | 0, 4 | 4, 8 | 7, 2 => some .deviceFatal
  | _, _ => none

/-- What an uncorrectable error of the switch's own memories makes of what it hit (R584, R590). -/
def Mach.poisonAt (m : Mach) (block code : Nat) : FaultAt → Mach
  | .entry key =>
    if block = 1 ∧ code = 2 then m.updEntry key fun e =>
      { e with buf := e.buf.map fun (x : Nat × Bool) => (x.1, true), req := { e.req with poison := true },
               arrived := e.arrived.map fun r => match r with | .data v _ g => .data v true g | r => r }
    else m
  | .chunk ch off =>
    if block = 6 ∧ code = 1 then m.updChan ch fun c => c.updChunk off fun k =>
      { k with lines := k.lines.map fun (x : Nat × (Nat × Bool)) => (x.1, x.2.1, true) }
    else m
  | .cqEntry d c i =>
    if block = 11 ∧ code = 1 then m.updCq d c fun q =>
      { q with ovf := q.ovf.zipIdx.map fun (x : CqEnt × Nat) => if x.2 = i then { x.1 with status := 6, sub := 48 } else x.1 }
    else m
  | .nothing => m

/-- JOURNAL_RECORD: an error of the table is detected. Its class decides what follows: nothing further, the containment of a port (of every
port of the tile, with a tile reset, for 0x1,3), or the reset of a device-fatal error; a damaged tracker entry is answered at once. -/
def journalRecord (e : ErrRec) (x : FaultAt) (m : Mach) : Mach :=
  match codeClass e.block e.code with
  | none => m
  | some .deviceFatal => m.deviceFatal e.block e.code
  | some .portFatal =>
    if e.block = 1 ∧ e.code = 3 then
      let t := e.loc % 64
      ((m.tilePorts t).foldl (fun (m : Mach) p => m.contain p 1 3) m).tileReset t
    else (match e.port with
      | some p => if m.portExists p then m.contain p e.block e.code else m.error { e with cls := .portFatal }
      | none => m.error { e with cls := .portFatal })
  | some c =>
    match x, e.block == 1 && e.code == 8 with
    | .entry key, true => (match m.entry key with | some t => if t.late then m else m.timedOut key t 8 | none => m)
    | _, _ => (m.poisonAt e.block e.code x).error { e with cls := c }

def execJournalRecord (e : ErrRec) (x : FaultAt) (s : State) : Res := act (journalRecord e x) s

/-- COALESCE_WINDOW_END (R589). -/
def coalesceWindowEnd (i : Nat) (m : Mach) : Mach := match m.merging[i]? with | some g => m.mergedOut g | none => m

def execCoalesceWindowEnd (i : Nat) (s : State) : Res := act (coalesceWindowEnd i) s

/-- ERR_JRN_TAIL_WRITE (R587). -/
def errJrnTailWrite (v : BitVec 32) (m : Mach) : Mach := m.wr ERR_JRN_TAIL_COUNT v.toNat

def execErrJrnTailWrite (v : BitVec 32) (s : State) : Res := act (errJrnTailWrite v) s

/-! ### Scrub, reload, first-error records (R578, R579, R591) -/

/-- PATROL_SCRUB: a corrected location is rewritten; an uncorrectable one is repaired in mirrored tier 2, is a lost bucket in unmirrored tier 2
(R577), and is written with the poison pattern elsewhere. -/
def patrolScrub (x : ScrubAt) (f : ScrubFind) (m : Mach) : Mach :=
  if m.rd ERR_SCRUB_HOURS = 0 then m
  else match f, x with
    | .good, _ => m
    | .corrected, .bucket b => m.error { cls := .corrected, block := 5, code := 1, loc := b % 8 * 64 }
    | .corrected, .line ch l => m.error { cls := .corrected, block := 5, code := 1, addr := l * 64, loc := ch.val * 64 }
    | .uncorrectable, .bucket b =>
      if m.flag PVT_T2_CFG_MIRROR then m.error { cls := .corrected, block := 5, code := 4, loc := b % 8 * 64 } else lostBucket b m
    | .uncorrectable, .line ch l =>
      let m := { m with ddrBad := if m.ddrBad.contains l then m.ddrBad else m.ddrBad ++ [l] }
      m.error { cls := .corrected, block := 5, code := 4, addr := l * 64, loc := ch.val * 64 }

def execPatrolScrub (x : ScrubAt) (f : ScrubFind) (s : State) : Res := act (patrolScrub x f) s

/-- TABLE_RELOAD (R579): the entry's content is as before; the reload is recorded. -/
def tableReload (k : ReloadKind) (addr : Nat) (m : Mach) : Mach :=
  match k with
  | .table | .program => m.error { cls := .corrected, block := 7, code := 4, addr := addr }
  | _ => m.error { cls := .corrected, block := 8, code := 3, addr := addr }

def execTableReload (k : ReloadKind) (addr : Nat) (s : State) : Res := act (tableReload k addr) s

/-- A domain's first-error record is zeroed (R591). -/
def Mach.ferrClr (m : Mach) (d : Nat) : Mach := m.updDom d fun r => { r with ferr := {} }

/-- DOM_FERR_CLR (R591). -/
def domFerrClr (v : BitVec 32) (m : Mach) : Mach := if bit v.toNat 0 then m.ferrClr (m.rd DOM_SEL_DOMAIN) else m

def execDomFerrClr (v : BitVec 32) (s : State) : Res := act (domFerrClr v) s

/-! ### Lockstep (R474) -/

/-- LOCKSTEP_MISMATCH: the pair's threads end, and the manager firmware restarts from its copy; a second mismatch within 1 s is device-fatal.
What the pair had issued completes. -/
def lockstepMismatch (m : Mach) : Mach :=
  if !m.flag SEQ_CTRL_LOCKSTEP then m
  else
    let again := match m.lockAt with | some t => decide (m.now < t + 1000000000) | none => false
    if again then m.deviceFatal 7 2
    else
      let m := (m.raise SEQ_EVENT_LOCKSTEP_MISMATCH).addSat SEQ_STATUS_LS_RESTARTS 1
      let m := m.error { cls := .corrected, block := 7, code := 1 }
      let m := (m.threads.filter fun (x : Nat × Thread) => x.1 < 16).foldl (fun (m : Mach) (x : Nat × Thread) => m.endThread x.1) m
      { m with fwDown := true, lockAt := some m.now }

def execLockstepMismatch (s : State) : Res := act lockstepMismatch s

/-- MANAGER_FIRMWARE_RESTART (R474): work that needs the firmware goes on. -/
def execManagerFirmwareRestart (s : State) : Res := act (fun m => { m with fwDown := false }) s

end Sys2Proof.Machine
end

