-- ==== Sys2Proof/Machine/Slot.lean ====
section
/-! DEFINITION. Sys2Proof/Machine/Slot.lean: slot power, ORing and energy limits (19). Times are given by the occurrence of
the commands that mark them (assumption log 15). -/
namespace Sys2Proof.Machine

/-- Peak and minimum registers take a sample (R530). -/
def Mach.peaks (m : Mach) (pi pv ni nv : Fld) (i v : Nat) : Mach :=
  let cap := fun x => min x 0xFFFF
  (((m.wr pi (max (m.rd pi) (cap i))).wr pv (max (m.rd pv) (cap v))).wr ni (min (m.rd ni) (cap i))).wr nv (min (m.rd nv) (cap v))

/-- Energy limits as they act (R545). -/
def clampTo (lo hi v : Nat) : Nat := max lo (min hi v)

/-- OC_TIME in samples (R534, R537): 10 µs are 100 samples. -/
def Mach.ocSamples (m : Mach) (c : Nat) : Nat := m.rd (SPC_TIMER_OC_TIME c) * 100

/-- The cause that a conducting channel meets at a sample, lowest code first (R533, R535, R539). -/
def Mach.sampleCause (m : Mach) (c : Nat) : Option Nat :=
  let x := m.sx c
  let run := m.flag (SPC_STATUS_TIMER c)
  let lim := m.rd (SPC_TIMER_I2T_LIMIT c)
  if run && clampTo 1 20000 (m.rd (SPC_ENERGY_FAULT_E c)) * 10 ^ 10 < x.fault then some 3
  else if clampTo 1 2000 (m.rd (SPC_ENERGY_INSERT_BUDGET c)) * 10 ^ 11 < x.ins.getD 0 then some 4
  else if c < 64 && lim != 0 && lim * 10 ^ 8 ≤ x.i2t then some 5
  else if run && m.ocSamples c ≤ x.timer then some (if c < 64 then 6 else 7)
  else none

/-- The fault timer starts (R534, R537, R541). -/
def Mach.timerStart (m : Mach) (c : Nat) : Mach :=
  let m := (m.wr (SPC_STATUS_TIMER c) 1).updSx c fun x => { x with timer := 0, clear := 0, fault := 0, qual := false }
  if m.flag (SPC_STATUS_PG c) then (m.wr (SPC_STATUS_PG_WARN c) 1).raise (SPC_EVENT_PG_WARN c) else m

/-- The fault timer at a sample: it starts, goes on, or stops. -/
def Mach.timerSample (m : Mach) (c : Nat) (above : Bool) : Mach :=
  if m.flag (SPC_STATUS_TIMER c) then
    if above then m.updSx c fun x => { x with timer := x.timer + 1, clear := 0 }
    else if c < 64 || (m.sx c).clear ≥ 9 then m.timerStop c
    else m.updSx c fun x => { x with timer := x.timer + 1, clear := x.clear + 1 }
  else if above then m.timerStart c
  else m

/-- SLOT_SAMPLE of a channel (R528 to R544): a privileged channel limits its current to ILIM, and to SOA_PWR while it
limits. -/
def chanSample (c : Chan) (want vout bus : Nat) (m : Mach) : Mach :=
  let m := { m with busMv := bus }
  let st := m.spcSt c
  let on := 2 ≤ st && st ≤ 4
  let itrip := m.rd (SPC_SENSE_ITRIP c)
  let soa := if vout < bus then m.rd (PPC_SOA_SOA_PWR c) * 100000 / (bus - vout) else want
  let lim := 64 ≤ c.val && on && (itrip < want || (m.flag (SPC_STATUS_LIMITING c) && soa < want))
  let i := if lim then min want (min itrip soa) else want
  let m := m.peaks (SPC_PEAK_I c) (SPC_PEAK_V c) (SPC_MIN_I c) (SPC_MIN_V c) i vout
  let e := (m.sx c).frac + vout * i
  let m := (m.add (SPC_ENERGY_ACC_UJ c) (e / 10 ^ 6)).updSx c fun x => { x with frac := e % 10 ^ 6 }
  let m := m.updSx c fun x => { x with i2t := x.i2t + i * i - itrip * itrip }
  if !on then m
  else
    let m := m.wrB (SPC_STATUS_LIMITING c) lim
    let m := m.updSx c fun x => { x with ins := x.ins.map (· + vout * i) }
    let m := m.timerSample c (if c.val < 64 then decide (itrip < i) else lim)
    let run := m.flag (SPC_STATUS_TIMER c)
    let m := if run then m.updSx c fun x => { x with fault := x.fault + (bus - vout) * i } else m
    let m := if st = 3 then m.updSx c fun x => { x with qual := bus ≤ vout + 500 && !lim && !run } else m
    match m.sampleCause c with
    | some cause => m.spcTrip c cause
    | none => m

/-- VIN in range, with 50 mV of hysteresis for a feed that is not valid (R549). -/
def Mach.vinOk (m : Mach) (b : Bool) (vin : Nat) : Bool :=
  let h := if m.flag (feedValid b) then 0 else 50
  9000 + 50 * m.rd ORG_CFG_UV + h ≤ vin && vin + h ≤ 12000 + 50 * m.rd ORG_CFG_OV

/-- SLOT_SAMPLE of a feed. -/
def feedSample (b : Bool) (i vin bus : Nat) (m : Mach) : Mach :=
  let m := { m with busMv := bus }
  let f := b.toNat
  let m := m.peaks (ORG_PEAK_I f) (ORG_PEAK_V f) (ORG_MIN_I f) (ORG_MIN_V f) i vin
  let e := (m.fx b).frac + vin * i
  let m := (m.add (ORG_ENERGY_ACC_UJ f) (e / 10 ^ 6)).updFx b fun x => { x with frac := e % 10 ^ 6 }
  let m := if bus + 20 < vin then m.wr (feedRev b) 0 else m
  let ok := m.vinOk b vin
  let was := m.flag (feedValid b)
  let m := m.wrB (feedValid b) ok
  if was && !ok && m.flag (feedEn b) then m.feedLost b else m

def slotSample (x : PowerSample) (m : Mach) : Mach :=
  match x with
  | .chan c want vout bus => chanSample c want vout bus m
  | .feed b i vin bus => feedSample b i vin bus m

/-- SLOT_SAMPLE (R528). -/
def execSlotSample (x : PowerSample) (s : State) : Res := act (slotSample x) s

/-- SHORT_COMPARATOR (R533, R536): standard channels only. -/
def shortComparator (c : Chan) (m : Mach) : Mach :=
  let st := m.spcSt c
  if c.val < 64 ∧ 2 ≤ st ∧ st ≤ 4 then m.spcTrip c (if st = 2 then 1 else 2) else m

def execShortComparator (c : Chan) (s : State) : Res := act (shortComparator c) s

/-- FAST_LIMIT_COMPARATOR (R538): the current exceeds ILIM, so the channel limits; it does not trip on this comparator. -/
def fastLimitComparator (c : Chan) (m : Mach) : Mach :=
  let st := m.spcSt c
  if 64 ≤ c.val ∧ 2 ≤ st ∧ st ≤ 4 then m.wr (SPC_STATUS_LIMITING c) 1 else m

def execFastLimitComparator (c : Chan) (s : State) : Res := act (fastLimitComparator c) s

/-- Software's power request through the channel's registers (R195, R548): a channel without an owner takes it; one whose
owners are all pooled takes it for each of them; else it is refused. -/
def Mach.spcRequest (m : Mach) (c : Nat) (on : Bool) : Mach :=
  let own := m.owners c
  if own.isEmpty then (if on then m.spcOn c else m.spcOff c)
  else if own.all fun p => m.portPooled p || !m.isDown p then
    if on then (own.foldl (fun m p => m.updPx p fun x => { x with powerReq := true, offPending := false }) m).spcOn c
    else own.foldl (fun m p => (m.perstLow p).updPx p fun x => { x with powerReq := false, offPending := true }) m
  else m.raise (SPC_EVENT_CTRL_REFUSED c)

/-- SPC_ON_WRITE (R531, R548). -/
def execSpcOnWrite (c : Chan) (s : State) : Res := act (fun m => m.spcRequest c true) s

/-- SPC_OFF_WRITE (R532, R548). -/
def execSpcOffWrite (c : Chan) (s : State) : Res := act (fun m => m.spcRequest c false) s

/-- CLR_MEAS (R530). -/
def execClrMeas (c : Option Chan) (s : State) : Res :=
  act (fun m => match c with | some c => m.clrMeas c | none => m.clrFeeds) s

/-- STAGGER_ADMIT (R546). -/
def execStaggerAdmit (s : State) : Res := act (fun m => m.stagger true m.slotWait) s

/-- RAMP_END (R531). -/
def rampEnd (c : Chan) (m : Mach) : Mach :=
  if m.spcSt c = 2 then (m.wr (SPC_STATUS_STATE c) 3).updSx c fun x => { x with qual := false } else m

def execRampEnd (c : Chan) (s : State) : Res := act (rampEnd c) s

/-- PG_RISE (R540, R541): the last sample met both conditions, and no timer runs; PVPERL begins for the ports of the
slot. -/
def pgRise (c : Chan) (m : Mach) : Mach :=
  if m.spcSt c = 3 ∧ (m.sx c).qual ∧ !m.flag (SPC_STATUS_TIMER c) ∧ !m.flag (SPC_STATUS_LIMITING c) then
    let m := ((m.wr (SPC_STATUS_STATE c) 4).wr (SPC_STATUS_PG c) 1).raise (SPC_EVENT_PG_RISE c)
    (m.owners c).foldl (fun m p => m.updPx p fun x => { x with pvperl := true }) (m.holdIns c)
  else m

def execPgRise (c : Chan) (s : State) : Res := act (pgRise c) s

/-- PG_FALL (R542): back to Qualifying with the gate enhanced; for a bound slot it is a power fault, and the hot-plug
logic turns the channel off. -/
def pgFall (c : Chan) (m : Mach) : Mach :=
  if m.spcSt c = 4 then
    let m := ((m.wr (SPC_STATUS_STATE c) 3).wr (SPC_STATUS_PG c) 0).raise (SPC_EVENT_PG_FALL c)
    let m := m.wakeEdge 3
    let m := (m.wr (SPC_STATUS_PG_WARN c) 0).updSx c fun x => { x with qual := false }
    let own := m.owners c
    if own.any fun p => (m.bindOf p 0).isSome then (own.foldl Mach.portTrip m).spcOff c
    else own.foldl Mach.perstLow m
  else m

def execPgFall (c : Chan) (s : State) : Res := act (pgFall c) s

/-- FAULT_TIMER_STOP (R541). -/
def execFaultTimerStop (c : Chan) (s : State) : Res :=
  act (fun m => if m.flag (SPC_STATUS_TIMER c) then m.timerStop c else m) s

/-- RETRY_WAIT_EXPIRY (R547). -/
def retryWaitExpiry (c : Chan) (m : Mach) : Mach :=
  if m.spcSt c = 5 then ((m.add (SPC_STATUS_RETRIES c) 1).spcWait c).raise (SPC_EVENT_RETRY c) else m

def execRetryWaitExpiry (c : Chan) (s : State) : Res := act (retryWaitExpiry c) s

/-- RETRIES_RESET (R547). -/
def execRetriesReset (c : Chan) (s : State) : Res :=
  act (fun m => if m.flag (SPC_STATUS_PG c) then m.wr (SPC_STATUS_RETRIES c) 0 else m) s

/-- FEED_LOST (R549). -/
def execFeedLost (b : Bool) (s : State) : Res :=
  act (fun m => if m.feedLive b then (m.wr (feedValid b) 0).feedLost b else m) s

/-- FEED_RESTORED (R549, R550): 1 ms of valid samples; the FETs follow the mode. -/
def feedRestored (b : Bool) (m : Mach) : Mach :=
  if m.feedLive b ∧ !(m.fx b).ready ∧ !m.flag (feedRev b) then
    ((m.updFx b fun x => { x with ready := true }).feedSet).raise ORG_EVENT_FEED_RESTORED
  else m

def execFeedRestored (b : Bool) (s : State) : Res := act (feedRestored b) s

/-- REVERSE (R551): the FET turns off, in every mode. -/
def reverse (b : Bool) (m : Mach) : Mach :=
  if m.flag (feedOn b) then
    (((m.updFx b fun x => { x with ready := false }).wr (feedRev b) 1).wr (feedOn b) 0).raise ORG_EVENT_REVERSE
  else m

def execReverse (b : Bool) (s : State) : Res := act (reverse b) s

/-- ORG_CTRL_WRITE (R550). -/
def execOrgCtrlWrite (v : BitVec 32) (s : State) : Res := act (fun m => m.orgCtrl v.toNat) s

end Sys2Proof.Machine
end

