-- ==== Sys2Proof/Machine/AccessOps.lean ====
section
/-! DEFINITION. Sys2Proof/Machine/AccessOps.lean: what every register of BAR0 reads as and what a write of it does
(R10, R616, R621), register by register: the register as its table describes it, or the operation of its chapter. -/
namespace Sys2Proof.Machine

/-! ### Tables and aliases -/

/-- A word of fields given by their lowest bits. -/
def pack (l : List (Nat × Nat)) : Word := BitVec.ofNat 64 (l.foldl (fun a (x : Nat × Nat) => a + x.2 * 2 ^ x.1) 0)

/-- The bits of a register whose access type passes a test. -/
def RegDesc.bits (d : RegDesc) (p : Acc → Bool) : Word := BitVec.ofNat 64 (d.mask p)

/-- What a write makes of a register's contents by its access types alone (R10). -/
def RegDesc.apply (d : RegDesc) (cur v : Word) : Word :=
  let rw := d.bits fun a => a == .rw || a == .rwl
  let c := d.bits fun a => a == .rw1c
  let s := d.bits fun a => a == .rw1s
  (((cur &&& ~~~rw) ||| (v &&& rw)) &&& ~~~(v &&& c)) ||| (v &&& s)

/-- The register write of the access types (R10). -/
def Mach.store (m : Mach) (d : RegDesc) (off : Nat) (v : Word) : Mach := m.setReg off (d.apply (m.reg off) v)

/-- Index of a register among the copies of its table, spaced st bytes. -/
def RegDesc.idx (d : RegDesc) (off st : Nat) : Nat := (off - d.base) / st

/-- The tile that a TILE_ or LANE_ register belongs to. -/
def offTile (off : Nat) : Option Nat :=
  if 0x1000000 ≤ off ∧ off < 0x1400000 then some ((off - 0x1000000) / 0x10000)
  else if 0x2000000 ≤ off ∧ off < 0x2200000 then some ((off - 0x2000000) / 0x8000)
  else none

/-- The port that a register of a tile window belongs to: the tables of ports have 16 copies in each tile. -/
def RegDesc.port (d : RegDesc) (off : Nat) : Option Nat :=
  match d.dims with
  | (64, _) :: (16, st) :: _ =>
    if d.base = TILE_TRK_QCLASS 0 0 ∨ d.base = TILE_TRK_USE 0 0 then none
    else some ((off - d.base) / 0x10000 * 16 + (off - d.base) % 0x10000 / st)
  | _ => none

/-- The registers that an alias offset stands for (R623): all members of the class, or those of a group's mask, lowest first. -/
def Mach.aliasOf (m : Mach) (off : Nat) : Option (List Nat) :=
  let tiles := fun (f : Nat → Bool) => some (((List.range 64).filter f).map fun t => 0x1000000 + t * 0x10000 + off % 0x10000)
  let lanes := fun (f : Nat → Bool) => some (((List.range 1024).filter f).map fun l => 0x2000000 + l * 0x800 + off % 0x800)
  let slots := fun (f : Nat → Bool) => some (((List.range 64).filter f).map fun c => 0x101000 + c * 0x40 + off % 0x40)
  if 0x100800 ≤ off ∧ off < 0x100840 then slots fun _ => true
  else if 0x100840 ≤ off ∧ off < 0x100A40 then slots (bit (m.rd (SPC_GRP_MASK_MASK ((off - 0x100840) / 0x40))))
  else if 0xF00000 ≤ off ∧ off < 0xF10000 then tiles fun _ => true
  else if 0xF10000 ≤ off ∧ off < 0xF90000 then tiles (bit (m.rd (TILE_GRP_MASK_MASK ((off - 0xF10000) / 0x10000))))
  else if 0x2200000 ≤ off ∧ off < 0x2200800 then lanes fun _ => true
  else if 0x2200800 ≤ off ∧ off < 0x2204800 then
    lanes fun l => bit (m.rd (LANE_GRP_MASK_MASK ((off - 0x2200800) / 0x800) (l / 32))) (l % 32)
  else none

/-- The member register that an alias offset has the layout of (R623); any other offset is its own. -/
def canon (off : Nat) : Nat :=
  if 0x100800 ≤ off ∧ off < 0x100A40 then 0x101000 + off % 0x40
  else if 0xF00000 ≤ off ∧ off < 0xF90000 then 0x1000000 + off % 0x10000
  else if 0x2200000 ≤ off ∧ off < 0x2204800 then 0x2000000 + off % 0x800
  else off

/-- The register at an offset, alias windows included: its first offset, and its width in bytes. -/
def regSpan (off : Nat) : Option (Nat × Nat) := (regFind (canon off)).map fun (d, s) => (off - (canon off - s), d.bytes)

/-- Blocks of R615, by number. -/
def blockOf (off : Nat) : Nat :=
  if off < 0x800000 then off / 0x100000 else if off < 0xF00000 then 8 else if off < 0x1000000 then 9 else if off < 0x1400000 then 10
  else if off < 0x2000000 then 11 else if off < 0x2200000 then 12 else if off < 0x2211000 then 13 else if off < 0x4000000 then 14
  else if off < 0x8000000 then 15 else 16

/-- A block answers a source (R66, R566, R619, R629): GLB and WKT always; TB from stage C onward; the rest in stage F, and in stage C for the
manager firmware and for MCTP, which the firmware serves. -/
def Mach.answers (m : Mach) (src : BarSrc) (off : Nat) : Bool :=
  let b := blockOf off
  let st := m.rd WKT_BOOT_STATUS_STAGE
  let firm := match src with | .fn _ => false | _ => true
  m.boot.auxGood && (b ≤ 1 || (m.rd WKT_PWR_STATUS_STATE < 4 && (st == 3 || (st == 2 && (b == 2 || firm)))))

/-- A source reaches BAR0 (R66, R601): the one function of native mode, of stage W and of DORMANT; in TF-256 mode function 7, where the policy
block gives it; a manager thread; MCTP. -/
def Mach.reaches (m : Mach) (l : ModeLatch) : BarSrc → Bool
  | .fn f =>
    if l.tf && 2 ≤ m.rd WKT_BOOT_STATUS_STAGE && m.rd WKT_BOOT_STATUS_STAGE ≤ 3 && m.rd WKT_PWR_STATUS_STATE < 4 then
      f.val == 7 && m.boot.policy.kfunc
    else f.val == 0
  | .thread th => (m.thr th).any fun t => t.running && t.manager
  | .mctp => true

/-! ### Views of registers that other state backs -/

/-- Tiles with a set and enabled event (R626). -/
def Mach.tilePend (m : Mach) : Nat :=
  m.regs.foldl (fun s (x : Nat × Word) =>
    if eventGroup x.1 = some 8 ∧ x.2 &&& m.reg (x.1 + 4) ≠ 0 then withBit s ((x.1 - 0x1000000) / 0x10000) true else s) 0

/-- Lanes 32i to 32i + 31 with a set and enabled event (R626). -/
def Mach.lanePend (m : Mach) (i : Nat) : Nat :=
  m.regs.foldl (fun s (x : Nat × Word) =>
    let l := (x.1 - 0x2000000) / 0x800
    if eventGroup x.1 = some 9 ∧ l / 32 = i ∧ x.2 &&& m.reg (x.1 + 4) ≠ 0 then withBit s (l % 32) true else s) 0

/-- The word i of a record of bytes. -/
def recWord (b : List Byte) (i : Nat) : Word := BitVec.ofNat 64 (bget b (8 * i) 8)

/-- The 32 bytes of a first-error record (R591). -/
def FErr.bytes (f : FErr) : List Byte :=
  leBytes 8 f.addr ++ leBytes 8 f.time ++ leBytes 2 f.port ++ leBytes 1 f.block ++ leBytes 1 f.valid.toNat ++ leBytes 2 f.code ++
  leBytes 2 f.gen ++ leBytes 4 f.count ++ leBytes 4 f.seq

/-- The 32 bytes of a Casement record of a domain (R325). -/
def Casement.bytes (c : Casement) (d : Nat) : List Byte :=
  leBytes 8 (c.base / 4096 * 4096 + c.k * 64) ++ leBytes 4 c.attr ++ leBytes 2 d ++ leBytes 2 c.target ++ leBytes 8 c.offset ++ leBytes 8 c.cohBase

/-- GLB registers that stand elsewhere: the mode latch, fuses, summaries, TF_ registers (R612). -/
def Mach.viewGlb (m : Mach) (l : ModeLatch) (d : RegDesc) (off : Nat) : Word :=
  if d.base = GLB_IDENT then m.reg off ||| pack [(24, Config.gradeX.toNat)]
  else if d.base = GLB_MODE then pack [(0, l.tf.toNat), (1, l.personalities), (4, l.latched.toNat)]
  else if d.base = GLB_UID then Config.uid
  else if d.base = GLB_IRQ_STATUS then pack [(0, m.irqStatus)]
  else if d.base = GLB_TILE_PEND then pack [(0, m.tilePend)]
  else if d.base = GLB_LANE_PEND 0 then pack [(0, m.lanePend (d.idx off 4))]
  else if d.base = TF_STATUS then
    if l.tf then pack [(0, 1), (1, l.personalities), (4, m.rd TF_STATUS_CFG_VALID), (8, m.boot.policy.kfunc.toNat), (9, m.tfPrev.toNat)]
    else pack [(9, m.tfPrev.toNat)]
  else if TF_STATUS < d.base ∧ d.base < 0x9000 ∧ !l.tf then 0
  else m.reg off

/-- WKT registers that stand elsewhere. -/
def Mach.viewWkt (m : Mach) (d : RegDesc) (off : Nat) : Word :=
  let c := d.idx off 0x40
  if d.base = PPC_SOA 0 ∧ c < 64 then 0
  else if d.base = SPC_STATUS 0 then m.reg off ||| pack [(7, if (m.owners c).isEmpty then 0 else 1)]
  else if d.base = ORG_STATUS then m.reg off ||| pack [(16, min m.rampSum 0xFFFF)]
  else if d.base = WKT_THERM_CFG then pack [(0, m.warnC)]
  else m.reg off

/-- Privet registers that stand elsewhere. -/
def Mach.viewPvt (m : Mach) (d : RegDesc) (off : Nat) : Word :=
  let h := d.idx off 0x10
  if d.base = PVT_STATUS then pack [(0, m.t1.length), (23, m.rebuilding.toNat), (24, m.privetWalks.toNat)]
  else if d.base = PVT_T2_USED then pack [(0, m.t2.length)]
  else if d.base = PVT_SUM_SAT then pack [(0, m.sumSat)]
  else if d.base = PVT_BUSY then pack [(0, m.lines.length)]
  else if d.base = PVT_RECOVERY then pack [(0, m.recover.length), (19, m.recovering.toNat)]
  else if d.base = PVT_RING_STATUS then pack [(0, m.ring.length)]
  else if d.base = PVT_HR_USE 0 then pack [(0, m.hrT1 h), (32, m.hrT2 h)]
  else m.reg off

/-- Louvre registers that stand elsewhere (R390). -/
def Mach.viewLvr (m : Mach) (d : RegDesc) (off : Nat) : Word :=
  let e := SMap.find m.lvr (m.rd LVR_ENT_SEL_INDEX)
  let dd := m.rd LVR_DOM_SEL_DOMAIN
  let s := m.sampler (m.rd LVR_SMP_SEL_INDEX)
  if d.base = LVR_ENT_REC 0 then (match e with | some e => recWord e.bytes (d.idx off 8) | none => 0)
  else if d.base = LVR_ENT_RED then pack [(0, (e.map LvrEnt.red).getD 0)]
  else if d.base = LVR_ENT_YELLOW then pack [(0, (e.map LvrEnt.yellow).getD 0)]
  else if d.base = LVR_ENT_USED then pack [(0, m.lvr.length)]
  else if d.base = LVR_DOM_CFG then pack [(0, SMap.get 16 m.lkpWeight dd), (16, m.lvrCount dd)]
  else if d.base = LVR_SMP_CFG then pack [(0, s.kind), (3, s.k), (8, s.dscale), (12, s.qscale)]
  else if d.base = LVR_SMP_TGT then pack [(0, s.target)]
  else if d.base = LVR_SNAP_DBIN 0 then pack [(0, SMap.get 0 s.snap.dbin (d.idx off 4))]
  else if d.base = LVR_SNAP_QBIN 0 then pack [(0, SMap.get 0 s.snap.qbin (d.idx off 4))]
  else if d.base = LVR_SNAP_DMAX then pack [(0, min s.snap.dmax 0xFFFFFFFF)]
  else if d.base = LVR_SNAP_QMAX then pack [(0, min s.snap.qmax 0xFFFFFFFF)]
  else if d.base = LVR_SNAP_DMAX_TIME then pack [(0, s.snap.dmaxTime)]
  else if d.base = LVR_SNAP_FIRST then pack [(0, s.snap.first)]
  else if d.base = LVR_SNAP_LAST then pack [(0, s.snap.last)]
  else if d.base = LVR_SNAP_SAMPLES then pack [(0, s.snap.n)]
  else m.reg off

/-- SEQ registers that stand elsewhere. -/
def Mach.viewSeq (m : Mach) (d : RegDesc) (off : Nat) : Word :=
  let dd := m.rd SEQ_DOM_SEL_DOMAIN
  let s := m.seqd dd
  if d.base = SEQ_STATUS then m.reg off ||| pack [(0, (m.threads.filter fun x => x.2.running).length)]
  else if d.base = SEQ_DOM_DM then pack [(20, s.base), (40, s.size)]
  else if d.base = SEQ_DOM_RUN then pack [(0, s.maxThreads), (8, m.domThreads dd), (16, s.runLimit)]
  else if d.base = SEQ_DOM_TRAPS then pack [(0, s.traps)]
  else m.reg off

/-- Copy-engine registers that stand elsewhere (R443). -/
def Mach.viewCpe (m : Mach) (d : RegDesc) (off : Nat) : Word :=
  let c := SMap.find m.chans (m.rd CPE_CH_SEL_CHANNEL)
  if d.base = CPE_STATUS then pack [(0, m.chans.length), (16, 4096 - (m.chans.map fun x => x.2.flight.length).sum)]
  else if d.base = CPE_CH_STATUS then
    (match c with
     | some c => pack [(0, 1), (1, c.order), (3, c.checking.toNat), (4, c.flight.length % 256), (16, c.entry.dom), (32, c.sq)]
     | none => 0)
  else if d.base = CPE_CH_DONE then pack [(0, (c.map CopyChan.done).getD 0)]
  else m.reg off

/-- The word of `WQ_SQ_STATUS` (R425). -/
def Mach.sqStatus (m : Mach) (d q : Nat) : Word :=
  match m.sq d q with
  | some s => pack [(0, 1), (1, s.error.toNat), (2, s.pendingDb.toNat), (3, (m.cqStalled d s).toNat), (4, s.invalIgnored.toNat),
                    (8, s.errSub), (32, s.errIndex)]
  | none => 0

/-- DOM, CSM and HNG registers that stand elsewhere (R356, R372). -/
def Mach.viewDom (m : Mach) (d : RegDesc) (off : Nat) : Word :=
  let s := m.rd DOM_SEL_DOMAIN
  let r := m.dom s
  let i := m.rd CSM_ILV_SEL_SET
  let j := m.rd CSM_MIR_SEL_PAIR
  let p := m.mirPair j
  let mbr := fun (b : Member) => pack [(0, b.port), (10, b.ld), (14, b.mld.toNat), (24, b.dpaBase / 4096)]
  if d.base = DOM_REC0 then
    pack [(0, r.state.code), (6, if r.state = .free then 0 else r.kind.code), (8, r.parent), (20, r.qclass), (24, r.cntAccess.toNat)]
  else if d.base = DOM_REC1 then pack [(0, r.gen), (16, r.cas.length)]
  else if d.base = DOM_REC2 then pack [(0, r.vf.getD 0)]
  else if d.base = DOM_RULE_EPOCH then pack [(0, r.ruleEpoch)]
  else if d.base = DOM_VIOL 0 then recWord r.viol.bytes (d.idx off 8)
  else if d.base = DOM_FERR 0 then recWord r.ferr.bytes (d.idx off 8)
  else if d.base = HNG_STATUS then
    let pend := pack [(16, ((m.sqIds s).filter fun q => (m.sq s q).any Sq.pendingDb).length)]
    (match SMap.find m.hinges s with
     | some h => pack [(0, h.op), (3, h.draining.toNat), (4, h.sweeping.toNat)] ||| pend
     | none => pend)
  else if d.base = CSM_REC 0 then
    (match SMap.find (m.dom (m.rd CSM_SEL_DOMAIN)).cas (m.rd CSM_SEL_SLOT) with
     | some c => recWord (c.bytes (m.rd CSM_SEL_DOMAIN)) (d.idx off 8)
     | none => 0)
  else if d.base = CSM_EPOCH then pack [(0, m.epoch)]
  else if d.base = CSM_POOL then pack [(0, m.poolUsed)]
  else if d.base = CSM_ILV_HDR then pack [(0, (m.ilvSet i).ways), (4, (m.ilvSet i).gran), (16, min (m.ilvRefs i) 0xFFFF)]
  else if d.base = CSM_ILV_MBR 0 then mbr (SMap.get {} (m.ilvSet i).members (d.idx off 8))
  else if d.base = CSM_MIR_CTRL then
    pack [(0, p.st0.code), (2, p.st1.code), (4, p.readSel.toNat), (16, min (m.mirRefs j) 0xFFFF)]
  else if d.base = CSM_MIR_MBR 0 then mbr (p.mem (d.idx off 8))
  else if d.base = CSM_MIR_SIZE then pack [(0, p.size)]
  else if d.base = CSM_MIR_CURSOR then pack [(0, p.cursor)]
  else if d.base = DOM_PORT 0 then
    (match SMap.find m.domPort (d.idx off 4) with | some x => pack [(0, x), (15, 1)] | none => 0)
  else if d.base = DOM_FABRIC 0 then
    (match SMap.find m.domFabric (d.idx off 4) with | some x => pack [(0, x), (15, 1)] | none => 0)
  else m.reg off

/-- TILE_ registers that stand elsewhere; those of a port that the map does not hold read 0. -/
def Mach.viewTile (m : Mach) (d : RegDesc) (off : Nat) : Word :=
  let t := (off - 0x1000000) / 0x10000
  let v := (off - d.base) % 0x20 / 4
  match d.port off with
  | some p =>
    if !m.portExists p then 0
    else if d.base = TILE_PORT_STATUS 0 then
      m.reg off ||| pack [(14, (m.bound p).isSome.toNat), (16, m.portVcs p)]
    else if d.base = TILE_IBUF_ALLOC 0 0 then pack [(0, m.ibufAlloc p v), (31, (SMap.find m.ibNew (p * 8 + v)).isSome.toNat)]
    else if d.base = TILE_IBUF_CUR 0 0 then pack [(0, m.ibufCur p v)]
    else m.reg off
  | none =>
    if d.base = TILE_IBUF_STATUS 0 then pack [(0, 131072 - m.ibSum t)]
    else if d.base = TILE_EBUF_STATUS 0 then pack [(0, m.sharedPool t - m.sharedUse t)]
    else if d.base = TILE_TRK_USE 0 0 then
      let q := (off - d.base) % 0x40 / 4
      pack [(0, m.inUse t q), (16, min (m.waitQ t q).length 0xFFF)]
    else m.reg off

/-- What link training has found of a lane (R122, R123), while the link of its port is up: inversion; reversal; the logical lane. -/
def Mach.viewLane (m : Mach) (d : RegDesc) (off : Nat) : Word :=
  if d.base = LANE_STATUS 0 then
    let l := (off - 0x2000000) / 0x800
    let up := (m.portOfLane l).any m.linkUp
    let auto := up && Config.wirePol l
    let pol := if m.flag (LANE_CTRL_RX_POL_FORCE l) then m.flag (LANE_CTRL_RX_POL_VAL l) else auto
    match m.portOfLane l with
    | some p =>
      let rev := if m.flag (LANE_CTRL_REV_FORCE p) then m.flag (LANE_CTRL_REV_VAL p) else up && Config.wireRev p
      let i := l - p
      let w := m.portLanes p
      m.reg off ||| pack [(6, auto.toNat), (7, pol.toNat), (8, rev.toNat), (9, (if rev then w - 1 - i else i) % 16)]
    | none => m.reg off ||| pack [(7, pol.toNat)]
  else m.reg off

/-- A register's contents as a read returns them, the fields that read 0 apart. -/
def Mach.viewRaw (m : Mach) (l : ModeLatch) (d : RegDesc) (off : Nat) : Word :=
  match blockOf off with
  | 0 => m.viewGlb l d off
  | 1 => m.viewWkt d off
  | 2 => if d.base = TB_NS then pack [(0, m.tbNs)] else if d.base = TB_FRAC then pack [(0, m.tb / 2 ^ 16 % 2 ^ 16)] else m.reg off
  | 3 => if d.base = ERR_LOST_BUCKETS then pack [(0, m.lostBuckets.length)] else m.reg off
  | 4 => m.viewPvt d off
  | 5 => m.viewLvr d off
  | 6 => m.viewSeq d off
  | 7 => m.viewCpe d off
  | 8 => m.viewDom d off
  | 10 => m.viewTile d off
  | 12 => m.viewLane d off
  | _ => m.reg off

/-- What a register reads as (R10): WO fields read 0. A gated tile's status fields read their reset values, and its other fields with the
writes that wait for its ungating (R558). -/
def Mach.view (m : Mach) (l : ModeLatch) (d : RegDesc) (off : Nat) : Word :=
  let v := m.viewRaw l d off
  let v := match offTile off with
    | some t =>
      if m.gated t then
        let ro := d.bits fun a => a == .ro || a == .rc
        let w := m.shutWr.foldl (fun w (x : Nat × Nat) => if x.1 = off then d.apply w (BitVec.ofNat 64 x.2) else w) v
        (w &&& ~~~ro) ||| (regReset off &&& ro)
      else v
    | none => v
  v &&& ~~~(d.bits fun a => a == .wo)

/-! ### Writes of registers -/

/-- IRQ_EOI (R627): each vector whose summary is still set, through the mask, is signalled again. -/
def Mach.eoi (m : Mach) (v : Nat) : Mach :=
  let on := m.irqOn
  (List.range 11).foldl (fun (m : Mach) i => if bit v i && bit on i then m.signalVec i else m) m

/-- A write of an MSI-X vector control (R627): a vector that is unmasked with its Pending bit set is signalled, and the bit clears. -/
def Mach.vecCtrl (m : Mach) (v w : Nat) : Mach :=
  let m := m.wr (MSIX_CTRL_MASKED v) w
  if w % 2 = 0 ∧ bit (m.rd MSIX_PBA_PENDING) v then (m.wr MSIX_PBA_PENDING (withBit (m.rd MSIX_PBA_PENDING) v false)).send (.msix v) else m

/-- TF_QUIRK_WRITE (R611, R612): ignored in native mode. -/
def Mach.tfQuirk (m : Mach) (l : ModeLatch) (p v : Nat) : Mach :=
  if l.tf then (m.setReg (TF_QUIRK p) (BitVec.ofNat 64 (v % 4))).tfRates p else m

def Mach.writeGlb (m : Mach) (l : ModeLatch) (d : RegDesc) (off : Nat) (v : Word) : Mach :=
  if d.base = GLB_IRQ_EOI then m.eoi v.toNat
  else if d.base = GLB_PLANE_CTRL then
    (List.finRange 4).foldl (fun (m : Mach) (n : Fin 4) => if v.getLsbD n then planeOut n false m else m) (m.store d off v)
  else if d.base = TF_QUIRK 0 then m.tfQuirk l (d.idx off 4) v.toNat
  else if TF_STATUS ≤ d.base ∧ d.base < 0x9000 ∧ !l.tf then m
  else if d.base = MSIX_CTRL 0 then m.vecCtrl (d.idx off 16) v.toNat
  else m.store d off v

/-- A value of a slot-channel register outside a field's range (R555), but for the fields of R545. -/
def spcBad (base c v : Nat) : Bool :=
  if base = SPC_SENSE 0 then (let x := v % 1024; x < 50 || 500 < x)
  else if base = SPC_TIMER 0 then (let x := v % 65536; 64 ≤ c && (x < 10 || 10000 < x))
  else if base = SPC_RAMP 0 then (let x := v % 128; x < 1 || 120 < x)
  else false

/-- A write of `WKT_RESET_CTRL` (R87, R99): a cold reset is noted for the end of the command. -/
def Mach.resetCtrl (m : Mach) (v : Nat) : Mach :=
  if v / 2 ^ 16 % 2 ^ 16 != 0x5A17 then m
  else match v % 8 with
    | 1 => m.startOrderly 0x05
    | 2 => m.disorderly 0x06 false
    | 3 => { m with coldReq := some 0x02 }
    | 4 => m.tileReset (v / 256 % 64)
    | _ => m

def Mach.writeWkt (m : Mach) (l : ModeLatch) (d : RegDesc) (off : Nat) (v : Word) : Mach :=
  let c := d.idx off 0x40
  let w := v.toNat
  if SPC_CTRL 0 ≤ d.base ∧ d.base ≤ PPC_SOA 0 then
    if d.base = SPC_CTRL 0 then
      let m := (m.wr (SPC_CTRL_RETRY_MAX c) (w / 2)).wr (SPC_CTRL_RETRY_BASE c) (w / 16)
      let m := if bit w 8 then m.clrMeas c else m
      m.spcRequest c (bit w 0)
    else if d.base = PPC_SOA 0 ∧ c < 64 then m
    else if spcBad d.base c w then m.raise (SPC_EVENT_CFG_REFUSED c)
    else m.store d off v
  else if d.base = ORG_CTRL then m.orgCtrl w
  else if d.base = WKT_PWR_CTRL then
    (match w % 4 with
     | 1 => dormantRequest (BitVec.ofNat 32 w) false m
     | 2 => wakeRequest (BitVec.ofNat 32 w) m
     | _ => m.pwrCtrl w)
  else if d.base = WKT_SHUTTER then shutterWrite l v m
  else if d.base = WKT_THERM_CFG then { m with warnC := w % 256 }
  else if d.base = WKT_RESET_CTRL then m.resetCtrl w
  else m.store d off v

def Mach.writeTb (m : Mach) (d : RegDesc) (off : Nat) (v : Word) : Mach :=
  if d.base = TB_RATE then tbRateWrite (v.truncate 32) m
  else if d.base = TB_CTRL then
    let m := m.store d off v
    let m := if v.getLsbD 3 then tbLoad m else m
    if v.getLsbD 4 then tbStep m else m
  else m.store d off v

def Mach.writePvt (m : Mach) (d : RegDesc) (off : Nat) (v : Word) : Mach :=
  let h : Hedge := Fin.ofNat 4 (d.idx off 0x10)
  let b : BitVec 32 := v.truncate 32
  if d.base = PVT_CTRL then pvtCtrlWrite b m
  else if d.base = PVT_T2_CFG then pvtT2CfgWrite b m
  else if d.base = PVT_SUM_CFG then (let m := m.store d off v; if v.getLsbD 16 then m.rebuild else m)
  else if d.base = PVT_HR_CFG 0 then pvtHrCfgWrite h b m
  else if d.base = PVT_HR_QUOTA 0 then pvtHrQuotaWrite h b m
  else if d.base = PVT_MEMBER 0 0 ∨ d.base = PVT_MEMBER_BIAS 0 0 then
    pvtMemberWrite (Fin.ofNat 4 (d.idx off 0x400)) (Fin.ofNat 64 (d.idx off 0x10)) (decide (d.base = PVT_MEMBER_BIAS 0 0)) v m
  else if d.base = PVT_LOST_TAIL then pvtLostTailWrite b m
  else m.store d off v

def Mach.writeLvr (m : Mach) (d : RegDesc) (off : Nat) (v : Word) : Mach :=
  let b : BitVec 32 := v.truncate 32
  if d.base = LVR_ENT_CMD then
    (match v.toNat % 4 with | 1 => lvrEntWrite m | 2 => lvrEntFree m | _ => m)
  else if d.base = LVR_DOM_CFG then
    { m with lkpWeight := SMap.set 16 m.lkpWeight (m.rd LVR_DOM_SEL_DOMAIN) (v.toNat % 256) }
  else if d.base = LVR_SMP_CFG then lvrSmpCfgWrite false b m
  else if d.base = LVR_SMP_TGT then lvrSmpCfgWrite true b m
  else if d.base = LVR_SPEC_CFG then lvrSpecCfgWrite b m
  else if d.base = LVR_CTRL then (m.store d off v).pumpAll
  else m.store d off v

def Mach.writeSeq (m : Mach) (l : ModeLatch) (d : RegDesc) (off : Nat) (v : Word) : Mach :=
  let b : BitVec 32 := v.truncate 32
  let w := v.toNat
  if d.base = SEQ_CTRL then seqCtrlLock b m
  else if d.base = SEQ_CORE_MODE then seqCoreModeWrite b m
  else if d.base = SEQ_DOM_DM then seqDomDmWrite v m
  else if d.base = SEQ_DOM_RUN then
    m.updSeqd (m.rd SEQ_DOM_SEL_DOMAIN) fun s => { s with maxThreads := min (w % 128) 64, runLimit := w / 2 ^ 16 % 2 ^ 16 }
  else if d.base = SEQ_RP_SEL 0 then seqRpSelWrite (Fin.ofNat 128 (d.idx off 4)) b l m
  else if d.base = SEQ_RP_CMD then
    if l.tf then m
    else
      let m := m.store d off v
      let slot := Fin.ofNat 8 w
      let len := Fin.ofNat 32 (w / 256)
      (match w / 8 % 4 with | 1 => seqRpLoad slot len l m | 2 => seqRpClear slot len l m | _ => m)
  else m.store d off v

def Mach.writeDom (m : Mach) (d : RegDesc) (off : Nat) (v : Word) : Mach :=
  let b : BitVec 32 := v.truncate 32
  let s := m.rd DOM_SEL_DOMAIN
  if d.base = DOM_REC0 then
    if (m.dom s).state = .free then m
    else m.updDom s fun r => { r with qclass := v.toNat / 2 ^ 20 % 16, cntAccess := v.getLsbD 24 }
  else if d.base = DOM_VIOL_CLR then domViolClr b m
  else if d.base = DOM_FERR_CLR then domFerrClr b m
  else if d.base = DOM_FABRIC 0 then domFabricWrite (Fin.ofNat 4096 (d.idx off 4)) b m
  else if d.base = CSM_ILV_HDR then csmSetWrite (.ilvHdr b) m
  else if d.base = CSM_ILV_MBR 0 then csmSetWrite (.ilvMember (Fin.ofNat 16 (d.idx off 8)) v) m
  else if d.base = CSM_MIR_CTRL then csmMirCtrlWrite b m
  else if d.base = CSM_MIR_MBR 0 then csmSetWrite (.mirMember (Fin.ofNat 2 (d.idx off 8)) v) m
  else if d.base = CSM_MIR_SIZE then csmSetWrite (.mirSize v) m
  else if d.base = CSM_MIR_CURSOR then csmSetWrite (.mirCursor v) m
  else m.store d off v

/-- A write of `TILE_ZL_CTRL`: its plain fields, then what each change of the others asks for (R129, R153, R166). -/
def Mach.zlCtrl (m : Mach) (p : Port) (v : Nat) : Mach :=
  let off := TILE_ZL_CTRL p
  if m.isZitch p then
    let m := ((m.wr (TILE_ZL_CTRL_MIN_WIDTH p) (v / 32)).wr (TILE_ZL_CTRL_FEC_OFF_ALLOW p) (v / 256)).wr (TILE_ZL_CTRL_DEGRADE_EN p) (v / 512)
    let m := targetWidthChange p (Fin.ofNat 8 (v / 4)) m
    let m := if bit v 10 != m.flag (TILE_ZL_CTRL_LP_REQ p) then lpReqWrite p (bit v 10) m else m
    let m := if bit v 0 != m.flag (TILE_ZL_CTRL_LINK_DIS p) then (if bit v 0 then linkDisSet p m else linkDisClear p m) else m
    if bit v 1 then retrain p m else m
  else m.setReg off (putField (m.reg off) 0 11 (withBit v 1 false))

def Mach.writeTile (m : Mach) (d : RegDesc) (off : Nat) (v : Word) : Mach :=
  let t : Tile := Fin.ofNat 64 ((off - 0x1000000) / 0x10000)
  let b : BitVec 32 := v.truncate 32
  let vc : VC := Fin.ofNat 8 ((off - d.base) % 0x20 / 4)
  match d.port off with
  | some p =>
    let o : Fin 16 := Fin.ofNat 16 p
    let pp : Port := Fin.ofNat 1024 p
    if !m.portExists p then m
    else if d.base = TILE_PORT_CTRL 0 then tilePortCtrlWrite pp b m
    else if d.base = TILE_ZL_CTRL 0 then m.zlCtrl pp v.toNat
    else if d.base = TILE_IBUF_ALLOC 0 0 then tileIbufAllocWrite t (some (o, vc)) b m
    else if d.base = TILE_EBUF_VC 0 0 then tileEbufWrite t o (some vc) b m
    else if d.base = TILE_EBUF_PORTMAX 0 then tileEbufWrite t o none b m
    else m.store d off v
  | none =>
    if d.base = TILE_PORTMAP 0 then tilePortmapWrite t v m
    else if d.base = TILE_IBUF_AGENT 0 then tileIbufAllocWrite t none b m
    else if d.base = TILE_TRK_QCLASS 0 0 then tileTrkQclassWrite t (Fin.ofNat 16 ((off - d.base) % 0x40 / 4)) b m
    else m.store d off v

def Mach.writeLane (m : Mach) (d : RegDesc) (off : Nat) (v : Word) : Mach :=
  let l : Lane := Fin.ofNat 1024 ((off - 0x2000000) / 0x800)
  let b : BitVec 32 := v.truncate 32
  if d.base = LANE_TXEQ 0 then laneTxeqWrite l b m
  else if d.base = LANE_RXEQ 0 then laneRxeqModeWrite l b m
  else if d.base = LANE_TEST_CTRL 0 then laneTestCtrlWrite l b m
  else if d.base = LANE_INJ_CTRL 0 then laneInjCtrlWrite l b m
  else m.store d off v

/-- A counter register of the fallback counters (R518). -/
def Mach.writeCnt (m : Mach) (d : RegDesc) (off : Nat) (v : Word) : Mach :=
  let c : Fin 32 := Fin.ofNat 32 (d.idx off 0x80)
  if d.base = CNT_FB_CNT 0 0 then fallbackCounterWrite c (Fin.ofNat 9 ((off - d.base) % 0x80 / 4)) v 0 m
  else if d.base = CNT_FB_CYCLE 0 then fallbackCounterWrite c 8 v 0 m
  else m.store d off v

/-- A write of a whole register. -/
def Mach.writeNow (m : Mach) (l : ModeLatch) (d : RegDesc) (off : Nat) (v : Word) : Mach :=
  match blockOf off with
  | 0 => m.writeGlb l d off v
  | 1 => m.writeWkt l d off v
  | 2 => m.writeTb d off v
  | 3 => if d.base = ERR_JRN_TAIL then errJrnTailWrite (v.truncate 32) m else m.store d off v
  | 4 => m.writePvt d off v
  | 5 => m.writeLvr d off v
  | 6 => m.writeSeq l d off v
  | 7 => if d.base = CPE_CTRL then cpeCtrlWrite (v.truncate 32) m else m.store d off v
  | 8 => m.writeDom d off v
  | 10 => m.writeTile d off v
  | 12 => m.writeLane d off v
  | 15 => m.writeCnt d off v
  | _ => m.store d off v

/-- A write of a whole register; a gated tile's is stored (R558). -/
def Mach.writeReg (m : Mach) (l : ModeLatch) (d : RegDesc) (off : Nat) (v : Word) : Mach :=
  match offTile off with
  | some t => m.orShut t off v.toNat fun m => m.writeNow l d off v
  | none => m.writeNow l d off v

/-- The writes that a gated tile has stored are applied, oldest first (R558). -/
def Mach.applyShut (m : Mach) (l : ModeLatch) (t : Nat) : Mach :=
  let mine := m.shutWr.filter fun x => offTile x.1 == some t
  mine.foldl (fun (m : Mach) (x : Nat × Nat) =>
    match regFind x.1 with
    | some (d, _) => m.writeNow l d x.1 (BitVec.ofNat 64 x.2)
    | none => m) { m with shutWr := m.shutWr.filter fun x => offTile x.1 != some t }

end Sys2Proof.Machine
end

