-- ==== Sys2Proof/Machine/BarOps.lean ====
section
/-! DEFINITION. Sys2Proof/Machine/BarOps.lean: accesses of 4 and 8 bytes to a window of registers (R125, R356, R616, R617), and the windows:
BAR0 with its aliases, its queue interface and its self window, and the BAR of a service function (R630). -/
namespace Sys2Proof.Machine

/-! ### Accesses -/

/-- A window of registers: the register at an offset, with its first offset and width; what it reads as, and what of that a write of its other
half leaves as it is; what a write does; what a read clears (R12); the first offset of the record that a register is a word of (R356); the block
of an offset. -/
structure Bus where
  span : Nat → Option (Nat × Nat)
  view : Mach → Nat → Word
  keep : Mach → Nat → Word
  write : Mach → Nat → Word → Mach
  rc : Mach → Nat → Mach
  record : Nat → Option Nat
  block : Nat → Nat

/-- The latches of a source. -/
def Mach.lat (m : Mach) (k : Nat) : SrcLatch := SMap.get {} m.latches k
def Mach.setLat (m : Mach) (k : Nat) (x : SrcLatch) : Mach := { m with latches := SMap.set {} m.latches k x }

/-- The low dword that a source's write left held in a block is written alone (R617). -/
def Mach.flushHeld (m : Mach) (b : Bus) (k off : Nat) : Mach :=
  let x := m.lat k
  match SMap.find x.held (b.block off) with
  | some (s, lo) =>
    let m := m.setLat k { x with held := SMap.del x.held (b.block off) }
    b.write m s (putField (b.keep m s) 0 32 lo)
  | none => m

/-- What a source reads of a register: the word that its record latch holds, where that holds the register's record (R356). -/
def Mach.latched (m : Mach) (b : Bus) (k s : Nat) : Nat :=
  match b.record s, (m.lat k).recd with
  | some r, some (r', ws) => if r = r' then ws.getD ((s - r) / 8) 0 else (b.view m s).toNat
  | _, _ => (b.view m s).toNat

/-- A read of a record's first dword latches the whole record (R356). -/
def Mach.latchRec (m : Mach) (b : Bus) (k s : Nat) : Mach :=
  if b.record s = some s then
    m.setLat k { m.lat k with recd := some (s, (List.range 4).map fun i => (b.view m (s + 8 * i)).toNat) }
  else m

/-- A read of `TB_NS` latches `TB_FRAC` for the source's next read of it (R519). -/
def Mach.latchFrac (m : Mach) (k s : Nat) : Mach :=
  if s = TB_NS then m.setLat k { m.lat k with frac := some (m.tb / 2 ^ 16 % 2 ^ 16) } else m

/-- A read of 4 bytes (R125). -/
def Mach.read4 (m : Mach) (b : Bus) (k off : Nat) : Nat × Mach :=
  let m := m.flushHeld b k off
  match b.span off with
  | none => (0, m)
  | some (s, n) =>
    if n ≤ 4 then
      match s == TB_FRAC, (m.lat k).frac with
      | true, some f => (f, m.setLat k { m.lat k with frac := none })
      | _, _ => ((b.view m s).toNat % 2 ^ 32, b.rc m s)
    else if off = s then
      let m := (m.latchRec b k s).latchFrac k s
      let v := m.latched b k s
      (v % 2 ^ 32, m.setLat k { m.lat k with high := some (s, v / 2 ^ 32) })
    else match (m.lat k).high with
      | some (s', h) => if s' = s then (h, m) else (m.latched b k s / 2 ^ 32, m)
      | none => (m.latched b k s / 2 ^ 32, m)

/-- A read of 8 bytes: a 64-bit register whole; else two registers, the lower address first (R616). -/
def Mach.read8 (m : Mach) (b : Bus) (k off : Nat) : Nat × Mach :=
  match b.span off with
  | some (s, 8) =>
    if off = s then
      let m := ((m.flushHeld b k off).latchRec b k s).latchFrac k s
      (m.latched b k s, m)
    else (0, m)
  | _ =>
    let (lo, m) := m.read4 b k off
    let (hi, m) := m.read4 b k (off + 4)
    (lo + 2 ^ 32 * hi, m)

/-- A write of 4 bytes (R617): the low dword of a 64-bit register is held for its high dword. -/
def Mach.write4 (m : Mach) (b : Bus) (k off v : Nat) : Mach :=
  let v := v % 2 ^ 32
  match b.span off with
  | none => m.flushHeld b k off
  | some (s, n) =>
    if n ≤ 4 then b.write (m.flushHeld b k off) s (BitVec.ofNat 64 v)
    else if off = s then
      let m := m.flushHeld b k off
      m.setLat k { m.lat k with held := SMap.ins (m.lat k).held (b.block off) (s, v) }
    else match SMap.find (m.lat k).held (b.block off) with
      | some (s', lo) =>
        if s' = s then b.write (m.setLat k { m.lat k with held := SMap.del (m.lat k).held (b.block off) }) s (BitVec.ofNat 64 (lo + 2 ^ 32 * v))
        else let m := m.flushHeld b k off; b.write m s (putField (b.keep m s) 32 32 v)
      | none => b.write m s (putField (b.keep m s) 32 32 v)

/-- A write of 8 bytes (R616, R617). -/
def Mach.write8 (m : Mach) (b : Bus) (k off v : Nat) : Mach :=
  match b.span off with
  | some (s, 8) => if off = s then b.write (m.flushHeld b k off) s (BitVec.ofNat 64 v) else m
  | _ => (m.write4 b k off v).write4 b k (off + 4) (v / 2 ^ 32)

/-! ### The queue interface (R425) -/

/-- Registers of a queue interface, by offset. -/
def qSpan (off : Nat) : Option (Nat × Nat) :=
  let four := some (off / 4 * 4, 4)
  let eight := some (off / 8 * 8, 8)
  if off < 0xC00 then four else if off < 0xC28 then eight else if off < 0xC34 then four
  else if 0xD00 ≤ off ∧ off < 0xF00 then eight else if 0xF00 ≤ off ∧ off < 0x1000 then four else none

/-- What a register of a domain's queue interface reads as. -/
def Mach.qView (m : Mach) (d off : Nat) : Word :=
  let q := m.qif d
  if off < 0xC00 then 0
  else if off < 0xC28 then BitVec.ofNat 64 ([q.sqBase, q.cqBase, q.sqTsh, q.sqHsh, q.cqHsh].getD ((off - 0xC00) / 8) 0)
  else if off = 0xC28 then BitVec.ofNat 64 q.cfg
  else if off = 0xC2C then pack [(0, q.ready.toNat), (1, q.cfgErr.toNat)]
  else if off = 0xC30 then BitVec.ofNat 64 q.inval
  else if off < 0xD00 then 0
  else if off < 0xF00 then m.sqStatus d ((off - 0xD00) / 8)
  else match m.cqOf d ((off - 0xF00) / 4) with
    | some c => pack [(0, 1), (1, if c.ovf.isEmpty then 0 else 1), (2, c.overflow.toNat), (16, c.ovf.length)]
    | none => 0

/-- A write of a register of a domain's queue interface; mem is what reads of queue memory return, where it is a doorbell. -/
def Mach.qRegWrite (m : Mach) (d off : Nat) (v : Word) (mem : QMem) : Mach :=
  let a := v.toNat / 8 * 8
  let en := bit (m.qif d).cfg 16
  if off < 0x400 then (if off / 4 < 64 then m.tailBell d (off / 4) mem else m)
  else if off < 0x800 then (if (off - 0x400) / 4 < 64 then m.headBell d ((off - 0x400) / 4) (mem.tails.head?.join) else m)
  else if off < 0xC00 then
    if (off - 0x800) / 4 < 64 then invalidateDoorbell (Fin.ofNat 4096 d) (Fin.ofNat 64 ((off - 0x800) / 4)) (v.truncate 32) mem m else m
  else if off < 0xC28 then
    if en then m
    else m.updQif d fun q =>
      match (off - 0xC00) / 8 with
      | 0 => { q with sqBase := a }
      | 1 => { q with cqBase := a }
      | 2 => { q with sqTsh := a }
      | 3 => { q with sqHsh := a }
      | _ => { q with cqHsh := a }
  else if off = 0xC28 then m.wqCfgWrite d (v.toNat % 2 ^ 32)
  else if 0xD00 ≤ off ∧ off < 0xF00 then
    if v.getLsbD 4 then m.updSq d ((off - 0xD00) / 8) fun s => { s with invalIgnored := false } else m
  else if 0xF00 ≤ off then
    if v.getLsbD 2 then m.updCq d ((off - 0xF00) / 4) fun c => { c with overflow := false } else m
  else m

/-! ### The self window (R476) -/

/-- Registers of the self window, by BAR0 offset. -/
def selfSpan (off : Nat) : Option (Nat × Nat) :=
  if 0x60F000 ≤ off ∧ off < 0x60F010 then some (off / 4 * 4, 4)
  else if 0x60F010 ≤ off ∧ off < 0x60F030 then some (off / 8 * 8, 8)
  else if 0x60F030 ≤ off ∧ off < 0x60F034 then some (0x60F030, 4)
  else none

/-- What a thread reads in its self window. -/
def Mach.selfView (m : Mach) (th off : Nat) : Word :=
  match m.thr th with
  | none => 0
  | some t =>
    if off = 0x60F000 then
      pack [(0, th), (8, t.manager.toNat), (9, if t.manager then 0 else t.local_), (16, if t.manager then 0 else t.dom)]
    else if off = 0x60F004 then pack [(0, t.tvec)]
    else if off = 0x60F008 then pack [(0, m.timerLeft t)]
    else if off = 0x60F00C then pack [(0, t.selfDom)]
    else if 0x60F010 ≤ off ∧ off < 0x60F030 then recWord t.trec.bytes ((off - 0x60F010) / 8)
    else 0

/-- What a thread's write in its self window does. -/
def Mach.selfWrite (m : Mach) (th off : Nat) (v : Word) : Mach :=
  let w := v.toNat
  if off = 0x60F004 then m.updThr th fun t => { t with tvec := w % 2 ^ 20 / 4 * 4 }
  else if off = 0x60F008 then m.updThr th fun t => { t with timer := w % 2 ^ 32, timerAt := m.now }
  else if off = 0x60F00C then m.updThr th fun t => { t with selfDom := w % 4096 }
  else if off = 0x60F030 then selfTrecClr (Fin.ofNat 256 th) (v.truncate 32) m
  else m

/-! ### BAR0 (R615) -/

/-- An offset in D0's queue interface. -/
def d0Queue (off : Nat) : Bool := 0x808000 ≤ off && off < 0x809000

/-- The number of a source. -/
def BarSrc.key : BarSrc → Nat
  | .fn f => f
  | .mctp => 8
  | .thread th => 16 + th

/-- The thread that a source is. -/
def BarSrc.thread? : BarSrc → Option Nat
  | .thread th => some th.val
  | _ => none

/-- What a BAR0 register reads as; an alias reads its lowest member (R623). -/
def Mach.barView (m : Mach) (l : ModeLatch) (src : BarSrc) (off : Nat) : Word :=
  if d0Queue off then m.qView 0 (off - 0x808000)
  else match src.thread?, selfSpan off with
    | some th, some _ => m.selfView th off
    | _, _ =>
      let at_ := match m.aliasOf off with | some ms => ms.head? | none => some off
      match at_ with
      | some a => (match regFind a with | some (d, _) => m.view l d a | none => 0)
      | none => 0

/-- What a write of a BAR0 register does; through an alias, to each selected member (R127, R623). -/
def Mach.barReg (m : Mach) (l : ModeLatch) (src : BarSrc) (mem : QMem) (off : Nat) (v : Word) : Mach :=
  if d0Queue off then m.qRegWrite 0 (off - 0x808000) v mem
  else match src.thread?, selfSpan off with
    | some th, some _ => m.selfWrite th off v
    | _, _ =>
      ((m.aliasOf off).getD [off]).foldl (fun (m : Mach) a =>
        match regFind a with | some (d, _) => m.writeReg l d a v | none => m) m

/-- BAR0 as a source accesses it. -/
def bar0 (l : ModeLatch) (src : BarSrc) (mem : QMem) : Bus where
  span off :=
    if d0Queue off then (qSpan (off - 0x808000)).map fun x => (x.1 + 0x808000, x.2)
    else if src.thread?.isSome && (selfSpan off).isSome then selfSpan off else regSpan off
  view m off := m.barView l src off
  keep m off := m.barView l src off &&& ~~~(if d0Queue off then 16 else 0)
  write m off v := m.barReg l src mem off v
  rc m off :=
    if canon off = off then
      match regFind off with
      | some (d, _) => if d.mask (fun a => a == .rc) = 0 then m else m.setReg off (m.reg off &&& ~~~(d.bits fun a => a == .rc))
      | none => m
    else m
  record off :=
    [DOM_VIOL 0, DOM_FERR 0, CSM_REC 0, LVR_ENT_REC 0].find? fun r => r ≤ off && off < r + 32
  block := blockOf

/-- An access that breaks R616 or R618. -/
def Mach.sizeErr (m : Mach) (off : Nat) : Mach := (m.raise GLB_ACC_EVENT_SIZE_ERR).wr GLB_ACC_ADDR_OFFSET off

/-- An access ends IDLE (R561, R619). -/
def Mach.wakeIdle (m : Mach) (src : BarSrc) : Mach := match src with | .thread _ => m | _ => idleExit m

/-- A BAR0 read of 4 or 8 bytes: its value, and what it leaves (R616 to R619). -/
def Mach.barRead (m : Mach) (l : ModeLatch) (src : BarSrc) (off : Nat) (wide : Bool) : Nat × Mach :=
  let m := m.wakeIdle src
  if off % (if wide then 8 else 4) != 0 then (0, m.sizeErr off)
  else if !m.answers src off then (0, m)
  else
    let b := bar0 l src {}
    if wide then m.read8 b src.key off else m.read4 b src.key off

/-- A BAR0 write of 4 or 8 bytes. -/
def Mach.barWrite (m : Mach) (l : ModeLatch) (src : BarSrc) (off : Nat) (wide : Bool) (v : Nat) (mem : QMem) : Mach :=
  let m := m.wakeIdle src
  if off % (if wide then 8 else 4) != 0 then m.sizeErr off
  else if !m.answers src off then m
  else
    let b := bar0 l src mem
    if wide then m.write8 b src.key off v else m.write4 b src.key off v

/-! ### The BAR of a service function (R630, R631) -/

/-- The domain of a service function: of the PF's upstream port; the function domain of a VF. -/
def Mach.fnDom (m : Mach) (f : Nat) : Option Nat :=
  if f < 1024 then m.portDom f
  else (m.doms.find? fun (x : Nat × DomRec) => x.2.state != .free && x.2.vf == some (f - 1024)).map fun x => x.1

/-- A service function answers (R176, R597, R631): in stage F of native mode, where its port is upstream, or its VF is enabled. -/
def Mach.fnAnswers (m : Mach) (l : ModeLatch) (f : Nat) : Bool :=
  !l.tf && m.rd WKT_BOOT_STATUS_STAGE == 3 && m.rd WKT_PWR_STATUS_STATE < 4 &&
  (if f < 1024 then m.isUp f
   else match m.vfPort (f - 1024) with
     | some p => f - 1024 - (m.vfRange p).1 < (m.px p).vfsOn
     | none => false)

/-- Registers of a service function's BAR. -/
def fnSpan (off : Nat) : Option (Nat × Nat) :=
  let eight := some (off / 8 * 8, 8)
  if off < 0x1000 then qSpan off
  else if off < 0x1008 then some (off / 4 * 4, 4)
  else if 0x1020 ≤ off ∧ off < 0x1060 then eight
  else if 0x2000 ≤ off ∧ off < 0x2080 then eight
  else if 0x8000 ≤ off ∧ off < 0x8410 then (if off % 16 < 8 then eight else some (off / 4 * 4, 4))
  else if 0x9000 ≤ off ∧ off < 0x9010 then eight
  else none

/-- A word of a service function's MSI-X table: every vector is masked at reset. -/
def Mach.fnEntry (m : Mach) (f w : Nat) : Word := SMap.get (if w % 2 = 1 then 0x100000000 else 0) m.fnTbl (f * 130 + w)

/-- What a register of a service function's BAR reads as (R515, R631). -/
def Mach.fnView (m : Mach) (f off : Nat) : Word :=
  if 0x8000 ≤ off ∧ off < 0x8410 then
    let w := m.fnEntry f ((off - 0x8000) / 8)
    if off % 16 < 12 then w else w >>> 32
  else if 0x9000 ≤ off then
    pack [(0, ((List.range 64).map fun i =>
      let v := (off - 0x9000) / 8 * 64 + i
      if v < 65 && m.fnPend.contains (f * 65 + v) then 2 ^ i else 0).sum)]
  else match m.fnDom f with
    | none => 0
    | some d =>
      let r := m.dom d
      if off < 0x1000 then m.qView d off
      else if off = 0x1000 then pack [(0, 1), (1, r.state.code), (4, d), (16, r.gen)]
      else if 0x1020 ≤ off ∧ off < 0x1040 then recWord r.viol.bytes ((off - 0x1020) / 8)
      else if 0x1040 ≤ off ∧ off < 0x1060 then recWord r.ferr.bytes ((off - 0x1040) / 8)
      else if 0x2000 ≤ off ∧ off < 0x2080 then (if r.cntAccess then m.reg (CNT_DOM d ((off - 0x2000) / 8)) else 0)
      else 0

/-- DOM_FN_CLR (R631): the records of the function's domain. -/
def Mach.fnClr (m : Mach) (f v : Nat) : Mach :=
  match m.fnDom f with
  | some d =>
    let m := if bit v 0 then m.violClr d else m
    if bit v 1 then m.ferrClr d else m
  | none => m

/-- A word of a function's MSI-X table takes a value: a vector unmasked with its Pending bit set is signalled. -/
def Mach.fnTblWrite (m : Mach) (f w : Nat) (v : Word) : Mach :=
  let m := { m with fnTbl := SMap.set (if w % 2 = 1 then 0x100000000 else 0) m.fnTbl (f * 130 + w) v }
  let p := f * 65 + w / 2
  if w % 2 = 1 ∧ !v.getLsbD 32 ∧ m.fnPend.contains p then { m with fnPend := m.fnPend.filter (· != p) }.send (.fnMsix f (w / 2)) else m

/-- What a write of a register of a service function's BAR does. -/
def Mach.fnReg (m : Mach) (f : Nat) (mem : QMem) (off : Nat) (v : Word) : Mach :=
  if off < 0x1000 then (match m.fnDom f with | some d => m.qRegWrite d off v mem | none => m)
  else if off = 0x1004 then m.fnClr f v.toNat
  else if 0x8000 ≤ off ∧ off < 0x8410 then
    let w := (off - 0x8000) / 8
    let old := m.fnEntry f w
    if off % 16 < 8 then m.fnTblWrite f w (v &&& ~~~3)
    else if off % 16 < 12 then m.fnTblWrite f w (putField old 0 32 v.toNat)
    else m.fnTblWrite f w (putField old 32 32 (v.toNat % 2))
  else m

/-- The BAR of a service function. -/
def fnBar (f : Nat) (mem : QMem) : Bus where
  span := fnSpan
  view m off := m.fnView f off
  keep m off := m.fnView f off &&& ~~~(if off < 0x1000 then 16 else 0)
  write m off v := m.fnReg f mem off v
  rc m _ := m
  record off := [0x1020, 0x1040].find? fun r => r ≤ off && off < r + 32
  block off := off / 0x1000

/-- A write of 4 or 8 bytes to a service function's BAR; before stage F it is ignored. -/
def Mach.fnWrite (m : Mach) (l : ModeLatch) (f off : Nat) (wide : Bool) (v : Nat) (mem : QMem) : Mach :=
  if off % (if wide then 8 else 4) != 0 || !m.fnAnswers l f then m
  else
    let b := fnBar f mem
    if wide then m.write8 b (4096 + f) off v else m.write4 b (4096 + f) off v

/-- A read of 4 or 8 bytes of a service function's BAR. -/
def Mach.fnRead (m : Mach) (l : ModeLatch) (f off : Nat) (wide : Bool) : Nat × Mach :=
  if off % (if wide then 8 else 4) != 0 || !m.fnAnswers l f then (0, m)
  else
    let b := fnBar f {}
    if wide then m.read8 b (4096 + f) off else m.read4 b (4096 + f) off

end Sys2Proof.Machine
end

