-- ==== Sys2Proof/Machine/Access.lean ====
section
/-! DEFINITION. Sys2Proof/Machine/Access.lean: register accesses (R10, R12, R125, R127, R616 to R618, R622, R627, R629, R631), the
instructions that make them (R498, R499), and the ungating of a tile, which applies the writes it has stored (R558, R559). -/
namespace Sys2Proof.Machine

/-- What a register access answers: as act; where it wrote the cold reset to `WKT_RESET_CTRL`, the machine after that reset (R87). -/
def actW (f : ModeLatch → Mach → Mach) (s : State) : Res :=
  let m := f s.latch { s.m with out := [] }
  match m.coldReq with
  | some c => .next ({ s with m := { m with coldReq := none } }.cold c)
  | none => .next { s with m := m.signal s.m.irqOn }

/-! ### Reads and writes -/

/-- A read of a register, and the completion that answers it. -/
def readAt (a : BarAt) (wide : Bool) (l : ModeLatch) (m : Mach) : Mach :=
  match a with
  | .bar0 src off =>
    if m.reaches l src then
      let r := m.barRead l src off wide
      r.2.send (.barData src (BitVec.ofNat 64 r.1))
    else m
  | .fn f off =>
    let r := m.fnRead l f off wide
    r.2.send (.fnData f (BitVec.ofNat 64 r.1))

/-- A write of a register. -/
def writeAt (a : BarAt) (wide : Bool) (v : Nat) (mem : QMem) (l : ModeLatch) (m : Mach) : Mach :=
  match a with
  | .bar0 src off => if m.reaches l src then m.barWrite l src off wide v mem else m
  | .fn f off => m.fnWrite l f off wide v mem

/-- Whether an offset is the low dword of a 64-bit register. -/
def lowDword (a : BarAt) (l : ModeLatch) : Bool :=
  match a with
  | .bar0 src off => (bar0 l src {}).span off == some (off.val, 8)
  | .fn _ off => fnSpan off == some (off.val, 8)

/-- LOW_DWORD_READ (R125): a read of 4 bytes of a 64-bit register's low dword. -/
def execLowDwordRead (a : BarAt) (s : State) : Res := actW (fun l m => if lowDword a l then readAt a false l m else m) s

/-- RC_FIELD_READ (R12): a read of a register; the fields of its type RC are cleared. -/
def execRcFieldRead (a : BarAt) (wide : Bool) (s : State) : Res := actW (readAt a wide) s

/-- LOW_DWORD_WRITE_HOLD (R617): a write of 4 bytes of a 64-bit register's low dword. -/
def execLowDwordWriteHold (a : BarAt) (v : BitVec 32) (s : State) : Res :=
  actW (fun l m => if lowDword a l then writeAt a false v.toNat {} l m else m) s

/-- A write of a personality's counter registers (R517, R518, R606): what its native sources have counted is taken first. -/
def Mach.tfCtrWrite (m : Mach) (p : Nat) (w : TfCtrWrite) : Mach :=
  let m := m.tfSync p
  let c : TfCtr := SMap.get {} m.tfCtr p
  let each := fun (f : Nat → TfCnt → TfCnt) => (List.range 8).foldl (fun (c : TfCtr) n => c.setCtr n (f n (c.ctr n))) c
  let c := match w with
    | .cycle v => { c with cyc := v.toNat }
    | .count n v => c.setCtr n { c.ctr n with count := v.toNat }
    | .select n e => c.setCtr n { c.ctr n with sel := e, seen := m.tfSource p e }
    | .enable mask => each fun n x => { x with en := mask.getLsbD n }
    | .control chain freeze cycEn => { c with chain := chain.toNat, freeze := freeze, cycEn := cycEn }
    | .clearOvf mask => each fun n x => { x with ovf := x.ovf && !mask.getLsbD n }
  { m with tfCtr := SMap.set {} m.tfCtr p c }

/-- A personality is there: in stages C and F of TF-256 mode (R593, R595, R601). -/
def Mach.tfHas (m : Mach) (l : ModeLatch) (p : Nat) : Bool :=
  l.tf && p < l.personalities && 2 ≤ m.rd WKT_BOOT_STATUS_STAGE && m.rd WKT_BOOT_STATUS_STAGE ≤ 3 && m.rd WKT_PWR_STATUS_STATE < 4

/-- REGISTER_WRITE (R10). -/
def registerWrite (t : BarTgt) (wide : Bool) (v : Word) (mem : QMem) (l : ModeLatch) (m : Mach) : Mach :=
  match t with
  | .reg a => writeAt a wide v.toNat mem l m
  | .tf p w => if m.tfHas l p then m.tfCtrWrite p w else m

def execRegisterWrite (t : BarTgt) (wide : Bool) (v : Word) (mem : QMem) (s : State) : Res := actW (registerWrite t wide v mem) s

/-- ALIAS_WRITE (R127, R623). -/
def aliasWrite (src : BarSrc) (off : Nat) (wide : Bool) (v : Word) (l : ModeLatch) (m : Mach) : Mach :=
  if m.reaches l src && (m.aliasOf off).isSome then m.barWrite l src off wide v.toNat {} else m

def execAliasWrite (src : BarSrc) (off : Fin 268435456) (wide : Bool) (v : Word) (s : State) : Res := actW (aliasWrite src off wide v) s

/-- LOCKED_FIELD_WRITE (R622): a write of `SEQ_CTRL`, the one register of stepping B0 with a locked field. -/
def lockedFieldWrite (src : BarSrc) (v : BitVec 32) (l : ModeLatch) (m : Mach) : Mach :=
  if m.reaches l src then m.barWrite l src SEQ_CTRL false v.toNat {} else m

def execLockedFieldWrite (src : BarSrc) (v : BitVec 32) (s : State) : Res := actW (lockedFieldWrite src v) s

/-- IRQ_EOI (R627). -/
def irqEoi (src : BarSrc) (v : BitVec 32) (l : ModeLatch) (m : Mach) : Mach :=
  if m.reaches l src then m.barWrite l src GLB_IRQ_EOI false v.toNat {} else m

def execIrqEoi (src : BarSrc) (v : BitVec 32) (s : State) : Res := actW (irqEoi src v) s

/-- SUMMARY_VECTOR_SIGNAL (R627): a vector whose C has risen. -/
def summaryVectorSignal (v : Nat) (m : Mach) : Mach :=
  if bit m.irqOwed v then { m with irqOwed := withBit m.irqOwed v false }.signalVec v else m

def execSummaryVectorSignal (v : Fin 11) (s : State) : Res := act (summaryVectorSignal v) s

/-- TF_QUIRK_WRITE (R611, R612). -/
def tfQuirkWrite (src : BarSrc) (p : Nat) (v : BitVec 32) (l : ModeLatch) (m : Mach) : Mach :=
  if m.reaches l src then m.barWrite l src (TF_QUIRK p) false v.toNat {} else m

def execTfQuirkWrite (src : BarSrc) (p : Fin 4) (v : BitVec 32) (s : State) : Res := actW (tfQuirkWrite src p v) s

/-- DOM_FN_CLR (R631): the function is the port of a PF, or 1024 + VF. -/
def domFnClr (f : Nat) (v : BitVec 32) (l : ModeLatch) (m : Mach) : Mach := if m.fnAnswers l f then m.fnClr f v.toNat else m

def execDomFnClr (f : Nat) (v : BitVec 32) (s : State) : Res := actL (domFnClr f v) s

/-! ### Sizes (R616, R618) -/

/-- A size and alignment that BAR0 accepts. -/
def sizeOk (off size : Nat) : Bool := (size == 4 && off % 4 == 0) || (size == 8 && off % 8 == 0)

/-- ACCESS_SIZE_ERROR: a read returns 0, one longer than 8 bytes Completer Abort; a write longer than 8 bytes is LONG_WRITE_TLP's. A thread's
instructions trap instead (R498). -/
def accessSizeError (src : BarSrc) (off size : Nat) (write : Bool) (l : ModeLatch) (m : Mach) : Mach :=
  if !m.reaches l src || sizeOk off size || src.thread?.isSome || (write && decide (8 < size)) then m
  else
    let m := (m.wakeIdle src).sizeErr off
    if write then m else if 8 < size then m.send (.barAbort src) else m.send (.barData src 0)

def execAccessSizeError (src : BarSrc) (off : Fin 268435456) (size : Nat) (write : Bool) (s : State) : Res :=
  actW (accessSizeError src off size write) s

/-- The accesses of a long write from an 8-byte boundary: 8 bytes each, the last dword alone. -/
def Mach.longWrite (m : Mach) (l : ModeLatch) (src : BarSrc) (mem : QMem) (off : Nat) : List (BitVec 32) → Mach
  | a :: b :: rest => Mach.longWrite (m.barWrite l src off true (a.toNat + 2 ^ 32 * b.toNat) mem) l src mem (off + 8) rest
  | [a] => m.barWrite l src off false a.toNat mem
  | [] => m

/-- LONG_WRITE_TLP (R618). -/
def longWriteTlp (f : Fin 8) (off : Nat) (dws : List (BitVec 32)) (full : Bool) (mem : QMem) (l : ModeLatch) (m : Mach) : Mach :=
  let src := BarSrc.fn f
  let n := dws.length
  if !m.reaches l src || decide (n ≤ 2) then m
  else if !full || off % 4 != 0 || off / 64 != (off + 4 * n - 1) / 64 then (m.wakeIdle src).sizeErr off
  else if off % 8 = 4 then
    match dws with
    | a :: rest => (m.barWrite l src off false a.toNat mem).longWrite l src mem (off + 4) rest
    | [] => m
  else m.longWrite l src mem off dws

def execLongWriteTlp (f : Fin 8) (off : Fin 268435456) (dws : List (BitVec 32)) (full : Bool) (mem : QMem) (s : State) : Res :=
  actW (longWriteTlp f off dws full mem) s

/-! ### MCTP (R629) -/

/-- The Kamtor MCTP endpoint serves register requests: in stage W and in DORMANT the Wicket island does, in stages C and F the manager
firmware, but while it restarts (R474). -/
def Mach.mctpServed (m : Mach) : Bool :=
  m.boot.auxGood && (m.rd WKT_BOOT_STATUS_STAGE < 2 || 4 ≤ m.rd WKT_PWR_STATUS_STATE || !m.fwDown)

/-- A response to an MCTP register request. -/
def Mach.mctpAnswer (m : Mach) (cmd code : Nat) (tag : BitVec 16) (off : BitVec 32) (data : Nat) : Mach :=
  m.send (.mctp ((cmd + 0x80) % 256) code tag.toNat off.toNat data)

/-- MCTP_REGISTER_READ: CMD 0x01; a reserved CMD is answered so. -/
def mctpRegisterRead (cmd size : BitVec 8) (tag : BitVec 16) (off : BitVec 32) (l : ModeLatch) (m : Mach) : Mach :=
  let c := cmd.toNat
  let a := off.toNat
  if !m.mctpServed || c == 2 then m
  else if c != 1 then m.mctpAnswer c 3 tag off 0
  else if !sizeOk a size.toNat then ((m.wakeIdle .mctp).sizeErr a).mctpAnswer c 2 tag off 0
  else if !(m.wakeIdle .mctp).answers .mctp a then (m.wakeIdle .mctp).mctpAnswer c 1 tag off 0
  else
    let r := m.barRead l .mctp a (size == 8)
    r.2.mctpAnswer c 0 tag off r.1

def execMctpRegisterRead (cmd size : BitVec 8) (tag : BitVec 16) (off : BitVec 32) (s : State) : Res :=
  actW (mctpRegisterRead cmd size tag off) s

/-- MCTP_REGISTER_WRITE: CMD 0x02. -/
def mctpRegisterWrite (size : BitVec 8) (tag : BitVec 16) (off : BitVec 32) (data : Word) (mem : QMem) (l : ModeLatch) (m : Mach) : Mach :=
  let a := off.toNat
  if !m.mctpServed then m
  else if !sizeOk a size.toNat then ((m.wakeIdle .mctp).sizeErr a).mctpAnswer 2 2 tag off 0
  else if !(m.wakeIdle .mctp).answers .mctp a then (m.wakeIdle .mctp).mctpAnswer 2 1 tag off 0
  else (m.barWrite l .mctp a (size == 8) data.toNat mem).mctpAnswer 2 0 tag off 0

def execMctpRegisterWrite (size : BitVec 8) (tag : BitVec 16) (off : BitVec 32) (data : Word) (mem : QMem) (s : State) : Res :=
  actW (mctpRegisterWrite size tag off data mem) s

/-! ### The CSR instructions (R498, R499) -/

/-- A thread may make a register access: a manager thread one to BAR0; a tenant one to its self window, but for writes of `SELF_TVEC` and
`SELF_DOMAIN`, and reads of its domain's counters while its CNT_ACCESS is 1. -/
def Mach.csrMay (m : Mach) (t : Thread) (a n : Nat) (write : Bool) : Bool :=
  if t.manager then a < 0x10000000
  else if 0x60F000 ≤ a ∧ a < 0x60F040 then
    !(write && ((a < 0x60F008 && 0x60F004 < a + n) || (a < 0x60F010 && 0x60F00C < a + n)))
  else !write && CNT_DOM t.dom 0 ≤ a && a < CNT_DOM t.dom 0 + 0x80 && (m.dom t.dom).cntAccess

/-- A CSR instruction: IMM[0] gives the size, the other bits but two the offset; then the access, or its trap. -/
def Mach.csr (m : Mach) (th w rb : Nat) (imm : BitVec 16) (write : Bool) (f : Mach → Thread → Nat → Bool → Mach) : Mach :=
  m.instr th w fun m t =>
    let a := ((t.reg rb) + ((imm &&& 0xFFFC).zeroExtend 64)).toNat
    let wide := imm.getLsbD 0
    let n := if wide then 8 else 4
    if !m.csrMay t a n write then m.trap th .priv 0 0xFF 0
    else if a % n ≠ 0 then m.trap th .align a 0xFF 0
    else f m t a wide

/-- The thread goes on, with a register written. -/
def Mach.csrDone (m : Mach) (th r : Nat) (v : Word) : Mach :=
  match m.thr th with
  | some t => m.next th (t.setReg r v)
  | none => m

/-- CSRRD; IMM[1] set is a reserved encoding. -/
def csrrd (th : Thr) (rd rb : Fin 32) (imm : BitVec 16) (l : ModeLatch) (m : Mach) : Mach :=
  let w := encI 0x28 rd rb imm.toNat
  if imm.getLsbD 1 then m.instr th w fun m _ => m.trap th .illegal 0 0xFF 0
  else m.csr th w rb imm false fun m _ a wide =>
    let r := m.barRead l (.thread th) a wide
    r.2.csrDone th rd (BitVec.ofNat 64 r.1)

def execCsrrd (th : Thr) (rd rb : Fin 32) (imm : BitVec 16) (s : State) : Res := actW (csrrd th rd rb imm) s

/-- CSRWR. -/
def csrwr (th : Thr) (rs rb : Fin 32) (imm : BitVec 16) (mem : QMem) (l : ModeLatch) (m : Mach) : Mach :=
  let w := encI 0x29 rs rb imm.toNat
  if imm.getLsbD 1 then m.instr th w fun m _ => m.trap th .illegal 0 0xFF 0
  else m.csr th w rb imm true fun m t a wide => (m.barWrite l (.thread th) a wide (t.reg rs).toNat mem).csrDone th 0 0

def execCsrwr (th : Thr) (rs rb : Fin 32) (imm : BitVec 16) (mem : QMem) (s : State) : Res := actW (csrwr th rs rb imm mem) s

/-- CSRSET and CSRCLR: the register is read, written as g makes it, and its old value returned. -/
def csrModify (th : Thr) (w : Nat) (rm rb : Fin 32) (imm : BitVec 16) (mem : QMem) (g : Word → Word → Word) (l : ModeLatch) (m : Mach) : Mach :=
  m.csr th w rb imm true fun m t a wide =>
    let r := m.barRead l (.thread th) a wide
    let old := BitVec.ofNat 64 r.1
    (r.2.barWrite l (.thread th) a wide (g old (t.reg rm)).toNat mem).csrDone th rm old

/-- CSRSET: IMM[1] is 0 in its encoding. -/
def csrset (th : Thr) (rm rb : Fin 32) (imm : BitVec 16) (mem : QMem) (l : ModeLatch) (m : Mach) : Mach :=
  csrModify th (encI 0x2A rm rb (imm &&& ~~~2).toNat) rm rb imm mem (fun old v => old ||| v) l m

def execCsrset (th : Thr) (rm rb : Fin 32) (imm : BitVec 16) (mem : QMem) (s : State) : Res := actW (csrset th rm rb imm mem) s

/-- CSRCLR: IMM[1] is 1 in its encoding. -/
def csrclr (th : Thr) (rm rb : Fin 32) (imm : BitVec 16) (mem : QMem) (l : ModeLatch) (m : Mach) : Mach :=
  csrModify th (encI 0x2A rm rb (imm ||| 2).toNat) rm rb imm mem (fun old v => old &&& ~~~v) l m

def execCsrclr (th : Thr) (rm rb : Fin 32) (imm : BitVec 16) (mem : QMem) (s : State) : Res := actW (csrclr th rm rb imm mem) s

/-! ### Ungating (R558, R559) -/

/-- TILE_UNGATED (R559): the lane part starts anew; the writes that the tile has stored are applied. -/
def tileUngated (t : Tile) (l : ModeLatch) (m : Mach) : Mach :=
  if m.gated t && !bit (m.rd WKT_SHUTTER_TILE) t then
    ({ m with lanes := SMap.drop m.lanes (t.val * 16) (t.val * 16 + 16) }.setGated (withBit (m.rd WKT_SHUTTER_STATUS_TILE) t false)).applyShut l t
  else m

def execTileUngated (t : Tile) (s : State) : Res := actL (tileUngated t) s

end Sys2Proof.Machine
end

