-- ==== Sys2Proof/Machine/Tf.lean ====
section
/-! DEFINITION. Sys2Proof/Machine/Tf.lean: the commands of TF-256 mode (22): the EEPROM interface, HDM decoders, firmware-assisted accesses,
and the lag of quirk E7. -/
namespace Sys2Proof.Machine

/-! ### Configuration (R596) -/

/-- EEPROM_INTERFACE_WRITE: the bytes go to the personality's configuration copy, for the next stage C. -/
def eepromInterfaceWrite (p : Nat) (off : Nat) (bytes : List Byte) (sumOk : Bool) (ports : List TfPort) (l : ModeLatch) (m : Mach) : Mach :=
  if m.tfHas l p && !m.fwDown then
    let c : TfCopy := SMap.get {} m.flash.tf p
    let c := { c with present := true, sumOk := sumOk, bytes := Mem.writeBytes c.bytes off (bytes.take (32768 - off)), ports := ports }
    { m with flash := { m.flash with tf := SMap.set {} m.flash.tf p c } }.send (.tfDone p 0)
  else m

def execEepromInterfaceWrite (p : Fin 4) (off : Fin 32768) (bytes : List Byte) (sumOk : Bool) (ports : List TfPort) (s : State) : Res :=
  actL (eepromInterfaceWrite p off bytes sumOk ports) s

/-! ### HDM decoders (R598, R599) -/

/-- The largest k from a bound down for which a block of 2^k bytes at a is aligned and lies below e. -/
def pow2At (a e : Nat) : Nat → Nat
  | 0 => 0
  | k + 1 => if a % 2 ^ (k + 1) = 0 ∧ a + 2 ^ (k + 1) ≤ e then k + 1 else pow2At a e k

/-- The fewest naturally aligned power-of-two blocks that cover a range, lowest first; none where more than a bound are needed, or one would
be smaller than 4 KiB. -/
def pow2Cover (e : Nat) : Nat → Nat → Option (List (Nat × Nat))
  | 0, a => if a < e then none else some []
  | n + 1, a =>
    if e ≤ a then some []
    else
      let k := pow2At a e 52
      if k < 12 then none else (pow2Cover e n (a + 2 ^ k)).map fun l => (a, k) :: l

/-- A target of a decoder as a member of an interleave set: bound in the decoder's VCS (R599). -/
def Mach.hdmMember (m : Mach) (p d : Nat) (dpa : Nat) (x : Nat × Option Nat) : Option Member :=
  let q := tfNative p x.1
  let ld := x.2.getD 0
  match m.bindOf q ld with
  | some b =>
    if x.1 < 32 && m.isDown q && m.portDom b.up == some d && x.2.isSome == m.flag (TILE_PORT_STATUS_MLD q) && decide (ld < 16) then
      some { port := q, ld := ld, mld := x.2.isSome, dpaBase := dpa }
    else none
  | none => none

/-- Slots of a domain that hold no Casement and that no accepted change fills. -/
def Mach.freeCasSlots (m : Mach) (d : Nat) : List Nat :=
  let taken := m.changes.flatMap fun c => match c.change with
    | .slots d' l _ => if d' = d then l.map (·.1) else []
    | .slot d' s _ => if d' = d then [s] else []
    | _ => []
  (List.range 256).filter fun s => (SMap.find (m.dom d).cas s).isNone && !taken.contains s

/-- Casements that a domain holds or will hold once the accepted changes have taken effect. -/
def Mach.heldCas (m : Mach) (d : Nat) : List Casement :=
  (m.dom d).cas.map (·.2) ++ m.changes.flatMap fun c => match c.change with
    | .slots d' l _ => if d' = d then l.filterMap (·.2) else []
    | _ => []

/-- What covers a decoder: its Casements by slot, and the interleave set it takes. None where it cannot be covered. -/
def Mach.hdmCover (m : Mach) (p d : Nat) (b : HdmBody) : Option (List (Nat × Casement) × Option (Nat × IlvSet)) :=
  let mems := b.targets.filterMap (m.hdmMember p d b.dpa)
  let set := if b.ways = 0 then none else (List.range 1024).find? fun i => (SMap.find m.ilv i).isNone && m.ilvRefs i == 0
  let blocks := if b.base + b.size ≤ 2 ^ 52 then pow2Cover (b.base + b.size) 256 b.base else none
  match blocks, mems with
  | some (x :: xs), mb :: _ =>
    let (target, off) := match set with
      | some i => (i, 0)
      | none => (mb.port + (if mb.mld then mb.ld * 2 ^ 10 + 2 ^ 14 else 0), b.dpa)
    let cas := (x :: xs).map fun y : Nat × Nat =>
      ({ base := y.1, k := y.2, r := true, w := true, a := true, spec := false, coh := false, hedge := 0, privOnly := false,
         ilv := set.isSome, mirror := false, target := target, offset := off + (y.1 - b.base), cohBase := 0 } : Casement)
    let slots := m.freeCasSlots d
    if mems.length ≠ b.targets.length ∨ mems.length ≠ 2 ^ b.ways ∨ 3 < b.ways ∨ 6 < b.gran ∨ (b.ways ≠ 0 ∧ set = none) ∨
       b.dpa % 4096 ≠ 0 ∨ slots.length < cas.length ∨ cas.any (fun c => (m.heldCas d).any c.overlaps) then none
    else
      let ms : SMap Member := mems.zipIdx.map fun y => (y.2, y.1)
      some (slots.zip cas, set.map fun i => (i, { ways := b.ways, gran := b.gran, members := ms }))
  | _, _ => none

/-- A decoder reads Committed: its Casements have passed their commit point (R343), and its Commit stands or the rule fence of its
uncommit is not complete. -/
def Mach.hdmCommitted (m : Mach) (d i : Nat) : Bool :=
  let x : HdmDec := SMap.get {} m.hdm (d * 64 + i)
  !x.slots.isEmpty && x.slots.all fun s => (SMap.find (m.dom d).cas s).isSome || x.clearing

/-- HDM_DECODER_COMMIT. -/
def hdmDecoderCommit (p v i : Nat) (b : HdmBody) (l : ModeLatch) (m : Mach) : Mach :=
  let d := tfDom p v
  let key := d * 64 + i
  let x : HdmDec := SMap.get {} m.hdm key
  if !m.tfHas l p || m.rd WKT_BOOT_STATUS_STAGE != 3 || m.fwDown || !x.slots.isEmpty then m
  else match m.hdmCover p d b with
    | none => { m with hdm := SMap.set {} m.hdm key ({ err := true } : HdmDec) }.send (.tfDone p 0)
    | some (cas, set) =>
      let m := match set with
        | some (n, st) => { m with ilv := SMap.set {} m.ilv n st }
        | none => m
      { m with
        hdm := SMap.set {} m.hdm key ({ slots := cas.map fun (y : Nat × Casement) => y.1, set := set.map fun (y : Nat × IlvSet) => y.1 } : HdmDec),
        changes := m.changes ++ [({ change := .slots d (cas.map fun (y : Nat × Casement) => (y.1, some y.2)) none, needWalk := false, entry := none } : PendChange)]
      }.send (.tfDone p 0)

def execHdmDecoderCommit (p : Fin 4) (v : Fin 16) (i : Fin 64) (body : HdmBody) (s : State) : Res := actL (hdmDecoderCommit p v i body) s

/-- HDM_DECODER_UNCOMMIT: the decoder's Casements are freed at one commit point, which starts the domain's rule fence. -/
def hdmDecoderUncommit (p v i : Nat) (l : ModeLatch) (m : Mach) : Mach :=
  let d := tfDom p v
  let key := d * 64 + i
  let x : HdmDec := SMap.get {} m.hdm key
  if !m.tfHas l p || m.rd WKT_BOOT_STATUS_STAGE != 3 || m.fwDown || x.clearing then m
  else if x.slots.isEmpty then { m with hdm := SMap.del m.hdm key }.send (.tfDone p 0)
  else
    { m with
      hdm := SMap.set {} m.hdm key ({ x with clearing := true } : HdmDec),
      changes := m.changes ++ [({ change := .slots d (x.slots.map fun s => (s, none)) (some key), needWalk := false, entry := none } : PendChange)]
    }.send (.tfDone p 0)

def execHdmDecoderUncommit (p : Fin 4) (v : Fin 16) (i : Fin 64) (s : State) : Res := actL (hdmDecoderUncommit p v i) s

/-! ### Firmware-assisted accesses (R603, R605) -/

/-- What the manager firmware carries out: a sensor's value in the TF-256's units, and what the test region reads, are free values. -/
def Mach.fwaDo (m : Mach) (l : ModeLatch) (p : Nat) : FwaOp → Nat × Mach
  | .sensor => ((m.free).1.toNat % 2 ^ 32, (m.free).2)
  | .lane n off none => m.barRead l (.thread 0) (0x2000000 + (256 * p + n) * 0x800 + off / 4 * 4) false
  | .lane n off (some v) => (0, m.barWrite l (.thread 0) (0x2000000 + (256 * p + n) * 0x800 + off / 4 * 4) false v.toNat {})
  | .other write => if write then (0, m) else ((m.free).1.toNat % 2 ^ 32, (m.free).2)

/-- FIRMWARE_ASSISTED_ACCESS: served within 4 µs; `TF_FWA` keeps the longest time. -/
def firmwareAssistedAccess (p : Nat) (op : FwaOp) (time : Nat) (l : ModeLatch) (m : Mach) : Mach :=
  if m.tfHas l p && !m.fwDown && decide (time ≤ 400) then
    let r := m.fwaDo l p op
    (r.2.wr (TF_FWA_MAX p) (max (r.2.rd (TF_FWA_MAX p)) time)).send (.tfDone p r.1)
  else m

def execFirmwareAssistedAccess (p : Fin 4) (op : FwaOp) (time : Nat) (s : State) : Res := actL (firmwareAssistedAccess p op time) s

/-- FWA_LATE: the access reads 0 or is ignored, and is recorded. -/
def fwaLate (p : Nat) (l : ModeLatch) (m : Mach) : Mach :=
  if m.tfHas l p && m.fwDown then
    ((m.addSat (TF_FWA_LATE p) 1).error { cls := .corrected, block := 7, code := 3 }).send (.tfDone p 0)
  else m

def execFwaLate (p : Fin 4) (s : State) : Res := actL (fwaLate p) s

/-! ### Quirk E7 (R611) -/

/-- E7_LINK_UP_LAG: the port status register shows the link up, and the link-up interrupt follows. -/
def e7LinkUpLag (p : Nat) (m : Mach) : Mach :=
  if m.tfLast && m.linkUp p && !(m.px p).e7Up then (m.updPx p fun x => { x with e7Up := true }).send (.tfLinkUp p) else m

def execE7LinkUpLag (p : Port) (s : State) : Res := act (e7LinkUpLag p) s

end Sys2Proof.Machine
end

