-- ==== Sys2Proof/Machine/Dispatch.lean ====
section
/-! DEFINITION. Sys2Proof/Machine/Dispatch.lean: exec, one arm per constructor of Instr, each one direct call of the
command's meaning. -/
namespace Sys2Proof.Machine

def exec (i : Instr) (s : State) : Host.Outcome State Fault Refusal :=
  match i with
  | .vauxPowerOn => Sys2Proof.Machine.execVauxPowerOn s
  | .auxResetNAssert => Sys2Proof.Machine.execAuxResetNAssert s
  | .supplyUndervoltage => Sys2Proof.Machine.execSupplyUndervoltage s
  | .auxGood => Sys2Proof.Machine.execAuxGood s
  | .bootSlotChoice => Sys2Proof.Machine.execBootSlotChoice s
  | .slotVerifyDone => Sys2Proof.Machine.execSlotVerifyDone s
  | .sysPwrgdWaitTimeout => Sys2Proof.Machine.execSysPwrgdWaitTimeout s
  | .upstreamPerstRelease => Sys2Proof.Machine.execUpstreamPerstRelease s
  | .mgmtEndpointRetrain => Sys2Proof.Machine.execMgmtEndpointRetrain s
  | .enableAssert r => Sys2Proof.Machine.execEnableAssert r s
  | .powerGoodRise r => Sys2Proof.Machine.execPowerGoodRise r s
  | .powerGoodDeadlineMiss r => Sys2Proof.Machine.execPowerGoodDeadlineMiss r s
  | .railPowerGoodLoss r => Sys2Proof.Machine.execRailPowerGoodLoss r s
  | .sysPwrgdLoss => Sys2Proof.Machine.execSysPwrgdLoss s
  | .corePllLock => Sys2Proof.Machine.execCorePllLock s
  | .loaderVerified => Sys2Proof.Machine.execLoaderVerified s
  | .sectionLoaded ix => Sys2Proof.Machine.execSectionLoaded ix s
  | .ddr5TrainingDone ch id marginOk fullOk => Sys2Proof.Machine.execDdr5TrainingDone ch id marginOk fullOk s
  | .stageFReached mems => Sys2Proof.Machine.execStageFReached mems s
  | .bootWatchdog => Sys2Proof.Machine.execBootWatchdog s
  | .configRequestRetry p tag => Sys2Proof.Machine.execConfigRequestRetry p tag s
  | .warmResetNFall => Sys2Proof.Machine.execWarmResetNFall s
  | .orderlyCoreReset => Sys2Proof.Machine.execOrderlyCoreReset s
  | .orderlyDrainTimeout => Sys2Proof.Machine.execOrderlyDrainTimeout s
  | .orderlyResetDeadline => Sys2Proof.Machine.execOrderlyResetDeadline s
  | .disorderlyCoreReset cause => Sys2Proof.Machine.execDisorderlyCoreReset cause s
  | .resetCtrlOrderlyCore key => Sys2Proof.Machine.execResetCtrlOrderlyCore key s
  | .resetCtrlImmediateCore key => Sys2Proof.Machine.execResetCtrlImmediateCore key s
  | .resetCtrlCold key => Sys2Proof.Machine.execResetCtrlCold key s
  | .resetCtrlTile t key => Sys2Proof.Machine.execResetCtrlTile t key s
  | .thermalSample temps => Sys2Proof.Machine.execThermalSample temps s
  | .thermalTrip k => Sys2Proof.Machine.execThermalTrip k s
  | .deviceFatalError block code => Sys2Proof.Machine.execDeviceFatalError block code s
  | .mgPerstNDeassert => Sys2Proof.Machine.execMgPerstNDeassert s
  | .queryDeviceIdentifiers => Sys2Proof.Machine.execQueryDeviceIdentifiers s
  | .getFirmwareParameters => Sys2Proof.Machine.execGetFirmwareParameters s
  | .requestUpdate => Sys2Proof.Machine.execRequestUpdate s
  | .passComponentTable comps => Sys2Proof.Machine.execPassComponentTable comps s
  | .updateComponent comp size im pol => Sys2Proof.Machine.execUpdateComponent comp size im pol s
  | .requestFirmwareData => Sys2Proof.Machine.execRequestFirmwareData s
  | .transferComplete => Sys2Proof.Machine.execTransferComplete s
  | .verifyComplete => Sys2Proof.Machine.execVerifyComplete s
  | .applyComplete => Sys2Proof.Machine.execApplyComplete s
  | .activateFirmware => Sys2Proof.Machine.execActivateFirmware s
  | .getStatus => Sys2Proof.Machine.execGetStatus s
  | .cancelUpdateComponent => Sys2Proof.Machine.execCancelUpdateComponent s
  | .cancelUpdate => Sys2Proof.Machine.execCancelUpdate s
  | .laneCalibrate l => Sys2Proof.Machine.execLaneCalibrate l s
  | .laneRateChange l rate pll cdr adapt => Sys2Proof.Machine.execLaneRateChange l rate pll cdr adapt s
  | .cdrLock l => Sys2Proof.Machine.execCdrLock l s
  | .cdrLossOfLock l => Sys2Proof.Machine.execCdrLossOfLock l s
  | .losAssert l => Sys2Proof.Machine.execLosAssert l s
  | .losDeassert l => Sys2Proof.Machine.execLosDeassert l s
  | .losRelockTimeout l => Sys2Proof.Machine.execLosRelockTimeout l s
  | .laneTxeqWrite l v => Sys2Proof.Machine.execLaneTxeqWrite l v s
  | .coefficientRequest l v => Sys2Proof.Machine.execCoefficientRequest l v s
  | .laneRxeqModeWrite l v => Sys2Proof.Machine.execLaneRxeqModeWrite l v s
  | .laneTestCtrlWrite l v => Sys2Proof.Machine.execLaneTestCtrlWrite l v s
  | .chkClr l => Sys2Proof.Machine.execChkClr l s
  | .checkerLock l inv => Sys2Proof.Machine.execCheckerLock l inv s
  | .chkSyncLoss l bits errs => Sys2Proof.Machine.execChkSyncLoss l bits errs s
  | .injFire l => Sys2Proof.Machine.execInjFire l s
  | .laneInjCtrlWrite l v => Sys2Proof.Machine.execLaneInjCtrlWrite l v s
  | .feSlip l => Sys2Proof.Machine.execFeSlip l s
  | .aliasWrite src off wide v => Sys2Proof.Machine.execAliasWrite src off wide v s
  | .lowDwordRead at_ => Sys2Proof.Machine.execLowDwordRead at_ s
  | .linkDisClear p => Sys2Proof.Machine.execLinkDisClear p s
  | .linkDisSet p => Sys2Proof.Machine.execLinkDisSet p s
  | .retrain p => Sys2Proof.Machine.execRetrain p s
  | .targetWidthChange p w => Sys2Proof.Machine.execTargetWidthChange p w s
  | .lpReqWrite p b => Sys2Proof.Machine.execLpReqWrite p b s
  | .zts1Burst p => Sys2Proof.Machine.execZts1Burst p s
  | .signalDetected p => Sys2Proof.Machine.execSignalDetected p s
  | .zts1 p z => Sys2Proof.Machine.execZts1 p z s
  | .zts2 p z => Sys2Proof.Machine.execZts2 p z s
  | .zeq p z => Sys2Proof.Machine.execZeq p z s
  | .zsds p => Sys2Proof.Machine.execZsds p s
  | .zwc p => Sys2Proof.Machine.execZwc p s
  | .zaln p => Sys2Proof.Machine.execZaln p s
  | .zeos p => Sys2Proof.Machine.execZeos p s
  | .pollTimeout p => Sys2Proof.Machine.execPollTimeout p s
  | .configTimeout p => Sys2Proof.Machine.execConfigTimeout p s
  | .rateFail p => Sys2Proof.Machine.execRateFail p s
  | .retrainTimeout p => Sys2Proof.Machine.execRetrainTimeout p s
  | .flitReceive p f => Sys2Proof.Machine.execFlitReceive p f s
  | .flitFail p => Sys2Proof.Machine.execFlitFail p s
  | .nakTimerExpiry p => Sys2Proof.Machine.execNakTimerExpiry p s
  | .nak p ack => Sys2Proof.Machine.execNak p ack s
  | .replayTimerExpiry p => Sys2Proof.Machine.execReplayTimerExpiry p s
  | .auditSend p => Sys2Proof.Machine.execAuditSend p s
  | .audit p vcs => Sys2Proof.Machine.execAudit p vcs s
  | .quietPoint p => Sys2Proof.Machine.execQuietPoint p s
  | .linkReq p kind mask => Sys2Proof.Machine.execLinkReq p kind mask s
  | .linkAck p => Sys2Proof.Machine.execLinkAck p s
  | .reqTimeout p => Sys2Proof.Machine.execReqTimeout p s
  | .retrainDrainDone p => Sys2Proof.Machine.execRetrainDrainDone p s
  | .retrainDrainTimeout p => Sys2Proof.Machine.execRetrainDrainTimeout p s
  | .abandonedReqReissue p => Sys2Proof.Machine.execAbandonedReqReissue p s
  | .laneDegrade p lane => Sys2Proof.Machine.execLaneDegrade p lane s
  | .d2dParityError t k lane => Sys2Proof.Machine.execD2dParityError t k lane s
  | .d2dControlUnit t k ack nak => Sys2Proof.Machine.execD2dControlUnit t k ack nak s
  | .d2dLaneRetire t k lane => Sys2Proof.Machine.execD2dLaneRetire t k lane s
  | .d2dSpareSwitch t k => Sys2Proof.Machine.execD2dSpareSwitch t k s
  | .tilePortmapWrite t map => Sys2Proof.Machine.execTilePortmapWrite t map s
  | .tilePortCtrlWrite p v => Sys2Proof.Machine.execTilePortCtrlWrite p v s
  | .cxlLinkUp p x => Sys2Proof.Machine.execCxlLinkUp p x s
  | .portDown p => Sys2Proof.Machine.execPortDown p s
  | .flushDone p => Sys2Proof.Machine.execFlushDone p s
  | .portContained p why => Sys2Proof.Machine.execPortContained p why s
  | .dpcRelease p => Sys2Proof.Machine.execDpcRelease p s
  | .secondaryBusReset p => Sys2Proof.Machine.execSecondaryBusReset p s
  | .unexpectedCompletion p => Sys2Proof.Machine.execUnexpectedCompletion p s
  | .identify src => Sys2Proof.Machine.execIdentify src s
  | .backgroundOperationStatus src => Sys2Proof.Machine.execBackgroundOperationStatus src s
  | .getResponseMessageLimit src => Sys2Proof.Machine.execGetResponseMessageLimit src s
  | .setResponseMessageLimit src n => Sys2Proof.Machine.execSetResponseMessageLimit src n s
  | .getEventRecords src => Sys2Proof.Machine.execGetEventRecords src s
  | .clearEventRecords src => Sys2Proof.Machine.execClearEventRecords src s
  | .identifySwitchDevice src => Sys2Proof.Machine.execIdentifySwitchDevice src s
  | .getPhysicalPortState src p => Sys2Proof.Machine.execGetPhysicalPortState src p s
  | .physicalPortControl src p op => Sys2Proof.Machine.execPhysicalPortControl src p op s
  | .sendPpbCxlIoConfigRequest src p payload => Sys2Proof.Machine.execSendPpbCxlIoConfigRequest src p payload s
  | .getVirtualCxlSwitchInfo src vcs => Sys2Proof.Machine.execGetVirtualCxlSwitchInfo src vcs s
  | .bindVppb src vcs vppb p ld => Sys2Proof.Machine.execBindVppb src vcs vppb p ld s
  | .unbindVppb src vcs vppb opt => Sys2Proof.Machine.execUnbindVppb src vcs vppb opt s
  | .backgroundOperationDone => Sys2Proof.Machine.execBackgroundOperationDone s
  | .managedHotRemoveTimeout => Sys2Proof.Machine.execManagedHotRemoveTimeout s
  | .generateAerEvent src vcs vppb err => Sys2Proof.Machine.execGenerateAerEvent src vcs vppb err s
  | .tunnelManagementCommand src p ld payload => Sys2Proof.Machine.execTunnelManagementCommand src p ld payload s
  | .sendLdCxlIoConfigRequest src p ld payload => Sys2Proof.Machine.execSendLdCxlIoConfigRequest src p ld payload s
  | .sendLdCxlIoMemoryRequest src p ld payload => Sys2Proof.Machine.execSendLdCxlIoMemoryRequest src p ld payload s
  | .fmApiUnsupported src op => Sys2Proof.Machine.execFmApiUnsupported src op s
  | .kSetGo p skid => Sys2Proof.Machine.execKSetGo p skid s
  | .ideFail p => Sys2Proof.Machine.execIdeFail p s
  | .slotPowerOn p => Sys2Proof.Machine.execSlotPowerOn p s
  | .perstRelease p => Sys2Proof.Machine.execPerstRelease p s
  | .slotPowerOff p => Sys2Proof.Machine.execSlotPowerOff p s
  | .presenceChange p present => Sys2Proof.Machine.execPresenceChange p present s
  | .expanderPoll bits => Sys2Proof.Machine.execExpanderPoll bits s
  | .requestReceive r => Sys2Proof.Machine.execRequestReceive r s
  | .trackerEntryGrant t => Sys2Proof.Machine.execTrackerEntryGrant t s
  | .classFenceRelease src dst v => Sys2Proof.Machine.execClassFenceRelease src dst v s
  | .cellReceive dst src tc seq plane crcOk => Sys2Proof.Machine.execCellReceive dst src tc seq plane crcOk s
  | .reseqTimeout dst src tc => Sys2Proof.Machine.execReseqTimeout dst src tc s
  | .reseqNak dst src tc e => Sys2Proof.Machine.execReseqNak dst src tc e s
  | .reseqAck dst src tc => Sys2Proof.Machine.execReseqAck dst src tc s
  | .responseReceive p tag r load => Sys2Proof.Machine.execResponseReceive p tag r load s
  | .planeOut n unc => Sys2Proof.Machine.execPlaneOut n unc s
  | .tileIbufAllocWrite t ov v => Sys2Proof.Machine.execTileIbufAllocWrite t ov v s
  | .tileEbufWrite t o vc v => Sys2Proof.Machine.execTileEbufWrite t o vc v s
  | .tileTrkQclassWrite t q v => Sys2Proof.Machine.execTileTrkQclassWrite t q v s
  | .privetLookupPresent t => Sys2Proof.Machine.execPrivetLookupPresent t s
  | .privetLookupEnd ends => Sys2Proof.Machine.execPrivetLookupEnd ends s
  | .readShared key => Sys2Proof.Machine.execReadShared key s
  | .readForOwnership key => Sys2Proof.Machine.execReadForOwnership key s
  | .upgrade key => Sys2Proof.Machine.execUpgrade key s
  | .nonCachingRead key => Sys2Proof.Machine.execNonCachingRead key s
  | .cleanEvict key => Sys2Proof.Machine.execCleanEvict key s
  | .nonCachingWrite key => Sys2Proof.Machine.execNonCachingWrite key s
  | .writeBack key => Sys2Proof.Machine.execWriteBack key s
  | .biconflict key => Sys2Proof.Machine.execBiconflict key s
  | .birsp p h ix addr sh => Sys2Proof.Machine.execBirsp p h ix addr sh s
  | .memSpecRd key => Sys2Proof.Machine.execMemSpecRd key s
  | .protocol key => Sys2Proof.Machine.execProtocol key s
  | .ownerWritebackWaitEnd h addr => Sys2Proof.Machine.execOwnerWritebackWaitEnd h addr s
  | .tenureEnd h addr ix => Sys2Proof.Machine.execTenureEnd h addr ix s
  | .memoryReadData key => Sys2Proof.Machine.execMemoryReadData key s
  | .memoryWriteComplete key => Sys2Proof.Machine.execMemoryWriteComplete key s
  | .lineFlowEnd h addr => Sys2Proof.Machine.execLineFlowEnd h addr s
  | .busyLineEntryGrant => Sys2Proof.Machine.execBusyLineEntryGrant s
  | .tier1Allocation h addr => Sys2Proof.Machine.execTier1Allocation h addr s
  | .evictionFlow h addr => Sys2Proof.Machine.execEvictionFlow h addr s
  | .rebuild => Sys2Proof.Machine.execRebuild s
  | .rebuildDone => Sys2Proof.Machine.execRebuildDone s
  | .pvtHrCfgWrite h v => Sys2Proof.Machine.execPvtHrCfgWrite h v s
  | .pvtHrQuotaWrite h v => Sys2Proof.Machine.execPvtHrQuotaWrite h v s
  | .quotaDone h => Sys2Proof.Machine.execQuotaDone h s
  | .pvtMemberWrite h ix bias v => Sys2Proof.Machine.execPvtMemberWrite h ix bias v s
  | .pvtCtrlWrite v => Sys2Proof.Machine.execPvtCtrlWrite v s
  | .pvtT2CfgWrite v => Sys2Proof.Machine.execPvtT2CfgWrite v s
  | .memberDead h ix cause => Sys2Proof.Machine.execMemberDead h ix cause s
  | .deadHostWalk => Sys2Proof.Machine.execDeadHostWalk s
  | .walkDone h ix => Sys2Proof.Machine.execWalkDone h ix s
  | .departedClear h ix => Sys2Proof.Machine.execDepartedClear h ix s
  | .snoopTimeout h addr ix => Sys2Proof.Machine.execSnoopTimeout h addr ix s
  | .snoopResend h addr ix => Sys2Proof.Machine.execSnoopResend h addr ix s
  | .pvtLostTailWrite v => Sys2Proof.Machine.execPvtLostTailWrite v s
  | .shadowFlush => Sys2Proof.Machine.execShadowFlush s
  | .privetRecovery => Sys2Proof.Machine.execPrivetRecovery s
  | .recoveryDone => Sys2Proof.Machine.execRecoveryDone s
  | .tier1Uncorrectable set way => Sys2Proof.Machine.execTier1Uncorrectable set way s
  | .stateLost => Sys2Proof.Machine.execStateLost s
  | .spareWayMap bank way => Sys2Proof.Machine.execSpareWayMap bank way s
  | .lostBucket b => Sys2Proof.Machine.execLostBucket b s
  | .specWindowClose d => Sys2Proof.Machine.execSpecWindowClose d s
  | .lvrSpecCfgWrite v => Sys2Proof.Machine.execLvrSpecCfgWrite v s
  | .atomicOp key => Sys2Proof.Machine.execAtomicOp key s
  | .atomicHoldEnd h addr => Sys2Proof.Machine.execAtomicHoldEnd h addr s
  | .commitPoint => Sys2Proof.Machine.execCommitPoint s
  | .coverageRemovalWalk => Sys2Proof.Machine.execCoverageRemovalWalk s
  | .ruleFenceComplete ix => Sys2Proof.Machine.execRuleFenceComplete ix s
  | .mirrorFail pair ix => Sys2Proof.Machine.execMirrorFail pair ix s
  | .mirrorRepair key => Sys2Proof.Machine.execMirrorRepair key s
  | .csmMirCtrlWrite v => Sys2Proof.Machine.execCsmMirCtrlWrite v s
  | .mirrorCursorAdvance pair => Sys2Proof.Machine.execMirrorCursorAdvance pair s
  | .csmSetWrite w => Sys2Proof.Machine.execCsmSetWrite w s
  | .domViolClr v => Sys2Proof.Machine.execDomViolClr v s
  | .domFabricWrite f v => Sys2Proof.Machine.execDomFabricWrite f v s
  | .freezeDrainDone d => Sys2Proof.Machine.execFreezeDrainDone d s
  | .hingeSweep d => Sys2Proof.Machine.execHingeSweep d s
  | .lvrEntWrite => Sys2Proof.Machine.execLvrEntWrite s
  | .lvrEntFree => Sys2Proof.Machine.execLvrEntFree s
  | .sampleInstant => Sys2Proof.Machine.execSampleInstant s
  | .snap => Sys2Proof.Machine.execSnap s
  | .lvrSmpCfgWrite tgt v => Sys2Proof.Machine.execLvrSmpCfgWrite tgt v s
  | .sqTailDoorbell d q mem => Sys2Proof.Machine.execSqTailDoorbell d q mem s
  | .cqHeadDoorbell d c head => Sys2Proof.Machine.execCqHeadDoorbell d c head s
  | .invalidateDoorbell d q ix mem => Sys2Proof.Machine.execInvalidateDoorbell d q ix mem s
  | .entryStart mem => Sys2Proof.Machine.execEntryStart mem s
  | .entryComplete d q idx hsh => Sys2Proof.Machine.execEntryComplete d q idx hsh s
  | .msixCoalesceTimer d c => Sys2Proof.Machine.execMsixCoalesceTimer d c s
  | .wqAdmCfgWrite d v => Sys2Proof.Machine.execWqAdmCfgWrite d v s
  | .nopEntry d q idx => Sys2Proof.Machine.execNopEntry d q idx s
  | .padEntry d q idx => Sys2Proof.Machine.execPadEntry d q idx s
  | .copyEntry d q idx => Sys2Proof.Machine.execCopyEntry d q idx s
  | .fillEntry d q idx => Sys2Proof.Machine.execFillEntry d q idx s
  | .verifyEntry d q idx => Sys2Proof.Machine.execVerifyEntry d q idx s
  | .atomicEntry d q idx => Sys2Proof.Machine.execAtomicEntry d q idx s
  | .runEntry d q idx => Sys2Proof.Machine.execRunEntry d q idx s
  | .fenceMem d q idx => Sys2Proof.Machine.execFenceMem d q idx s
  | .fenceRule d q idx => Sys2Proof.Machine.execFenceRule d q idx s
  | .fenceAll d q idx => Sys2Proof.Machine.execFenceAll d q idx s
  | .createSq d q idx => Sys2Proof.Machine.execCreateSq d q idx s
  | .createCq d q idx => Sys2Proof.Machine.execCreateCq d q idx s
  | .destroySq d q idx => Sys2Proof.Machine.execDestroySq d q idx s
  | .destroyCq d q idx => Sys2Proof.Machine.execDestroyCq d q idx s
  | .resetQueue d q idx => Sys2Proof.Machine.execResetQueue d q idx s
  | .invalidate d q idx mem => Sys2Proof.Machine.execInvalidate d q idx mem s
  | .domainCreate d q idx => Sys2Proof.Machine.execDomainCreate d q idx s
  | .domainReset d q idx => Sys2Proof.Machine.execDomainReset d q idx s
  | .domainDestroy d q idx => Sys2Proof.Machine.execDomainDestroy d q idx s
  | .setCasement d q idx => Sys2Proof.Machine.execSetCasement d q idx s
  | .hingeFreeze d q idx => Sys2Proof.Machine.execHingeFreeze d q idx s
  | .hingeSave d q idx => Sys2Proof.Machine.execHingeSave d q idx s
  | .hingeRestore d q idx image => Sys2Proof.Machine.execHingeRestore d q idx image s
  | .hingeThaw d q idx mems => Sys2Proof.Machine.execHingeThaw d q idx mems s
  | .copyChannelAssign mem => Sys2Proof.Machine.execCopyChannelAssign mem s
  | .copyChecksDone ch => Sys2Proof.Machine.execCopyChecksDone ch s
  | .chunkIssue write => Sys2Proof.Machine.execChunkIssue write s
  | .chunkComplete ch => Sys2Proof.Machine.execChunkComplete ch s
  | .poisonCopied ch ecc => Sys2Proof.Machine.execPoisonCopied ch ecc s
  | .cpeCtrlWrite v => Sys2Proof.Machine.execCpeCtrlWrite v s
  | .threadStart by_ => Sys2Proof.Machine.execThreadStart by_ s
  | .dmload th data fail => Sys2Proof.Machine.execDmload th data fail s
  | .opAdd who rd rs1 rs2 => Sys2Proof.Machine.execOpAdd who rd rs1 rs2 s
  | .opSub who rd rs1 rs2 => Sys2Proof.Machine.execOpSub who rd rs1 rs2 s
  | .opAnd who rd rs1 rs2 => Sys2Proof.Machine.execOpAnd who rd rs1 rs2 s
  | .opOr who rd rs1 rs2 => Sys2Proof.Machine.execOpOr who rd rs1 rs2 s
  | .opXor who rd rs1 rs2 => Sys2Proof.Machine.execOpXor who rd rs1 rs2 s
  | .shl who rd rs1 rs2 => Sys2Proof.Machine.execShl who rd rs1 rs2 s
  | .shr who rd rs1 rs2 => Sys2Proof.Machine.execShr who rd rs1 rs2 s
  | .sar who rd rs1 rs2 => Sys2Proof.Machine.execSar who rd rs1 rs2 s
  | .mul who rd rs1 rs2 => Sys2Proof.Machine.execMul who rd rs1 rs2 s
  | .mulh who rd rs1 rs2 => Sys2Proof.Machine.execMulh who rd rs1 rs2 s
  | .opMin who rd rs1 rs2 => Sys2Proof.Machine.execOpMin who rd rs1 rs2 s
  | .opMax who rd rs1 rs2 => Sys2Proof.Machine.execOpMax who rd rs1 rs2 s
  | .minu who rd rs1 rs2 => Sys2Proof.Machine.execMinu who rd rs1 rs2 s
  | .maxu who rd rs1 rs2 => Sys2Proof.Machine.execMaxu who rd rs1 rs2 s
  | .popc who rd rs1 => Sys2Proof.Machine.execPopc who rd rs1 s
  | .clz who rd rs1 => Sys2Proof.Machine.execClz who rd rs1 s
  | .bswap who rd rs1 => Sys2Proof.Machine.execBswap who rd rs1 s
  | .addi who rd rs1 imm => Sys2Proof.Machine.execAddi who rd rs1 imm s
  | .andi who rd rs1 imm => Sys2Proof.Machine.execAndi who rd rs1 imm s
  | .ori who rd rs1 imm => Sys2Proof.Machine.execOri who rd rs1 imm s
  | .xori who rd rs1 imm => Sys2Proof.Machine.execXori who rd rs1 imm s
  | .shli who rd rs1 sh => Sys2Proof.Machine.execShli who rd rs1 sh s
  | .shri who rd rs1 sh => Sys2Proof.Machine.execShri who rd rs1 sh s
  | .sari who rd rs1 sh => Sys2Proof.Machine.execSari who rd rs1 sh s
  | .lui who rd imm => Sys2Proof.Machine.execLui who rd imm s
  | .lih who rd rs1 imm => Sys2Proof.Machine.execLih who rd rs1 imm s
  | .cmp who pd rs1 rs2 cond => Sys2Proof.Machine.execCmp who pd rs1 rs2 cond s
  | .cmpi who pd rs1 imm cond => Sys2Proof.Machine.execCmpi who pd rs1 imm cond s
  | .ld th rd rb space size off => Sys2Proof.Machine.execLd th rd rb space size off s
  | .st th rs rb space size off => Sys2Proof.Machine.execSt th rs rb space size off s
  | .fld th rl rb space n off => Sys2Proof.Machine.execFld th rl rb space n off s
  | .fst th rl rb space n off => Sys2Proof.Machine.execFst th rl rb space n off s
  | .fat th rd rb ra rc op size => Sys2Proof.Machine.execFat th rd rb ra rc op size s
  | .threadAccessComplete th ecc => Sys2Proof.Machine.execThreadAccessComplete th ecc s
  | .br who neg p off => Sys2Proof.Machine.execBr who neg p off s
  | .jal th rd off => Sys2Proof.Machine.execJal th rd off s
  | .jr th rd rs => Sys2Proof.Machine.execJr th rd rs s
  | .lkp p rd rs imm => Sys2Proof.Machine.execLkp p rd rs imm s
  | .twr th rs rb imm => Sys2Proof.Machine.execTwr th rs rb imm s
  | .qpost th pd re rq tail mem => Sys2Proof.Machine.execQpost th pd re rq tail mem s
  | .qfetch th pd rd rq head ent => Sys2Proof.Machine.execQfetch th pd rd rq head ent s
  | .dbellSqTail th rq rv mem => Sys2Proof.Machine.execDbellSqTail th rq rv mem s
  | .dbellCqHead th rq rv head => Sys2Proof.Machine.execDbellCqHead th rq rv head s
  | .dbellInvalidate th rq rv mem => Sys2Proof.Machine.execDbellInvalidate th rq rv mem s
  | .csrrd th rd rb imm => Sys2Proof.Machine.execCsrrd th rd rb imm s
  | .csrwr th rs rb imm mem => Sys2Proof.Machine.execCsrwr th rs rb imm mem s
  | .csrset th rm rb imm mem => Sys2Proof.Machine.execCsrset th rm rb imm mem s
  | .csrclr th rm rb imm mem => Sys2Proof.Machine.execCsrclr th rm rb imm mem s
  | .fenceMemInstr th rs => Sys2Proof.Machine.execFenceMemInstr th rs s
  | .cfence th rs => Sys2Proof.Machine.execCfence th rs s
  | .fenceAllInstr th rs => Sys2Proof.Machine.execFenceAllInstr th rs s
  | .wait th rd mask => Sys2Proof.Machine.execWait th rd mask s
  | .waitReturn th => Sys2Proof.Machine.execWaitReturn th s
  | .send th pd rt ra rb => Sys2Proof.Machine.execSend th pd rt ra rb s
  | .recv th pd rd => Sys2Proof.Machine.execRecv th pd rd s
  | .tbr th rd f => Sys2Proof.Machine.execTbr th rd f s
  | .route p rs => Sys2Proof.Machine.execRoute p rs s
  | .xlate p rd => Sys2Proof.Machine.execXlate p rd s
  | .hdrDstPbr p rs => Sys2Proof.Machine.execHdrDstPbr p rs s
  | .hdrNospec p rs => Sys2Proof.Machine.execHdrNospec p rs s
  | .hdrScavenger p rs => Sys2Proof.Machine.execHdrScavenger p rs s
  | .trap th imm => Sys2Proof.Machine.execTrap th imm s
  | .nopInstr who => Sys2Proof.Machine.execNopInstr who s
  | .halt th => Sys2Proof.Machine.execHalt th s
  | .threadTrap th ecc => Sys2Proof.Machine.execThreadTrap th ecc s
  | .budget th => Sys2Proof.Machine.execBudget th s
  | .selfTimerExpiry th => Sys2Proof.Machine.execSelfTimerExpiry th s
  | .selfTrecClr th v => Sys2Proof.Machine.execSelfTrecClr th v s
  | .lockstepMismatch => Sys2Proof.Machine.execLockstepMismatch s
  | .seqRpLoad slot len => Sys2Proof.Machine.execSeqRpLoad slot len s
  | .seqRpClear slot len => Sys2Proof.Machine.execSeqRpClear slot len s
  | .seqRpSelWrite ix v => Sys2Proof.Machine.execSeqRpSelWrite ix v s
  | .seqDomDmWrite v => Sys2Proof.Machine.execSeqDomDmWrite v s
  | .seqCoreModeWrite v => Sys2Proof.Machine.execSeqCoreModeWrite v s
  | .seqCtrlLock v => Sys2Proof.Machine.execSeqCtrlLock v s
  | .tbLoad => Sys2Proof.Machine.execTbLoad s
  | .tbStep => Sys2Proof.Machine.execTbStep s
  | .tbRateWrite v => Sys2Proof.Machine.execTbRateWrite v s
  | .clkinMeasurement rate => Sys2Proof.Machine.execClkinMeasurement rate s
  | .ppsEdge writing => Sys2Proof.Machine.execPpsEdge writing s
  | .ppsLoss => Sys2Proof.Machine.execPpsLoss s
  | .fallbackCounterWrite c n v k => Sys2Proof.Machine.execFallbackCounterWrite c n v k s
  | .slotSample x => Sys2Proof.Machine.execSlotSample x s
  | .shortComparator c => Sys2Proof.Machine.execShortComparator c s
  | .fastLimitComparator c => Sys2Proof.Machine.execFastLimitComparator c s
  | .spcOnWrite c => Sys2Proof.Machine.execSpcOnWrite c s
  | .spcOffWrite c => Sys2Proof.Machine.execSpcOffWrite c s
  | .clrMeas c => Sys2Proof.Machine.execClrMeas c s
  | .staggerAdmit => Sys2Proof.Machine.execStaggerAdmit s
  | .rampEnd c => Sys2Proof.Machine.execRampEnd c s
  | .pgRise c => Sys2Proof.Machine.execPgRise c s
  | .pgFall c => Sys2Proof.Machine.execPgFall c s
  | .faultTimerStop c => Sys2Proof.Machine.execFaultTimerStop c s
  | .retryWaitExpiry c => Sys2Proof.Machine.execRetryWaitExpiry c s
  | .retriesReset c => Sys2Proof.Machine.execRetriesReset c s
  | .feedLost b => Sys2Proof.Machine.execFeedLost b s
  | .feedRestored b => Sys2Proof.Machine.execFeedRestored b s
  | .reverse b => Sys2Proof.Machine.execReverse b s
  | .orgCtrlWrite v => Sys2Proof.Machine.execOrgCtrlWrite v s
  | .shutterWrite mask => Sys2Proof.Machine.execShutterWrite mask s
  | .tileUngated t => Sys2Proof.Machine.execTileUngated t s
  | .idleEntry => Sys2Proof.Machine.execIdleEntry s
  | .idleExit => Sys2Proof.Machine.execIdleExit s
  | .dormantRequest v l2 => Sys2Proof.Machine.execDormantRequest v l2 s
  | .dormantDrainTimeout mems => Sys2Proof.Machine.execDormantDrainTimeout mems s
  | .dormantCommit => Sys2Proof.Machine.execDormantCommit s
  | .wakeWindowEnd low => Sys2Proof.Machine.execWakeWindowEnd low s
  | .wakeRequest v => Sys2Proof.Machine.execWakeRequest v s
  | .wakeTimerExpiry => Sys2Proof.Machine.execWakeTimerExpiry s
  | .wake low mems => Sys2Proof.Machine.execWake low mems s
  | .wakeAbort vlane => Sys2Proof.Machine.execWakeAbort vlane s
  | .completionTimeout key => Sys2Proof.Machine.execCompletionTimeout key s
  | .latePeriodEnd key => Sys2Proof.Machine.execLatePeriodEnd key s
  | .lateResponse p tag r load => Sys2Proof.Machine.execLateResponse p tag r load s
  | .viral p => Sys2Proof.Machine.execViral p s
  | .viralClear p => Sys2Proof.Machine.execViralClear p s
  | .journalRecord e x => Sys2Proof.Machine.execJournalRecord e x s
  | .coalesceWindowEnd ix => Sys2Proof.Machine.execCoalesceWindowEnd ix s
  | .errJrnTailWrite v => Sys2Proof.Machine.execErrJrnTailWrite v s
  | .patrolScrub x f => Sys2Proof.Machine.execPatrolScrub x f s
  | .tableReload k addr => Sys2Proof.Machine.execTableReload k addr s
  | .domFerrClr v => Sys2Proof.Machine.execDomFerrClr v s
  | .domFnClr fn v => Sys2Proof.Machine.execDomFnClr fn v s
  | .eepromInterfaceWrite p off bytes sumOk ports => Sys2Proof.Machine.execEepromInterfaceWrite p off bytes sumOk ports s
  | .hdmDecoderCommit p v ix body => Sys2Proof.Machine.execHdmDecoderCommit p v ix body s
  | .hdmDecoderUncommit p v ix => Sys2Proof.Machine.execHdmDecoderUncommit p v ix s
  | .firmwareAssistedAccess p op time => Sys2Proof.Machine.execFirmwareAssistedAccess p op time s
  | .fwaLate p => Sys2Proof.Machine.execFwaLate p s
  | .tfQuirkWrite src p v => Sys2Proof.Machine.execTfQuirkWrite src p v s
  | .accessSizeError src off size write => Sys2Proof.Machine.execAccessSizeError src off size write s
  | .lowDwordWriteHold at_ v => Sys2Proof.Machine.execLowDwordWriteHold at_ v s
  | .longWriteTlp f off dws full mem => Sys2Proof.Machine.execLongWriteTlp f off dws full mem s
  | .lockedFieldWrite src v => Sys2Proof.Machine.execLockedFieldWrite src v s
  | .irqEoi src v => Sys2Proof.Machine.execIrqEoi src v s
  | .summaryVectorSignal v => Sys2Proof.Machine.execSummaryVectorSignal v s
  | .mctpRegisterRead cmd size tag off => Sys2Proof.Machine.execMctpRegisterRead cmd size tag off s
  | .mctpRegisterWrite size tag off data mem => Sys2Proof.Machine.execMctpRegisterWrite size tag off data mem s
  | .registerWrite tgt wide v mem => Sys2Proof.Machine.execRegisterWrite tgt wide v mem s
  | .rcFieldRead at_ wide => Sys2Proof.Machine.execRcFieldRead at_ wide s
  | .enableDeassert => Sys2Proof.Machine.execEnableDeassert s
  | .mgPerstNAssert => Sys2Proof.Machine.execMgPerstNAssert s
  | .d2dClockLaneFail t k => Sys2Proof.Machine.execD2dClockLaneFail t k s
  | .linkCreditReturn p v n => Sys2Proof.Machine.execLinkCreditReturn p v n s
  | .slotChannelOff p => Sys2Proof.Machine.execSlotChannelOff p s
  | .managerFirmwareRestart => Sys2Proof.Machine.execManagerFirmwareRestart s
  | .e7LinkUpLag p => Sys2Proof.Machine.execE7LinkUpLag p s
  | .vfEnable p numVfs => Sys2Proof.Machine.execVfEnable p numVfs s

end Sys2Proof.Machine
end

