-- ==== Sys2Proof/Machine/Tick.lean ====
section
/-! DEFINITION. Sys2Proof/Machine/Tick.lean: what one TB cycle does while no command waits (R516, R519, R606): the table has no row for it. -/
namespace Sys2Proof.Machine

/-- The cycle counters of the cores (R516): two SEQ cycles in a TB cycle, while CYC_EN is 1 and FREEZE is 0. -/
def Mach.coreCycles (m : Mach) : Mach :=
  (List.range 32).foldl (fun (m : Mach) c =>
    if m.flag (CNT_FB_CTRL_CYC_EN c) && !m.flag (CNT_FB_CTRL_FREEZE c) then m.add (CNT_FB_CYCLE_CYCLES c) 2 else m) m

/-- One TB cycle, where the core PLL has locked: the timebase; the cores' cycle counters, but in IDLE, which gates the SEQ clock (R560); the
counters of each personality. Before the lock and in DORMANT nothing runs that a cycle changes. -/
def Mach.cycle (m : Mach) (l : ModeLatch) : Mach :=
  if m.boot.pllLock then
    let m := m.tick
    let m := if m.rd WKT_PWR_STATUS_STATE = 2 then m else m.coreCycles
    if l.tf then (List.range l.personalities).foldl Mach.tfTick m else m
  else m

/-- A step with no command waiting. -/
def idle (s : State) : Res := actL (fun l m => m.cycle l) s

end Sys2Proof.Machine
end

