-- ==== Sys2Proof/Safety.lean ====
section
/-! DEFINITION. Sys2Proof/Safety.lean: the terms that claims about runs use: what a command completes with, a legal mode latch, the canonical
form of the block's memories, a step that goes on. -/
namespace Sys2Proof.Machine

/-- The machine as a command's meaning finds it: what the command before sent is gone. -/
def State.start (s : State) : Mach := { s.m with out := [] }

/-- The state after a command whose meaning leaves m: the mode latch and the queue as they were, the summary interrupts that rose noted (R627). -/
def State.done (s : State) (m : Mach) : State := { s with m := m.signal s.m.irqOn }

/-- The state after a register access whose meaning leaves m: as done, or the machine after the cold reset that it asked for (R87). -/
def State.after (s : State) (m : Mach) : State :=
  match m.coldReq with
  | some c => { s with m := { m with coldReq := none } }.cold c
  | none => s.done m

/-- A command is carried out, and what holds of the state that it leaves. -/
def Completes (i : Instr) (s : State) (P : State → Prop) : Prop := ∃ t, exec i s = .next t ∧ P t

/-- A step that goes on: neither a fault nor a refusal. -/
def Goes (s : State) : Prop := ∃ t, step s = .next t

/-- A legal mode latch (R3, R7): nothing before a mode is latched; 1 to 4 personalities in TF-256 mode, 0 in native mode. -/
def ModeLatch.legal (l : ModeLatch) : Bool :=
  if l.latched then (if l.tf then 1 ≤ l.personalities && l.personalities ≤ 4 else l.personalities == 0) else !l.tf && l.personalities == 0

/-- The block's memories have their canonical form: local DDR5, the table space, each core's local scratch. -/
def Mach.memWf (m : Mach) : Bool := m.ddr.wf && m.tbl.wf && m.ls.all fun (x : Nat × Mem) => x.2.wf

/-- A started queue entry that its opcode's row may carry out now: fresh, of that opcode, of its domain's generation. -/
abbrev Mach.ready (m : Mach) (e : EntryRef) (op : Nat) (r : Run) : Prop :=
  m.run e = some r ∧ r.work = .fresh ∧ entOp r.bytes = op ∧ r.gen = (m.dom e.dom).gen

/-- A thread executes an instruction word now (R447, R471, R504): it runs, nothing holds it, its generation is its domain's, it is
within its budget, and the word stands at its PC in its window. -/
abbrev Mach.fetches (m : Mach) (th w : Nat) (t : Thread) : Prop :=
  m.thr th = some t ∧ t.running = true ∧ t.hold = none ∧ t.dmload = false ∧ m.staleThread t = false ∧ m.overBudget t = false ∧
  t.pc + 4 ≤ t.win ∧ t.pc % 4 = 0 ∧ m.word th t t.pc = w

/-- The request at the head of a port's route pipe executes an instruction word now (R456). -/
abbrev Mach.piped (m : Mach) (p w : Nat) (x : Pipe) (rest : List Pipe) : Prop :=
  SMap.get [] m.pipes p = x :: rest ∧ (x.prog[x.pc]?).map BitVec.toNat = some w

/-- The head of a port's route pipe goes on as x. -/
def Mach.pipeGoes (m : Mach) (p : Nat) (x : Pipe) (rest : List Pipe) : Mach :=
  { m with pipes := SMap.ins m.pipes p ({ x with pc := x.pc + 1 } :: rest) }

/-- An instruction of a word writes g[rd] with a value of its sources and goes on at the next instruction, in a thread and in a route
program. -/
def WritesReg (i : Who → Instr) (w rd : Nat) (val : (Nat → Word) → Word) : Prop :=
  (∀ (s : State) (th : Thr) (t : Thread), s.start.fetches th w t →
    exec (i (.thread th)) s = .next (s.done (s.start.next th (t.setReg rd (val t.reg))))) ∧
  (∀ (s : State) (p : Port) (x : Pipe) (rest : List Pipe), s.start.piped p w x rest →
    exec (i (.pipe p)) s = .next (s.done (s.start.pipeGoes p (x.setReg rd (val (s.start.pipeSrc p x))) rest)))

/-- An instruction of a word writes p[pd] likewise. -/
def WritesPred (i : Who → Instr) (w pd : Nat) (val : (Nat → Word) → Bool) : Prop :=
  (∀ (s : State) (th : Thr) (t : Thread), s.start.fetches th w t →
    exec (i (.thread th)) s = .next (s.done (s.start.next th (t.setPr pd (val t.reg))))) ∧
  (∀ (s : State) (p : Port) (x : Pipe) (rest : List Pipe), s.start.piped p w x rest →
    exec (i (.pipe p)) s = .next (s.done (s.start.pipeGoes p (x.setPr pd (val (s.start.pipeSrc p x))) rest)))

/-- Two machines differ at most in registers, threads, messages and interrupts owed. -/
def Mach.onlyThreads (a b : Mach) : Prop := { a with regs := b.regs, threads := b.threads, out := b.out, irqOwed := b.irqOwed } = b

/-- The thread of an instruction that reads and writes registers and predicates alone, the general register and the predicate that it
writes (0 where it writes none), the way it is encoded left aside. -/
def inThread : Instr → Option (Thr × Fin 32 × Fin 8)
  | .opAdd (.thread th) rd _ _ | .opSub (.thread th) rd _ _ | .opAnd (.thread th) rd _ _ | .opOr (.thread th) rd _ _
  | .opXor (.thread th) rd _ _ | .shl (.thread th) rd _ _ | .shr (.thread th) rd _ _ | .sar (.thread th) rd _ _
  | .mul (.thread th) rd _ _ | .mulh (.thread th) rd _ _ | .opMin (.thread th) rd _ _ | .opMax (.thread th) rd _ _
  | .minu (.thread th) rd _ _ | .maxu (.thread th) rd _ _ => some (th, rd, 0)
  | .popc (.thread th) rd _ | .clz (.thread th) rd _ | .bswap (.thread th) rd _ => some (th, rd, 0)
  | .addi (.thread th) rd _ _ | .andi (.thread th) rd _ _ | .ori (.thread th) rd _ _ | .xori (.thread th) rd _ _
  | .lih (.thread th) rd _ _ => some (th, rd, 0)
  | .shli (.thread th) rd _ _ | .shri (.thread th) rd _ _ | .sari (.thread th) rd _ _ => some (th, rd, 0)
  | .lui (.thread th) rd _ => some (th, rd, 0)
  | .cmp (.thread th) pd _ _ c => if c.val = 7 then none else some (th, 0, pd)
  | .cmpi (.thread th) pd _ _ _ => some (th, 0, pd)
  | .br (.thread th) _ _ _ => some (th, 0, 0)
  | .jal th rd _ => some (th, rd, 0)
  | .nopInstr (.thread th) => some (th, 0, 0)
  | _ => none

/-- Casements of a list do not overlap (R326), by slot. -/
def disjointCas (l : SMap Casement) : Prop :=
  l.Pairwise fun x y => x.2.base + 2 ^ x.2.k ≤ y.2.base ∨ y.2.base + 2 ^ y.2.k ≤ x.2.base

end Sys2Proof.Machine
end

