-- ==== Sys2Proof/Certificates/Slice0/Obligations.lean ====
section
/-! DEFINITION. Sys2Proof/Certificates/Slice0/Obligations.lean: the statements for the provers. Each is a conjunction of clauses, one per line group. -/
open Sys2Proof Sys2Proof.Machine

/-- A step carries out the command at the front of the queue on the state with the queue's rest. For every command and state, a step with that command at
the front of the queue is exec of that command on the state whose queue is the rest. Rules: opcode_table.json. -/
def Obligations.StepRunsTheFrontCommand : Prop :=
  ∀ (s : State) (c : Instr) (rest : List Instr), s.pending = c :: rest → step s = exec c { s with pending := rest }

/-- A step on an empty queue is one TB cycle. The model's own choice (assumption log 8): with no command waiting, the timebase accumulator of R519 counts
1 ns and the rate in use, modulo 2^96, once the core PLL has locked; before the lock nothing but the last command's messages changes. Rules: R519,
R520. -/
def Obligations.EmptyQueueStepIsATimebaseCycle : Prop :=
  (∀ (s : State), s.pending = [] → s.m.boot.pllLock = true →
      ∃ t, step s = .next t ∧ t.latch = s.latch ∧ t.pending = [] ∧ t.m.tb = (s.m.tb + (2 ^ 32 + s.m.tbRate).toNat) % 2 ^ 96) ∧
  (∀ (s : State), s.pending = [] → s.m.boot.pllLock = false → step s = .next (s.done s.start))

/-- The state at VAUX power-on has no latched mode, canonical memories and an empty queue. Reset meets what the invariant EveryStepKeepsTheModeLegal asks,
its memories list nothing, and no command waits. Rules: R3, R634. -/
def Obligations.ResetStateIsLegalAndCanonical : Prop :=
  State.reset.latch = {} ∧ State.reset.latch.legal = true ∧ State.reset.m.memWf = true ∧ State.reset.pending = [] ∧ State.reset.m.tb = 0 ∧ State.reset.m.threads = []

/-- At VAUX power-on every register field with a reset value other than 0 reads that value. Each field of the register map whose table gives a reset value
other than 0 reads it in State.reset (of an array, its first register is read). Rules: R634, 23_register_map.md. -/
def Obligations.ResetRegistersReadTheirResetValues : Prop :=
  (State.reset.m.rd GLB_IDENT_DEVICE = 2576 ∧
      State.reset.m.rd GLB_IDENT_REVISION = 16 ∧
      State.reset.m.rd GLB_IRQ_MASK_MASK = 2047 ∧
      State.reset.m.rd GLB_PLANE_STATUS_IN_SERVICE = 15 ∧
      State.reset.m.rd GLB_PLANE_EVENT_EN_PLANE_OUT = 1 ∧
      State.reset.m.rd GLB_PLANE_EVENT_EN_DEGRADED = 1 ∧
      State.reset.m.rd GLB_PLANE_CFG_ERR_THRESH = 16 ∧
      State.reset.m.rd GLB_PLANE_CFG_RESEQ_TIMEOUT = 256 ∧
      State.reset.m.rd (SPC_CTRL_RETRY_BASE 0) = 1 ∧
      State.reset.m.rd (SPC_SENSE_RSHUNT 0) = 100 ∧
      State.reset.m.rd (SPC_SENSE_ITRIP 0) = 500 ∧
      State.reset.m.rd (SPC_TIMER_OC_TIME 0) = 100 ∧
      State.reset.m.rd (SPC_RAMP_RATE 0) = 20 ∧
      State.reset.m.rd (SPC_RAMP_PG_QUAL 0) = 20 ∧
      State.reset.m.rd (SPC_RAMP_INRUSH_EST 0) = 200 ∧
      State.reset.m.rd (SPC_ENERGY_INSERT_BUDGET 0) = 500 ∧
      State.reset.m.rd (SPC_ENERGY_FAULT_E 0) = 100 ∧
      State.reset.m.rd (PPC_SOA_SOA_PWR 0) = 100 ∧
      State.reset.m.rd (SPC_EVENT_EN_TRIP 0) = 1 ∧
      State.reset.m.rd (SPC_EVENT_EN_PG_FALL 0) = 1 ∧
      State.reset.m.rd (SPC_EVENT_EN_PG_WARN 0) = 1 ∧
      State.reset.m.rd (SPC_EVENT_EN_CFG_REFUSED 0) = 1 ∧
      State.reset.m.rd (SPC_EVENT_EN_CTRL_REFUSED 0) = 1 ∧
      State.reset.m.rd (SPC_MIN_I 0) = 65535 ∧
      State.reset.m.rd (SPC_MIN_V 0) = 65535 ∧
      State.reset.m.rd ORG_CTRL_EN_A = 1 ∧
      State.reset.m.rd ORG_CTRL_EN_B = 1) ∧
  (State.reset.m.rd ORG_CTRL_BUS_INRUSH = 2000 ∧
      State.reset.m.rd ORG_CFG_RDSON_A = 10 ∧
      State.reset.m.rd ORG_CFG_RDSON_B = 10 ∧
      State.reset.m.rd ORG_CFG_UV = 30 ∧
      State.reset.m.rd ORG_CFG_OV = 30 ∧
      State.reset.m.rd ORG_EVENT_EN_FEED_A_LOST = 1 ∧
      State.reset.m.rd ORG_EVENT_EN_FEED_B_LOST = 1 ∧
      State.reset.m.rd ORG_EVENT_EN_REVERSE = 1 ∧
      State.reset.m.rd ORG_EVENT_EN_SWITCHOVER = 1 ∧
      State.reset.m.rd (ORG_MIN_I 0) = 65535 ∧
      State.reset.m.rd (ORG_MIN_V 0) = 65535 ∧
      State.reset.m.rd WKT_PWR_CTRL_IDLE_HOLD = 100 ∧
      State.reset.m.rd WKT_WAKE_EN_EN = 3 ∧
      State.reset.m.rd WKT_PWR_EVENT_EN_ENTRY_ABORT = 1 ∧
      State.reset.m.rd WKT_PWR_EVENT_EN_WAKE_ABORT = 1 ∧
      State.reset.m.rd WKT_PWR_EVENT_EN_SHUTTER_REFUSED = 1 ∧
      State.reset.m.rd WKT_KEEP_SEL_FIXED = 255 ∧
      State.reset.m.rd WKT_THERM_EVENT_EN_WARN = 1 ∧
      State.reset.m.rd TB_CTRL_PPS_EN = 1 ∧
      State.reset.m.rd TB_WINDOW_WINDOW = 2000 ∧
      State.reset.m.rd TB_EVENT_EN_PPS_FAR = 1 ∧
      State.reset.m.rd TB_EVENT_EN_PPS_EARLY = 1 ∧
      State.reset.m.rd TB_EVENT_EN_PPS_LOSS = 1 ∧
      State.reset.m.rd ERR_CTRL_COALESCE = 10 ∧
      State.reset.m.rd ERR_CTO_PERIOD = 10000 ∧
      State.reset.m.rd ERR_CTO_LATE_MULT = 3 ∧
      State.reset.m.rd ERR_EVENT_EN_CONTAINED = 1) ∧
  (State.reset.m.rd ERR_EVENT_EN_PORT_FATAL = 1 ∧
      State.reset.m.rd ERR_EVENT_EN_JRN_FULL = 1 ∧
      State.reset.m.rd ERR_SCRUB_HOURS = 24 ∧
      State.reset.m.rd PVT_T2_CFG_MIRROR = 1 ∧
      State.reset.m.rd PVT_SUM_CFG_REBUILD_AT = 4096 ∧
      State.reset.m.rd PVT_EVICT_CFG_MAX_EVICT = 1024 ∧
      State.reset.m.rd PVT_EVENT_EN_CFG_REFUSED = 1 ∧
      State.reset.m.rd PVT_EVENT_EN_STRAY_WB = 1 ∧
      State.reset.m.rd PVT_EVENT_EN_NONMEMBER = 1 ∧
      State.reset.m.rd PVT_EVENT_EN_T2_COPY_USED = 1 ∧
      State.reset.m.rd PVT_EVENT_EN_PROTOCOL = 1 ∧
      State.reset.m.rd PVT_LOSS_EVENT_EN_MEMBER_DEAD = 1 ∧
      State.reset.m.rd PVT_LOSS_EVENT_EN_SNOOP_TIMEOUT = 1 ∧
      State.reset.m.rd PVT_LOSS_EVENT_EN_LINE_LOST = 1 ∧
      State.reset.m.rd PVT_LOSS_EVENT_EN_LOST_FULL = 1 ∧
      State.reset.m.rd PVT_LOSS_EVENT_EN_STATE_LOST = 1 ∧
      State.reset.m.rd PVT_DEAD_CFG_LINK_TIMEOUT = 50 ∧
      State.reset.m.rd PVT_DEAD_CFG_SNOOP_TIMEOUT = 100 ∧
      State.reset.m.rd (PVT_HR_CFG_WAY_MASK 0) = 65535 ∧
      State.reset.m.rd (PVT_HR_QUOTA_T2_QUOTA 0) = 2048 ∧
      State.reset.m.rd (PVT_HR_PROG_TENURE 0) = 32 ∧
      State.reset.m.rd (PVT_HR_PROG_STARVE_LIMIT 0) = 8 ∧
      State.reset.m.rd LVR_CTRL_POLICE_EN = 1 ∧
      State.reset.m.rd LVR_CTRL_SHAPE_EN = 1 ∧
      State.reset.m.rd LVR_CTRL_YELLOW_MULT = 2 ∧
      State.reset.m.rd LVR_CTRL_TC7_FLOOR = 8 ∧
      State.reset.m.rd LVR_EVENT_EN_CFG_REFUSED = 1) ∧
  (State.reset.m.rd LVR_DOM_CFG_LKP_WEIGHT = 16 ∧
      State.reset.m.rd LVR_SMP_CFG_K = 10 ∧
      State.reset.m.rd LVR_SPEC_CFG_ADAPT_EN = 1 ∧
      State.reset.m.rd LVR_SPEC_CFG_WINDOW_LOG2 = 10 ∧
      State.reset.m.rd LVR_SPEC_CFG_HI = 64 ∧
      State.reset.m.rd LVR_SPEC_CFG_LO = 16 ∧
      State.reset.m.rd LVR_SPEC_EVENT_EN_CFG_REFUSED = 1 ∧
      State.reset.m.rd (LVR_PROF_W 0) = 1103823438081 ∧
      State.reset.m.rd LVR_DEVLOAD_CFG_MOD_CELLS = 1024 ∧
      State.reset.m.rd LVR_DEVLOAD_CFG_SEV_CELLS = 1792 ∧
      State.reset.m.rd SEQ_CTRL_LOCKSTEP = 1 ∧
      State.reset.m.rd SEQ_CORE_MODE_TENANT = 1073741820 ∧
      State.reset.m.rd SEQ_EVENT_EN_LOCKSTEP_MISMATCH = 1 ∧
      State.reset.m.rd SEQ_EVENT_EN_MGR_TRAP = 1 ∧
      State.reset.m.rd SEQ_EVENT_EN_RP_REFUSED = 1 ∧
      State.reset.m.rd SEQ_EVENT_EN_DM_REFUSED = 1 ∧
      State.reset.m.rd SEQ_DOM_RUN_MAX_THREADS = 8 ∧
      State.reset.m.rd CPE_CTRL_MGR_RSV = 16 ∧
      State.reset.m.rd CPE_CTRL_DOM_MAX = 32 ∧
      State.reset.m.rd CPE_CTRL_CH_CHUNKS = 64 ∧
      State.reset.m.rd CPE_STATUS_BUF_FREE = 4096 ∧
      State.reset.m.rd CPE_EVENT_EN_STAGING_ECC = 1 ∧
      State.reset.m.rd DOM_EVENT_EN_MIRROR_FAIL = 1 ∧
      State.reset.m.rd DOM_EVENT_EN_CFG_REFUSED = 1 ∧
      State.reset.m.rd CSM_MIR_CTRL_STATE0 = 1 ∧
      State.reset.m.rd CSM_MIR_CTRL_STATE1 = 1 ∧
      State.reset.m.rd (TILE_PORTMAP_MAP 0) = 5) ∧
  (State.reset.m.rd (TILE_PORT_CTRL_LINK_DIS 0) = 1 ∧
      State.reset.m.rd (TILE_PORT_EVENT_EN_CTRL_REFUSED 0) = 1 ∧
      State.reset.m.rd (TILE_PORT_EVENT_EN_UP_LIMIT 0) = 1 ∧
      State.reset.m.rd (TILE_PORT_EVENT_EN_PBR_DUP 0) = 1 ∧
      State.reset.m.rd (TILE_PORT_EVENT_EN_LINK_DOWN 0) = 1 ∧
      State.reset.m.rd (TILE_PORT_EVENT_EN_IDE_FAIL 0) = 1 ∧
      State.reset.m.rd (TILE_PORT_EVENT_EN_CONTAINED 0) = 1 ∧
      State.reset.m.rd (TILE_PORT_EVENT_EN_SLOT_FAULT 0) = 1 ∧
      State.reset.m.rd (TILE_PORT_SLOT_PVPERL 0) = 100 ∧
      State.reset.m.rd (TILE_ZL_CTRL_TARGET_WIDTH 0) = 7 ∧
      State.reset.m.rd (TILE_ZL_CTRL_DEGRADE_EN 0) = 1 ∧
      State.reset.m.rd (TILE_ZL_STATUS_FEC_ON 0) = 1 ∧
      State.reset.m.rd (TILE_ZL_EVENT_EN_LINK_UP 0) = 1 ∧
      State.reset.m.rd (TILE_ZL_EVENT_EN_LINK_DOWN 0) = 1 ∧
      State.reset.m.rd (TILE_ZL_EVENT_EN_REPLAY_LIMIT 0) = 1 ∧
      State.reset.m.rd (TILE_ZL_EVENT_EN_AUDIT_MISMATCH 0) = 1 ∧
      State.reset.m.rd (TILE_ZL_EVENT_EN_REQ_TIMEOUT 0) = 1 ∧
      State.reset.m.rd (TILE_ZL_EVENT_EN_DEGRADED 0) = 1 ∧
      State.reset.m.rd (TILE_ZL_EVENT_EN_RATE_FAIL 0) = 1 ∧
      State.reset.m.rd (TILE_ZL_EVENT_EN_PROTOCOL_ERR 0) = 1 ∧
      State.reset.m.rd (TILE_ZL_TIMERS_REPLAY_TIMER 0) = 8 ∧
      State.reset.m.rd (TILE_ZL_TIMERS_NAK_TIMER 0) = 100 ∧
      State.reset.m.rd (TILE_ZL_DEGRADE_CORR_THRESH 0) = 4096 ∧
      State.reset.m.rd (TILE_ZL_DEGRADE_AUDIT_THRESH 0) = 64 ∧
      State.reset.m.rd (TILE_D2D_CFG_ERR_THRESH 0) = 8 ∧
      State.reset.m.rd (TILE_D2D_CFG_WINDOW 0) = 10 ∧
      State.reset.m.rd (TILE_D2D_STATUS_SPARES_LEFT 0 0) = 2) ∧
  (State.reset.m.rd (TILE_D2D_EVENT_EN_RETIRE 0) = 1 ∧
      State.reset.m.rd (TILE_D2D_EVENT_EN_HALF_WIDTH 0) = 1 ∧
      State.reset.m.rd (TILE_D2D_EVENT_EN_OUT 0) = 1 ∧
      State.reset.m.rd (TILE_D2D_EVENT_EN_NARROWED 0) = 1 ∧
      State.reset.m.rd (TILE_IBUF_AGENT_SLOTS 0) = 16384 ∧
      State.reset.m.rd (TILE_IBUF_STATUS_UNALLOC 0) = 68352 ∧
      State.reset.m.rd (TILE_EBUF_VC_MIN 0 0) = 4 ∧
      State.reset.m.rd (TILE_EBUF_VC_MAX 0 0) = 2048 ∧
      State.reset.m.rd (TILE_EBUF_PORTMAX_MAX 0) = 4096 ∧
      State.reset.m.rd (TILE_TRK_QCLASS_MAX 0 0) = 2048 ∧
      State.reset.m.rd (TILE_CORE_EVENT_EN_IBUF_CFG_REFUSED 0) = 1 ∧
      State.reset.m.rd (TILE_CORE_EVENT_EN_EBUF_CFG_REFUSED 0) = 1 ∧
      State.reset.m.rd (TILE_CORE_EVENT_EN_TRK_CFG_REFUSED 0) = 1 ∧
      State.reset.m.rd (TILE_CORE_EVENT_EN_PORTMAP_REFUSED 0) = 1 ∧
      State.reset.m.rd (LANE_CTRL_MAX_RATE 0) = 6 ∧
      State.reset.m.rd (LANE_STATUS_LOS 0) = 1 ∧
      State.reset.m.rd (LANE_EVENT_EN_LOS_SET 0) = 1 ∧
      State.reset.m.rd (LANE_EVENT_EN_LOS_CLR 0) = 1 ∧
      State.reset.m.rd (LANE_EVENT_EN_LOL 0) = 1 ∧
      State.reset.m.rd (LANE_DET_CFG_LOS_THRESH 0) = 2 ∧
      State.reset.m.rd (LANE_DET_CFG_LOS_QUAL 0) = 25 ∧
      State.reset.m.rd (LANE_TXEQ_C_MAIN 0) = 63 ∧
      State.reset.m.rd (LANE_INJ_CTRL_RATE_MANT 0) = 1 ∧
      State.reset.m.rd (LANE_INJ_CTRL_RATE_EXP 0) = 9 ∧
      State.reset.m.rd (CNT_FB_CTRL_CYC_EN 0) = 1 ∧
      State.reset.m.rd (CNT_FB_SEL_EVSEL 0 0) = 255 ∧
      State.reset.m.rd (MSIX_CTRL_MASKED 0) = 1)

/-- Every step answers a next state. No command is refused and none faults: every row of the table has an effect in every state. Rules: opcode_table.json. -/
def Obligations.EveryStepGoesOn : Prop :=
  ∀ (s : State), Goes s

/-- No command changes the queue. A command's effect is on everything but the queue. Rules: opcode_table.json. -/
def Obligations.ExecLeavesTheQueue : Prop :=
  ∀ (c : Instr) (s t : State), exec c s = .next t → t.pending = s.pending

/-- Supply, cold-reset and pin commands complete. Each power, pin and cold-reset command answers a next state: a cold reset clears the mode latch, keeps
the flash and returns the boot progress to its start with its cause recorded, and the queue stands; AUX good starts stage W with the policy block in
force; the management PERST# pin follows. Rules: R3, R39, R40, R50, R51, R87, R99, R634. -/
def Obligations.SupplyAndPinCommandsComplete : Prop :=
  (∀ (s : State), Completes (.vauxPowerOn) s fun t => t.latch = {} ∧ t.pending = s.pending ∧ t.m.flash = s.m.flash ∧ t.m.fuses = s.m.fuses ∧ t.m.tfPrev = false ∧ t.m.boot = {} ∧
      t.m.rd WKT_BOOT_STATUS_LAST_RESET = 0 ∧ t.m.rd WKT_BOOT_STATUS_ATTEMPTS = 0) ∧
  (∀ (s : State), Completes (.auxResetNAssert) s fun t => t.latch = {} ∧ t.pending = s.pending ∧ t.m.flash = s.m.flash ∧ t.m.pins.auxResetN = false ∧ t.m.pins.vcoreEn = false ∧
      t.m.pins.portPerstN = 0 ∧ t.m.boot = {} ∧ t.m.rd WKT_BOOT_STATUS_LAST_RESET = 0x01 ∧
      t.m.rd WKT_BOOT_STATUS_PREV_RESET = s.m.rd WKT_BOOT_STATUS_LAST_RESET) ∧
  (∀ (s : State), Completes (.supplyUndervoltage) s fun t => t.latch = {} ∧ t.pending = s.pending ∧ t.m.flash = s.m.flash ∧ t.m.pins.vcoreEn = false ∧ t.m.boot = {} ∧
      t.m.rd WKT_BOOT_STATUS_LAST_RESET = 0x0F ∧ t.m.rd WKT_BOOT_STATUS_PREV_RESET = s.m.rd WKT_BOOT_STATUS_LAST_RESET) ∧
  (∀ (s : State), Completes (.resetCtrlCold 0x5A17) s fun t => t.latch = {} ∧ t.pending = s.pending ∧ t.m.flash = s.m.flash ∧ t.m.boot = {} ∧ t.m.rd WKT_BOOT_STATUS_LAST_RESET = 0x02 ∧
      t.m.rd WKT_BOOT_STATUS_ATTEMPTS = s.m.rd WKT_BOOT_STATUS_ATTEMPTS) ∧
  (∀ (s : State), s.start.boot.auxGood = false →
      exec (.auxGood) s = .next (s.done ((Mach.loadPolicyWicket { s.start with boot := { s.start.boot with auxGood := true, policy := s.start.flash.policy, mgLink := .stageW }, pins := { s.start.pins with auxResetN := true } } s.start.flash.policy).startPolicyChannels s.start.flash.policy))) ∧
  (∀ (s : State), Completes (.mgPerstNAssert) s fun t => t.m.pins = { s.start.pins with mgPerstN := false } ∧ t.m.reg (MSIX_CTRL 0) = regReset (MSIX_CTRL 0)) ∧
  (∀ (s : State), s.latch.tf = true →
      exec (.mgPerstNDeassert) s = .next (s.done ((List.range s.latch.personalities).foldl Mach.revealFn { s.start with pins := { s.start.pins with mgPerstN := true } }))) ∧
  (∀ (s : State), s.latch.tf = false →
      exec (.mgPerstNDeassert) s = .next (s.done ({ s.start with pins := { s.start.pins with mgPerstN := true } })))

/-- The commands of the staged start complete. Each command of the staged start, in the stage that it belongs to, answers the next state that its rule
gives: slot choice and verification, the wait for stage C, rail enables and power goods, PLL lock, loading, DDR5 training, stage F, and the deadlines
that end a start. Rules: R43, R44, R69, R71, R72, R73, R74, R79, R81, R83, R84, R86. -/
def Obligations.StagedStartCommandsComplete : Prop :=
  (∀ (s : State), s.start.boot.auxGood = true →
      s.start.rd WKT_BOOT_STATUS_STAGE = 0 →
      s.start.boot.trying = none →
      s.start.boot.booted = none →
      s.start.bad s.start.firstSlot = false →
      Completes (.bootSlotChoice) s fun t => t.m.boot = { s.start.boot with trying := some s.start.firstSlot, lastTry := false } ∧ t.latch = s.latch) ∧
  (∀ (s : State) (slot : Bool), s.start.boot.trying = some slot →
      (s.start.flash.slot slot).verifies s.start.fuses = true →
      s.latch.latched = false →
      Completes (.slotVerifyDone) s fun t => t.latch = (s.start.flash.slot slot).modeLatch ∧ t.m.rd WKT_BOOT_STATUS_STAGE = 1 ∧ t.m.boot.booted = some slot ∧ t.m.tfPrev = s.start.tfLast) ∧
  (∀ (s : State), s.start.rd WKT_BOOT_STATUS_STAGE = 1 →
      s.start.pins.sysPwrgd = false →
      Completes (.sysPwrgdWaitTimeout) s fun t => t.m.rd WKT_BOOT_STATUS_HALT_CODE = 6 ∧ t.m.pins.warmResetN = true) ∧
  (∀ (s : State), s.start.rd WKT_BOOT_STATUS_STAGE = 1 →
      exec (.upstreamPerstRelease) s = .next (s.done ((((Mach.wr { s.start with pins := { s.start.pins with sysPwrgd := true, warmResetN := true }, boot := { s.start.boot with mgLink := .detect } } WKT_BOOT_STATUS_STAGE 2).wr
      WKT_BOOT_STATUS_HALT_CODE 0).loadPolicyStageC s.start.boot.policy).tfStageC s.latch))) ∧
  (∀ (s : State), s.start.boot.mgLink = .detect →
      Completes (.mgmtEndpointRetrain) s fun t => t.m.boot = { s.start.boot with mgLink := .native }) ∧
  (∀ (s : State) (r : Rail), s.start.mayAssert r = true →
      Completes (.enableAssert r) s fun t => t.m.pins = s.start.pins.setEn r true) ∧
  (∀ (s : State) (r : Rail), Completes (.powerGoodRise r) s fun t => t.m.pins = s.start.pins.setPg r true) ∧
  (∀ (s : State) (r : Rail), s.start.rd WKT_BOOT_STATUS_STAGE = 2 →
      s.start.pins.en r = true →
      s.start.pins.pg r = false →
      exec (.powerGoodDeadlineMiss r) s = .next (s.done (((s.start.wr WKT_BOOT_STATUS_STAGE 4).wr WKT_BOOT_STATUS_HALT_CODE (if r = .vcore then 3 else if r = .vddq then 4 else 5)).startDrop true true true))) ∧
  (∀ (s : State) (r : Rail), s.start.pins.en r = true →
      r ≠ .vddq →
      exec (.railPowerGoodLoss r) s = .next (s.done ((Mach.startDrop { s.start with pins := s.start.pins.setPg r false } true false true).disorderly 0x08 false))) ∧
  (∀ (s : State), s.start.pins.vddqEn = true →
      exec (.railPowerGoodLoss .vddq) s = .next (s.done ((Mach.startDrop { s.start with pins := s.start.pins.setPg .vddq false } true true true).disorderly 0x09 true))) ∧
  (∀ (s : State), s.start.pins.vcoreEn = true →
      exec (.sysPwrgdLoss) s = .next (s.done ((((Mach.allChannelsOff { s.start with pins := { s.start.pins with sysPwrgd := false } }).assertAllPerst).startDrop true false true).disorderly 0x0A false))) ∧
  (∀ (s : State), s.start.starting = true →
      s.start.pins.vcoreEn = true →
      s.start.pins.vcorePg = true →
      Completes (.corePllLock) s fun t => t.m.boot = { s.start.boot with pllLock := true }) ∧
  (∀ (s : State), s.start.rd WKT_BOOT_STATUS_STAGE = 2 →
      s.start.boot.pllLock = true →
      s.start.boot.loaderUp = false →
      Completes (.loaderVerified) s fun t => t.m.boot = { s.start.boot with loaderUp := true, loaded := 1 }) ∧
  (∀ (s : State) (sec : Section), s.start.rd WKT_BOOT_STATUS_STAGE = 2 →
      s.start.boot.loaderUp = true →
      s.start.boot.loaded < s.start.bootImage.sectionCount →
      s.start.bootImage.sections[s.start.boot.loaded]? = some sec →
      sec.digestOk = true →
      Completes (.sectionLoaded (s.start.boot.loaded)) s fun t => t.m.boot = { s.start.boot with loaded := s.start.boot.loaded + 1 }) ∧
  (∀ (s : State) (ch : Fin 8) (id : DimmId) (mo : Bool), s.start.starting = true →
      s.start.pins.vddqPg = true →
      s.start.boot.loaderUp = true →
      bit s.start.boot.trained ch = false →
      bit s.start.boot.disabled ch = false →
      (s.start.cacheServes ch id && mo) = false →
      exec (.ddr5TrainingDone ch id mo true) s = .next (s.done (Mach.trainedCh { s.start with flash := s.start.flash.writeCache ch id } ch false))) ∧
  (∀ (s : State) (mems : List (Nat × QMem)), s.start.rd WKT_PWR_STATUS_STATE = 5 →
      s.start.boot.pllLock = true →
      s.start.pins.vlanePg = true →
      s.latch.tf = false →
      (s.start.boot.trained ||| s.start.boot.disabled) &&& 0xFF = 0xFF →
      exec (.stageFReached mems) s = .next (s.done ((s.start.wakeDone mems).upstreamPorts.foldl (fun m p => m.send (.drs p)) (s.start.wakeDone mems)))) ∧
  (∀ (s : State) (mems : List (Nat × QMem)), s.start.rd WKT_PWR_STATUS_STATE = 0 →
      s.start.rd WKT_BOOT_STATUS_STAGE = 2 →
      s.start.boot.loaderUp = true →
      s.start.boot.loaded = s.start.bootImage.sectionCount →
      s.latch.tf = false →
      (s.start.boot.trained ||| s.start.boot.disabled) &&& 0xFF = 0xFF →
      s.start.pins.vlanePg = true →
      s.start.boot.importTf = false →
      exec (.stageFReached mems) s = .next (s.done (let m := (s.start.privetStageF.releasePerst.wr WKT_BOOT_STATUS_STAGE 3).wr WKT_BOOT_STATUS_ATTEMPTS 0
      let m := Mach.rescanAll { m with fuses := m.fuses.program m.bootImage } mems
      m.upstreamPorts.foldl (fun m p => m.send (.drs p)) m))) ∧
  (∀ (s : State), s.start.rd WKT_BOOT_STATUS_STAGE = 2 →
      exec (.bootWatchdog) s = .next (s.done ((s.start.addSat WKT_BOOT_STATUS_ATTEMPTS 1).disorderly 0x07 false))) ∧
  (∀ (s : State) (p : Port) (tag : Nat), s.start.starting = true →
      s.start.rd (TILE_PORT_CTRL_ROLE p) = 1 →
      Completes (.configRequestRetry p tag) s fun t => t.m.out = [.crs p tag] ∧ t.m.regs = s.start.regs) ∧
  (∀ (s : State), s.start.boot.dropVlane = true →
      s.start.rd WKT_PWR_STATUS_STATE = 0 →
      Completes (.enableDeassert) s fun t => t.m.pins = { s.start.pins with vlaneEn := false } ∧ t.m.boot = { s.start.boot with dropVlane := false })

/-- Reset and thermal commands complete. In the stage in which each is taken, the core-reset, tile-reset, thermal and device-fatal commands answer the
next state that their rules give; the mode latch and the queue stand. Rules: R63, R64, R87, R88, R89, R90, R95, R99, R100, R586. -/
def Obligations.ResetCommandsComplete : Prop :=
  (∀ (s : State), s.start.rd WKT_PWR_STATUS_STATE = 0 →
      s.start.rd WKT_BOOT_STATUS_STAGE = 3 →
      s.start.boot.orderly = none →
      Completes (.warmResetNFall) s fun t => t.m.boot = { s.start.boot with orderly := some 0x03, drained := false } ∧ t.m.pins.warmResetN = false) ∧
  (∀ (s : State), s.start.rd WKT_BOOT_STATUS_STAGE = 2 →
      exec (.warmResetNFall) s = .next (s.done (Mach.disorderly 0x0D false { s.start with pins := { s.start.pins with warmResetN := false } }))) ∧
  (∀ (s : State), s.start.boot.orderly.isSome = true →
      s.start.boot.drained = false →
      exec (.orderlyDrainTimeout) s = .next (s.done ({ s.start.flushAllTrackers with boot := { s.start.boot with drained := true } }))) ∧
  (∀ (s : State) (cause : Nat), s.start.boot.orderly = some cause →
      s.start.trackerEmpty = true →
      s.start.spillTier1.tier1Out = true →
      exec (.orderlyCoreReset) s = .next (s.done ((s.start.spillTier1.coreReset true false).recordCause cause))) ∧
  (∀ (s : State), s.start.boot.orderly.isSome = true →
      s.start.takesCore = true →
      exec (.orderlyResetDeadline) s = .next (s.done ((s.start.coreReset false false).recordCause 0x04))) ∧
  (∀ (s : State) (cause : Nat), s.start.takesCore = true →
      exec (.disorderlyCoreReset cause) s = .next (s.done ((s.start.coreReset false false).recordCause cause))) ∧
  (∀ (s : State), s.start.rd WKT_BOOT_STATUS_STAGE = 3 →
      s.start.boot.orderly = none →
      Completes (.resetCtrlOrderlyCore 0x5A17) s fun t => t.m.boot = { s.start.boot with orderly := some 0x05, drained := false } ∧ t.m.regs = s.start.regs) ∧
  (∀ (s : State), s.start.takesCore = true →
      exec (.resetCtrlImmediateCore 0x5A17) s = .next (s.done ((s.start.coreReset false false).recordCause 0x06))) ∧
  (∀ (s : State) (n : Tile), s.start.rd WKT_BOOT_STATUS_STAGE = 3 →
      s.start.boot.orderly = none →
      s.start.rd WKT_PWR_STATUS_STATE < 3 →
      Completes (.resetCtrlTile n 0x5A17) s fun t => t.latch = s.latch ∧ t.pending = s.pending ∧ SMap.find t.m.trkRr n = none) ∧
  (∀ (s : State) (temps : List Byte), (∀ x ∈ temps.take 40, x.toInt ≤ s.start.warnAt) →
      exec (.thermalSample temps) s = .next (s.done ((temps.take 40).zipIdx.foldl (fun m (x : Byte × Nat) => m.wr (WKT_THERM_SENSOR_TEMP x.2) x.1.toNat) s.start))) ∧
  (∀ (s : State) (temps : List Byte), (∃ x ∈ temps.take 40, s.start.warnAt < x.toInt) →
      exec (.thermalSample temps) s = .next (s.done ((((temps.take 40).zipIdx.foldl (fun m (x : Byte × Nat) => m.wr (WKT_THERM_SENSOR_TEMP x.2) x.1.toNat) s.start).raise WKT_THERM_EVENT_WARN).error
      { cls := .corrected, block := 9, code := 2 }))) ∧
  (∀ (s : State) (k : Fin 40), (s.start.wr (WKT_THERM_SENSOR_TEMP k) 125).takesCore = true →
      Completes (.thermalTrip k) s fun t => t.m.rd WKT_BOOT_STATUS_STAGE = 4 ∧ t.m.rd WKT_BOOT_STATUS_HALT_CODE = 7 ∧ t.latch = s.latch ∧ t.pending = s.pending) ∧
  (∀ (s : State) (block code : Nat), exec (.deviceFatalError block code) s = .next (s.done (((s.start.upstreamPorts.foldl Mach.viral s.start).error { cls := .deviceFatal, block := block, code := code }).disorderly 0x0C false)))

/-- The PLDM firmware update commands complete. Each PLDM command of an update, in the phase that admits it, moves the update to its next phase and
answers success: data transfers grow by 4 KiB, verification judges the written image, activation rewrites a flash copy. The phases themselves are the
model's (assumption log 30). Rules: R77, R79, R83, R97, R98, R602. -/
def Obligations.FirmwareUpdateCommandsComplete : Prop :=
  (∀ (s : State), exec (.queryDeviceIdentifiers) s = .next (s.done (s.start.send (.pldm 0 true [0x0A10])))) ∧
  (∀ (s : State), exec (.getFirmwareParameters) s = .next (s.done (s.start.send (.pldm 1 true [s.start.bootImage.fwVersion, if s.start.pldm.readyImage then s.start.pldm.image.fwVersion else s.start.bootImage.fwVersion])))) ∧
  (∀ (s : State), s.start.pldm.st = .idle →
      exec (.requestUpdate) s = .next (s.done ({ s.start with pldm := { st := .learnComponents } }.send (.pldm 2 true [])))) ∧
  (∀ (s : State) (comps : List Nat), s.start.pldm.st = .learnComponents →
      (comps.all (fun c => c = 1 ∨ c = 2) = true) →
      exec (.passComponentTable comps) s = .next (s.done ({ s.start with pldm := { s.start.pldm with st := .readyXfer, table := comps } }.send (.pldm 3 true [])))) ∧
  (∀ (s : State) (comp size : Nat) (im : Image) (pol : Policy), s.start.pldm.st = .readyXfer →
      comp ∈ s.start.pldm.table →
      (comp = 1 → size ≤ 32 * 2 ^ 20) →
      (comp = 2 → size ≤ 32 * 2 ^ 10) →
      exec (.updateComponent comp size im pol) s = .next (s.done ({ s.start with pldm := { s.start.pldm with st := .download, comp := comp, size := size, got := 0, image := im, policy := pol, verified := false } }.send (.pldm 4 true [])))) ∧
  (∀ (s : State), s.start.pldm.st = .download →
      s.start.pldm.got < s.start.pldm.size →
      s.start.pldm.comp = 2 →
      exec (.requestFirmwareData) s = .next (s.done ({ s.start with pldm := { s.start.pldm with got := s.start.pldm.got + 4096 } }))) ∧
  (∀ (s : State), s.start.pldm.st = .download →
      s.start.pldm.got < s.start.pldm.size →
      s.start.pldm.comp = 1 →
      s.start.boot.booted = some false →
      exec (.requestFirmwareData) s = .next (s.done ({ s.start with pldm := { s.start.pldm with got := s.start.pldm.got + 4096 }, flash := s.start.flash.setSlot true {} }.wr WKT_BOOT_STATUS_BAD_B 0))) ∧
  (∀ (s : State), s.start.pldm.st = .download →
      s.start.pldm.size ≤ s.start.pldm.got →
      s.start.pldm.comp = 1 →
      s.start.boot.booted = some true →
      exec (.transferComplete) s = .next (s.done ({ s.start with flash := s.start.flash.setSlot false s.start.pldm.image, pldm := { s.start.pldm with st := .verify } }.send (.pldm 6 true [])))) ∧
  (∀ (s : State) (ok : Bool), s.start.pldm.st = .verify →
      s.start.pldm.comp = 1 →
      ok = ((s.start.flash.slot s.start.otherSlot).verifies s.start.fuses && ((s.start.flash.slot s.start.otherSlot).sections.take (s.start.flash.slot s.start.otherSlot).sectionCount).all (·.digestOk)) →
      exec (.verifyComplete) s = .next (s.done ({ s.start with pldm := { s.start.pldm with st := if ok then .apply else .readyXfer, verified := ok } }.send (.pldm 7 ok [])))) ∧
  (∀ (s : State), s.start.pldm.st = .apply →
      s.start.pldm.verified = true →
      exec (.applyComplete) s = .next (s.done ({ s.start with pldm := { s.start.pldm with st := .readyXfer, readyImage := s.start.pldm.readyImage || s.start.pldm.comp = 1, readyPolicy := s.start.pldm.readyPolicy || s.start.pldm.comp = 2 } }.send (.pldm 8 true [])))) ∧
  (∀ (s : State), s.start.pldm.readyImage = true →
      s.start.pldm.readyPolicy = false →
      exec (.activateFirmware) s = .next (s.done ({ s.start with flash := s.start.flash.writePtr s.start.otherSlot, pldm := {} }.send (.pldm 9 true [])))) ∧
  (∀ (s : State), s.start.pldm.readyImage = false →
      s.start.pldm.readyPolicy = true →
      exec (.activateFirmware) s = .next (s.done ({ s.start with flash := s.start.flash.writePolicy s.start.pldm.policy, pldm := {} }.send (.pldm 9 true [])))) ∧
  (∀ (s : State), exec (.getStatus) s = .next (s.done (s.start.send (.pldm 10 true [s.start.pldm.st.num, s.start.pldm.got])))) ∧
  (∀ (s : State), s.start.pldm.st = .download ∨ s.start.pldm.st = .verify ∨ s.start.pldm.st = .apply →
      exec (.cancelUpdateComponent) s = .next (s.done ({ s.start with pldm := { s.start.pldm with st := .readyXfer, comp := 0, got := 0, verified := false } }.send (.pldm 11 true [])))) ∧
  (∀ (s : State), s.start.pldm.st ≠ .idle →
      exec (.cancelUpdate) s = .next (s.done ({ s.start with pldm := {} }.send (.pldm 12 true []))))

/-- The lane commands complete. On a lane of a tile that is not gated, each lane event and each write of a lane register answers the next state that its
rule gives: status fields, the event bit that it raises, the coefficients and test settings that it loads. Rules: R104, R106, R108, R109, R112, R113,
R114, R115, R116, R118, R119, R121. -/
def Obligations.LaneCommandsComplete : Prop :=
  (∀ (s : State) (l : Lane), s.start.pins.vlanePg = true →
      exec (.laneCalibrate l) s = .next (s.done ((s.start.wr (LANE_STATUS_RATE l) 0).wr (LANE_STATUS_PLL_LOCK l) 1))) ∧
  (∀ (s : State) (l : Lane) (rate : Fin 7) (pll cdr adapt : Bool), rate.val ≤ s.start.rd (LANE_CTRL_MAX_RATE l) →
      s.start.flag (LANE_TEST_CTRL_TEST_OWN l) = false →
      exec (.laneRateChange l rate pll cdr adapt) s = .next (s.done ((((s.start.wr (LANE_STATUS_RATE l) rate).wrB (LANE_STATUS_PLL_LOCK l) pll).wrB (LANE_STATUS_CDR_LOCK l) (pll && cdr)).wrB (LANE_RXEQ_ADAPT_DONE l) (pll && cdr && adapt)))) ∧
  (∀ (s : State) (l : Lane), exec (.cdrLock l) s = .next (s.done (s.start.wr (LANE_STATUS_CDR_LOCK l) 1))) ∧
  (∀ (s : State) (l : Lane), s.start.flag (LANE_STATUS_LOS l) = false →
      exec (.cdrLossOfLock l) s = .next (s.done ((s.start.wr (LANE_STATUS_CDR_LOCK l) 0).raise (LANE_EVENT_LOL l)))) ∧
  (∀ (s : State) (l : Lane), s.start.flag (LANE_STATUS_LOS l) = false →
      exec (.losAssert l) s = .next (s.done (((s.start.wr (LANE_STATUS_LOS l) 1).wr (LANE_STATUS_CDR_LOCK l) 0).raise (LANE_EVENT_LOS_SET l)))) ∧
  (∀ (s : State) (l : Lane), s.start.flag (LANE_STATUS_LOS l) = true →
      exec (.losDeassert l) s = .next (s.done ((s.start.wr (LANE_STATUS_LOS l) 0).raise (LANE_EVENT_LOS_CLR l)))) ∧
  (∀ (s : State) (l : Lane), s.start.flag (LANE_STATUS_LOS l) = false →
      s.start.flag (LANE_STATUS_CDR_LOCK l) = false →
      exec (.losRelockTimeout l) s = .next (s.done (s.start.raise (LANE_EVENT_LOL l)))) ∧
  (∀ (s : State) (l : Lane) (v : BitVec 32), s.start.gated (l / 16) = false →
      bit v.toNat 31 = true →
      txeqValid v.toNat (s.start.rd (LANE_STATUS_RATE l)) = true →
      exec (.laneTxeqWrite l v) s = .next (s.done ((s.start.setReg (LANE_TXEQ_C_M2 l).off (putField (s.start.reg (LANE_TXEQ_C_M2 l).off) 0 29 v.toNat)).wr (LANE_TXEQ_SW_OWN l) 1))) ∧
  (∀ (s : State) (l : Lane) (v : BitVec 32), s.start.gated (l / 16) = false →
      bit v.toNat 31 = false →
      exec (.laneTxeqWrite l v) s = .next (s.done (s.start.wr (LANE_TXEQ_SW_OWN l) 0))) ∧
  (∀ (s : State) (l : Lane) (v : BitVec 32), s.start.flag (LANE_TXEQ_SW_OWN l) = false →
      txeqValid v.toNat (s.start.rd (LANE_STATUS_RATE l)) = true →
      exec (.coefficientRequest l v) s = .next (s.done (s.start.setReg (LANE_TXEQ_C_M2 l).off (putField (s.start.reg (LANE_TXEQ_C_M2 l).off) 0 29 v.toNat)))) ∧
  (∀ (s : State) (l : Lane) (v : BitVec 32), s.start.flag (LANE_TXEQ_SW_OWN l) = true →
      exec (.coefficientRequest l v) s = .next (s.done (s.start.send (.coefReject l)))) ∧
  (∀ (s : State) (l : Lane) (v : BitVec 32), s.start.gated (l / 16) = false →
      v.toNat % 4 = 2 →
      exec (.laneRxeqModeWrite l v) s = .next (s.done (((s.start.setReg (LANE_RXEQ_ADAPT_MODE l).off (putField (s.start.reg (LANE_RXEQ_ADAPT_MODE l).off) 0 12 v.toNat)).wr
      (LANE_RXEQ_CTLE_USED l) (v.toNat / 4 % 16)).wr (LANE_RXEQ_VGA_USED l) (v.toNat / 64 % 64)))) ∧
  (∀ (s : State) (l : Lane) (v : BitVec 32), s.start.gated (l / 16) = false →
      bit v.toNat 0 = true →
      s.start.mayTest l = false →
      exec (.laneTestCtrlWrite l v) s = .next (s.done (s.start.raise (LANE_EVENT_TEST_REFUSED l)))) ∧
  (∀ (s : State) (l : Lane) (v : BitVec 32), s.start.gated (l / 16) = false →
      bit v.toNat 0 = false →
      bit v.toNat 14 = false →
      s.start.flag (LANE_TEST_CTRL_TEST_OWN l) = false →
      exec (.laneTestCtrlWrite l v) s = .next (s.done ((s.start.setReg (LANE_TEST_CTRL_TEST_OWN l).off (putField (s.start.reg (LANE_TEST_CTRL_TEST_OWN l).off) 0 14 v.toNat)).wrB (LANE_STATUS_TEST_OWN l) false))) ∧
  (∀ (s : State) (l : Lane) (v : BitVec 32), s.start.gated (l / 16) = false →
      bit v.toNat 0 = true →
      s.start.mayTest l = true →
      patternOk (v.toNat / 16 % 16) (v.toNat / 2 % 8) = true →
      patternOk (v.toNat / 256 % 16) (v.toNat / 2 % 8) = true →
      bit v.toNat 14 = false →
      exec (.laneTestCtrlWrite l v) s = .next (s.done ((((((s.start.setReg (LANE_TEST_CTRL_TEST_OWN l).off (putField (s.start.reg (LANE_TEST_CTRL_TEST_OWN l).off) 0 14 v.toNat)).wrB (LANE_STATUS_TEST_OWN l) true).wr
      (LANE_STATUS_RATE l) (v.toNat / 2 % 8)).wr (LANE_TEST_STATUS_CHK_LOCK l) 0).wr (LANE_TEST_STATUS_PAT_INV l) 0).updLx l fun x =>
      { x with gen := v.toNat / 16 % 16 != 0, chk := v.toNat / 256 % 16 != 0 }))) ∧
  (∀ (s : State) (l : Lane), s.start.gated (l / 16) = false →
      exec (.chkClr l) s = .next (s.done ((((s.start.wr (LANE_INJ_COUNT_COUNT l) 0).wr (LANE_CHK_BITS_COUNT l) 0).wr (LANE_CHK_ERRS_COUNT l) 0).wr (LANE_TEST_STATUS_SYNC_LOSS_CNT l) 0))) ∧
  (∀ (s : State) (l : Lane) (inv : Bool), (s.start.lx l).chk = true →
      exec (.checkerLock l inv) s = .next (s.done ((s.start.wr (LANE_TEST_STATUS_CHK_LOCK l) 1).wrB (LANE_TEST_STATUS_PAT_INV l) inv))) ∧
  (∀ (s : State) (l : Lane) (bits errs : Nat), s.start.flag (LANE_TEST_STATUS_CHK_LOCK l) = true →
      exec (.chkSyncLoss l bits errs) s = .next (s.done (((((s.start.addSat (LANE_CHK_BITS_COUNT l) bits).addSat (LANE_CHK_ERRS_COUNT l) errs).wr (LANE_TEST_STATUS_CHK_LOCK l) 0).addSat
      (LANE_TEST_STATUS_SYNC_LOSS_CNT l) 1).raise (LANE_EVENT_CHK_SYNC_LOSS l)))) ∧
  (∀ (s : State) (l : Lane), ((s.start.updLx l fun x => { x with flip := 0 }).injects l = true) →
      exec (.injFire l) s = .next (s.done ((s.start.updLx l fun x => { x with flip := 0 }).addSat (LANE_INJ_COUNT_COUNT l) (s.start.lx l).flip))) ∧
  (∀ (s : State) (l : Lane) (v : BitVec 32), s.start.gated (l / 16) = false →
      v.toNat % 4 = 1 →
      bit v.toNat 16 = true →
      (((s.start.setReg (LANE_INJ_CTRL_MODE l).off (putField (s.start.reg (LANE_INJ_CTRL_MODE l).off) 0 16 v.toNat)).wrB (LANE_INJ_CTRL_TARGET l) (bit v.toNat 17)).lx l).flip = 0 →
      exec (.laneInjCtrlWrite l v) s = .next (s.done (((s.start.setReg (LANE_INJ_CTRL_MODE l).off (putField (s.start.reg (LANE_INJ_CTRL_MODE l).off) 0 16 v.toNat)).wrB (LANE_INJ_CTRL_TARGET l) (bit v.toNat 17)).updLx l fun x =>
      { x with flip := 1 }))) ∧
  (∀ (s : State) (l : Lane) (v : BitVec 32), s.start.gated (l / 16) = false →
      v.toNat % 4 = 0 →
      exec (.laneInjCtrlWrite l v) s = .next (s.done ((s.start.setReg (LANE_INJ_CTRL_MODE l).off (putField (s.start.reg (LANE_INJ_CTRL_MODE l).off) 0 16 v.toNat)).wrB (LANE_INJ_CTRL_TARGET l) (bit v.toNat 17)))) ∧
  (∀ (s : State) (l : Lane), s.start.flag (LANE_TEST_CTRL_TEST_OWN l) = true →
      s.start.rd (LANE_TEST_CTRL_LOOPBACK l) = 3 →
      exec (.feSlip l) s = .next (s.done (s.start.raise (LANE_EVENT_FE_SLIP l))))

/-- The Zitch link's training and control commands complete. On a Zitch port in the link state that each event is for, the training sets, timeouts and
control writes make the transition of the link's state machine: the state it enters, the counts it starts afresh, the sets it sends. Rules: R129,
R130, R131, R153, R154, R156, R166. -/
def Obligations.ZitchLinkStateCommandsComplete : Prop :=
  (∀ (s : State) (p : Port), s.start.gated (p / 16) = false →
      s.start.isZitch p = true →
      s.start.zState p = zDisabled →
      (s.start.wr (TILE_ZL_CTRL_LINK_DIS p) 0).zState p = zDisabled →
      (s.start.wr (TILE_ZL_CTRL_LINK_DIS p) 0).linkDis p = false →
      exec (.linkDisClear p) s = .next (s.done ((s.start.wr (TILE_ZL_CTRL_LINK_DIS p) 0).zLeave p zDetect))) ∧
  (∀ (s : State) (p : Port), s.start.gated (p / 16) = false →
      s.start.isZitch p = true →
      (s.start.wr (TILE_ZL_CTRL_LINK_DIS p) 1).zState p = zActive →
      exec (.linkDisSet p) s = .next (s.done (((s.start.wr (TILE_ZL_CTRL_LINK_DIS p) 1).updZ p fun z => { z with drain := some .disable }).wr (TILE_ZL_STATUS_OP_ACTIVE p) 1))) ∧
  (∀ (s : State) (p : Port), s.start.gated (p / 16) = false →
      s.start.isZitch p = true →
      (s.start.wr (TILE_ZL_CTRL_LINK_DIS p) 1).zState p ≠ zActive →
      exec (.linkDisSet p) s = .next (s.done ((s.start.wr (TILE_ZL_CTRL_LINK_DIS p) 1).zLeave p zDisabled))) ∧
  (∀ (s : State) (p : Port), s.start.gated (p / 16) = false →
      s.start.isZitch p = true →
      s.start.zState p = zActive →
      (s.start.z p).op = none →
      (s.start.z p).doing = none →
      (s.start.z p).drain = none →
      exec (.retrain p) s = .next (s.done (((s.start.updZ p fun z => { z with op := some { kind := 1 } }).zPut p 4).send (.zitch p (.ctrl 1 1 0))))) ∧
  (∀ (s : State) (p : Port) (w : Fin 8) (g mask : Nat), s.start.gated (p / 16) = false →
      s.start.isZitch p = true →
      s.start.rd (TILE_ZL_CTRL_TARGET_WIDTH p) ≠ w.val →
      zGroup (0xFFFF - ((s.start.wr (TILE_ZL_CTRL_TARGET_WIDTH p) w).z p).failed &&& 0xFFFF) ((s.start.wr (TILE_ZL_CTRL_TARGET_WIDTH p) w).zTarget p) 0 = some (g, mask) →
      exec (.targetWidthChange p w) s = .next (s.done ((s.start.wr (TILE_ZL_CTRL_TARGET_WIDTH p) w).zRequest p { kind := 2, mask := mask }))) ∧
  (∀ (s : State) (p : Port), s.start.gated (p / 16) = false →
      s.start.isZitch p = true →
      exec (.lpReqWrite p true) s = .next (s.done ((s.start.wr (TILE_ZL_CTRL_LP_REQ p) 1).zRequest p { kind := 3, cause := .power }))) ∧
  (∀ (s : State) (p : Port), s.start.gated (p / 16) = false →
      s.start.isZitch p = true →
      (s.start.wr (TILE_ZL_CTRL_LP_REQ p) 0).zState p = zLp →
      exec (.lpReqWrite p false) s = .next (s.done ((s.start.wr (TILE_ZL_CTRL_LP_REQ p) 0).send (.zitch p (.set .zaln))))) ∧
  (∀ (s : State) (p : Port), s.start.isZitch p = true →
      s.start.zState p = zDetect →
      exec (.zts1Burst p) s = .next (s.done (s.start.send (.zitch p (.set .zts1))))) ∧
  (∀ (s : State) (p : Port), s.start.isZitch p = true →
      s.start.zState p = zDetect →
      s.start.mayTrain p = true →
      exec (.signalDetected p) s = .next (s.done ((((s.start.zFresh p).updZ p fun z => { z with full := true, failed := 0 }).wr (TILE_ZL_STATUS_RATE p) 0).zGo p zPoll))) ∧
  (∀ (s : State) (p : Port) (z : ZSet), s.start.isZitch p = true →
      s.start.zState p = zPoll ∨ s.start.zState p = zRetrain →
      s.start.zHalf p z.lanes = true →
      (s.start.z p).rx < 7 →
      exec (.zts1 p z) s = .next (s.done (s.start.updZ p fun x => { x with rx := (s.start.z p).rx + 1 }))) ∧
  (∀ (s : State) (p : Port) (z : ZSet), s.start.isZitch p = true →
      s.start.zState p = zPoll ∨ s.start.zState p = zRetrain →
      s.start.zHalf p z.lanes = true →
      (s.start.z p).rx = 7 →
      exec (.zts1 p z) s = .next (s.done (s.start.zToConfig p))) ∧
  (∀ (s : State) (p : Port) (z : ZSet), s.start.isZitch p = true →
      s.start.zState p = zPoll →
      s.start.zHalf p z.lanes = false →
      exec (.zts2 p z) s = .next (s.done (s.start.updZ p fun x => { x with rx := 0 }))) ∧
  (∀ (s : State) (p : Port) (z : ZSet) (u : Mach), s.start.isZitch p = true →
      s.start.zState p = zConfig →
      (s.start.zNonces p z).rd (TILE_ZL_PNONCE_NONCE p) ≠ (s.start.zNonces p z).rd (TILE_ZL_NONCE_NONCE p) →
      (u = (s.start.zNonces p z).updZ p fun x => { x with partner := z, rx2 := x.rx2 + 1, tx2 := if x.numbered ≥ 8 then x.tx2 + 1 else x.tx2 }) →
      8 ≤ (u.z p).rx2 →
      16 ≤ (u.z p).tx2 →
      exec (.zts2 p z) s = .next (s.done (u.zConfigured p))) ∧
  (∀ (s : State) (p : Port) (z : ZSet), s.start.isZitch p = true →
      s.start.zState p = zEq →
      z.eqDone = true →
      s.start.zAdapted p = true →
      exec (.zeq p z) s = .next (s.done ((s.start.wr (TILE_ZL_STATUS_RATE p) (s.start.z p).eqRate).zToConfig p))) ∧
  (∀ (s : State) (p : Port), s.start.isZitch p = true →
      s.start.zState p = zActive →
      (s.start.z p).doing = none →
      exec (.zsds p) s = .next (s.done (s.start.updZ p fun z => { z with rxOn := true }))) ∧
  (∀ (s : State) (p : Port), s.start.isZitch p = true →
      s.start.zState p = zLp →
      8 ≤ (s.start.z p).aligned →
      exec (.zsds p) s = .next (s.done (((s.start.updZ p fun z => { z with rxOn := true, aligned := 0 }).zGo p zActive).zOpDone p))) ∧
  (∀ (s : State) (p : Port) (o : ZOp), s.start.isZitch p = true →
      s.start.zState p = zActive →
      (s.start.z p).doing = some o →
      o.kind = 2 →
      exec (.zwc p) s = .next (s.done (((s.start.updZ p fun z => { z with rxOn := false, aligned := 0 }).send (.zitch p (.set .zwc))).send (.zitch p (.set .zaln))))) ∧
  (∀ (s : State) (p : Port), s.start.isZitch p = true →
      s.start.zState p = zLp →
      (s.start.z p).aligned = 7 →
      exec (.zaln p) s = .next (s.done ((s.start.updZ p fun z => { z with aligned := 8 }).send (.zitch p (.set .zsds))))) ∧
  (∀ (s : State) (p : Port), s.start.isZitch p = true →
      s.start.zState p = zLp →
      (s.start.z p).aligned = 0 →
      exec (.zaln p) s = .next (s.done ((s.start.updZ p fun z => { z with aligned := 1 }).send (.zitch p (.set .zaln))))) ∧
  (∀ (s : State) (p : Port) (o : ZOp), s.start.isZitch p = true →
      s.start.zState p = zActive →
      (s.start.z p).doing = some o →
      o.kind = 3 →
      exec (.zeos p) s = .next (s.done ((s.start.updZ p fun z => { z with drain := some .lp }).wr (TILE_ZL_STATUS_OP_ACTIVE p) 1))) ∧
  (∀ (s : State) (p : Port), s.start.isZitch p = true →
      s.start.zState p = zPoll →
      exec (.pollTimeout p) s = .next (s.done (s.start.zDown p))) ∧
  (∀ (s : State) (p : Port), s.start.isZitch p = true →
      s.start.zState p = zConfig →
      exec (.configTimeout p) s = .next (s.done (s.start.zDown p))) ∧
  (∀ (s : State) (p : Port), s.start.isZitch p = true →
      s.start.zState p = zEq →
      exec (.rateFail p) s = .next (s.done (((s.start.updZ p fun z => { z with badRates := z.badRates ||| (1 <<< z.eqRate) }).zToConfig p).raise (TILE_ZL_EVENT_RATE_FAIL p)))) ∧
  (∀ (s : State) (p : Port), s.start.isZitch p = true →
      s.start.zState p = zRetrain →
      exec (.retrainTimeout p) s = .next (s.done (s.start.zDown p)))

/-- The Zitch flit, audit, link-operation and die-to-die commands complete. On an active Zitch link flits are accepted, replayed and NAKed, audits sent
and applied, link operations requested, acknowledged, drained and reissued; die-to-die parity errors, control units, retirements and failures have the
effect given for them. Rules: R144, R145, R146, R151, R152, R154, R156, R157, R158, R161, R163, R164. -/
def Obligations.ZitchFlitAndOperationCommandsComplete : Prop :=
  (∀ (s : State) (p : Port) (q a : Nat), s.start.isZitch p = true →
      s.start.zState p = zActive →
      (s.start.z p).rxOn = true →
      exec (.flitReceive p { typ := 0, seq := q, ack := a }) s = .next (s.done (((s.start.updZ p fun z => { z with fails := 0 }).zAck p a).zPump p))) ∧
  (∀ (s : State) (p : Port) (q a : Nat), s.start.isZitch p = true →
      s.start.zState p = zActive →
      (s.start.z p).rxOn = true →
      (q % 4096 = (((s.start.updZ p fun z => { z with fails := 0 }).zAck p a).z p).next) →
      exec (.flitReceive p { typ := 3, seq := q, ack := a }) s = .next (s.done ((((s.start.updZ p fun z => { z with fails := 0 }).zAck p a).updZ p fun z => { z with next := (z.next + 1) % 4096, discarding := false }).zPump p))) ∧
  (∀ (s : State) (p : Port) (q a : Nat) (l : List ZMsgHdr), s.start.isZitch p = true →
      s.start.zState p = zActive →
      (s.start.z p).rxOn = true →
      (q % 4096 = (((s.start.updZ p fun z => { z with fails := 0 }).zAck p a).z p).next) →
      l.all (·.ok) = true →
      exec (.flitReceive p { typ := 1, seq := q, ack := a, msgs := l }) s = .next (s.done (((((s.start.updZ p fun z => { z with fails := 0 }).zAck p a).updZ p fun z => { z with next := (z.next + 1) % 4096, discarding := false }).zDeliver p l).zPump p))) ∧
  (∀ (s : State) (p : Port), s.start.isZitch p = true →
      s.start.zState p = zActive →
      (s.start.z p).rxOn = true →
      ((((s.start.raise (TILE_ZL_EVENT_FLIT_FAIL p)).updZ p fun z => { z with fails := z.fails + 1 }).z p).discarding = true) →
      ((((s.start.raise (TILE_ZL_EVENT_FLIT_FAIL p)).updZ p fun z => { z with fails := z.fails + 1 }).z p).fails ≠ 65) →
      exec (.flitFail p) s = .next (s.done ((s.start.raise (TILE_ZL_EVENT_FLIT_FAIL p)).updZ p fun z => { z with fails := z.fails + 1 }))) ∧
  (∀ (s : State) (p : Port) (u : Mach), s.start.isZitch p = true →
      s.start.zState p = zActive →
      (s.start.z p).rxOn = true →
      (u = (s.start.raise (TILE_ZL_EVENT_FLIT_FAIL p)).updZ p fun z => { z with fails := z.fails + 1 }) →
      (u.z p).discarding = false →
      ((u.zNakOut p).z p).fails ≠ 65 →
      exec (.flitFail p) s = .next (s.done (u.zNakOut p))) ∧
  (∀ (s : State) (p : Port), s.start.isZitch p = true →
      s.start.zState p = zActive →
      (s.start.z p).discarding = true →
      exec (.nakTimerExpiry p) s = .next (s.done (s.start.zNakOut p))) ∧
  (∀ (s : State) (p : Port) (a : Fin 4096), s.start.isZitch p = true →
      s.start.zState p = zActive →
      exec (.nak p a) s = .next (s.done (((s.start.zAck p a).zReplay p).zPump p))) ∧
  (∀ (s : State) (p : Port) (q t : Nat) (l : List (Nat × Nat)), s.start.isZitch p = true →
      s.start.zState p = zActive →
      (s.start.z p).buf = (q, t) :: l →
      (s.start.z p).replayAt ≠ some q →
      exec (.replayTimerExpiry p) s = .next (s.done (((s.start.updZ p fun z => { z with replayAt := some q, replays := 1 }).send (.zitch p (.replay (q :: l.map (·.1))))).count (CNT_TILE (p / 16) (6 * (p % 16) + 4)) 1))) ∧
  (∀ (s : State) (p : Port), s.start.isZitch p = true →
      s.start.zState p = zActive →
      exec (.auditSend p) s = .next (s.done (((s.start.updZ p fun z => { z with audits := ((s.start.z p).audits + 1) % 2 ^ 32 }).zPut p 3).send (.zitch p (.audit ((s.start.z p).audits + 1) (s.start.zAuditRec p)))))) ∧
  (∀ (s : State) (p : Port), s.start.isZitch p = true →
      s.start.zState p = zActive →
      (s.start.z p).initSeen = true →
      exec (.audit p []) s = .next (s.done (s.start.zPump p))) ∧
  (∀ (s : State) (p : Port), s.start.isZitch p = true →
      (s.start.z p).scheduled = true →
      exec (.quietPoint p) s = .next (s.done ((s.start.updZ p fun z => { z with scheduled := false }).zRequest p { kind := 1, cause := .audit }))) ∧
  (∀ (s : State) (p : Port) (kind mask : Nat), s.start.isZitch p = true →
      s.start.zState p = zActive →
      (s.start.z p).op = none →
      exec (.linkReq p kind mask) s = .next (s.done (((s.start.zPut p 4).send (.zitch p (.ctrl 2 kind mask))).zPerform p { kind := kind, mask := mask } false))) ∧
  (∀ (s : State) (p : Port) (kind mask : Nat) (o : ZOp), s.start.isZitch p = true →
      s.start.zState p = zActive →
      (s.start.z p).op = some o →
      s.start.flag (TILE_ZL_STATUS_LEADER p) = false →
      exec (.linkReq p kind mask) s = .next (s.done (((((s.start.updZ p fun z => { z with abandoned := some o, op := none }).raise (TILE_ZL_EVENT_REQ_ABANDONED p)).zPut p 4).send
      (.zitch p (.ctrl 2 kind mask))).zPerform p { kind := kind, mask := mask } false))) ∧
  (∀ (s : State) (p : Port) (o : ZOp), s.start.isZitch p = true →
      s.start.zState p = zActive →
      (s.start.z p).op = some o →
      exec (.linkAck p) s = .next (s.done (s.start.zPerform p o true))) ∧
  (∀ (s : State) (p : Port) (o : ZOp), s.start.isZitch p = true →
      s.start.zState p = zActive →
      (s.start.z p).op = some o →
      exec (.reqTimeout p) s = .next (s.done ((s.start.raise (TILE_ZL_EVENT_REQ_TIMEOUT p)).zRecover p))) ∧
  (∀ (s : State) (p : Port), s.start.isZitch p = true →
      s.start.zState p = zActive →
      (s.start.z p).buf = [] →
      (s.start.z p).drain = some .retrain →
      exec (.retrainDrainDone p) s = .next (s.done (((s.start.zFresh p).updZ p fun z => { z with full := true, rxOn := false }).zGo p zRetrain))) ∧
  (∀ (s : State) (p : Port), s.start.isZitch p = true →
      s.start.zState p = zActive →
      (s.start.z p).buf = [] →
      (s.start.z p).drain = some .lp →
      exec (.retrainDrainDone p) s = .next (s.done ((((s.start.send (.zitch p (.set .zeos))).updZ p fun z => { z with drain := none, rxOn := false, aligned := 0 }).zGo p zLp).zOpDone p))) ∧
  (∀ (s : State) (p : Port), s.start.isZitch p = true →
      s.start.zState p = zActive →
      (s.start.z p).buf = [] →
      (s.start.z p).drain = some .disable →
      exec (.retrainDrainDone p) s = .next (s.done (s.start.zLeave p zDisabled))) ∧
  (∀ (s : State) (p : Port), s.start.isZitch p = true →
      s.start.zState p = zActive →
      (s.start.z p).drain = some .retrain →
      exec (.retrainDrainTimeout p) s = .next (s.done (s.start.zDown p))) ∧
  (∀ (s : State) (p : Port) (o : ZOp), s.start.isZitch p = true →
      s.start.zState p = zActive →
      (s.start.z p).doing = none →
      (s.start.z p).op = none →
      (s.start.z p).abandoned = some o →
      o.cause = .audit →
      exec (.abandonedReqReissue p) s = .next (s.done ((s.start.updZ p fun z => { z with abandoned := none }).zRequest p o))) ∧
  (∀ (s : State) (p : Port) (lane : Fin 16) (u : Mach), s.start.isZitch p = true →
      s.start.zState p = zActive →
      bit (s.start.z p).failed lane = false →
      (u = ((s.start.updZ p fun z => { z with failed := withBit z.failed lane true }).raise (TILE_ZL_EVENT_DEGRADED p)).error
      { cls := .corrected, block := 2, code := 2, port := some p.val, loc := p / 16 + lane.val * 64 }) →
      u.flag (TILE_ZL_CTRL_DEGRADE_EN p) = false →
      exec (.laneDegrade p lane) s = .next (s.done (u))) ∧
  (∀ (s : State) (t : Tile) (k : Fin 4) (lane : Fin 34), s.start.flag (TILE_D2D_STATUS_OUT t k) = false →
      exec (.d2dParityError t k lane) s = .next (s.done ((((s.start.updD t k fun d => { d with errs := SMap.set 0 d.errs lane (SMap.get 0 d.errs lane + 1), discarding := true }).addSat (TILE_D2D_STATUS_REPLAYS t k) 1).count
      (CNT_TILE t 109) 1).send (.d2d t k false)))) ∧
  (∀ (s : State) (t : Tile) (k : Fin 4) (ack : Nat) (nk : Bool) (u : Mach), (u = s.start.updD t k fun d => { d with unacked := min 32 (((s.start.dd t k).txUnit + 256 - (ack + 1) % 256) % 256), discarding := false }) →
      exec (.d2dControlUnit t k ack nk) s = .next (s.done (if nk then u.send (.d2d t k true) else u))) ∧
  (∀ (s : State) (t : Tile) (k : Fin 4) (lane : Fin 34) (u v : Mach) (n : Nat), max 1 (s.start.rd (TILE_D2D_CFG_ERR_THRESH t)) ≤ SMap.get 0 (s.start.dd t k).errs lane →
      lane.val ∉ (s.start.dd t k).retired →
      s.start.flag (TILE_D2D_STATUS_OUT t k) = false →
      (u = s.start.updD t k fun d => { d with retired := d.retired ++ [lane.val], errs := SMap.del d.errs lane }) →
      v = (((u.wr (TILE_D2D_STATUS_RETIRED t k) (min 15 ((s.start.dd t k).retired.length + 1))).wr (TILE_D2D_STATUS_LAST_LANE t k) lane).count
      (CNT_TILE t 110) 1).error { cls := .corrected, block := 3, code := 1, loc := t.val + lane.val * 64 } →
      v.rd (TILE_D2D_STATUS_SPARES_LEFT t k) = n + 1 →
      exec (.d2dLaneRetire t k lane) s = .next (s.done (((v.wr (TILE_D2D_STATUS_SPARES_LEFT t k) n).raise (TILE_D2D_EVENT_RETIRE t)).updD t k fun d => { d with switching := true }))) ∧
  (∀ (s : State) (t : Tile) (k : Fin 4), exec (.d2dSpareSwitch t k) s = .next (s.done (s.start.updD t k fun d => { d with switching := false }))) ∧
  (∀ (s : State) (t : Tile) (k : Fin 4), exec (.d2dClockLaneFail t k) s = .next (s.done (s.start.d2dOut t k)))

/-- The port commands complete. Writes of the port map and of port control, link-up, link loss, flushes, containment and its ends, credits and VF Enable
have their own effect on every port that meets the conditions stated. Rules: R168, R169, R172, R176, R184, R192, R200, R220, R225, R611, R636. -/
def Obligations.PortCommandsComplete : Prop :=
  (∀ (s : State) (t : Tile) (map : Word), s.start.gated t = false →
      mapValid map.toNat = true →
      ((s.start.tilePorts t).all (fun p => s.start.flag (TILE_PORT_CTRL_LINK_DIS p)) = true) →
      exec (.tilePortmapWrite t map) s = .next (s.done (((List.range 16).filter fun o => (s.start.rd (TILE_PORTMAP_MAP t) >>> (4 * o)) % 16 != (map.toNat >>> (4 * o)) % 16).foldl
      (fun m o => m.freshPort (t * 16 + o)) (s.start.wr (TILE_PORTMAP_MAP t) map.toNat)))) ∧
  (∀ (s : State) (p : Port) (v : BitVec 32), s.start.gated (p / 16) = false →
      s.start.portExists p = true →
      v.toNat / 2 % 4 = s.start.role p →
      bit v.toNat 3 = s.start.flag (TILE_PORT_CTRL_PROTO p) →
      s.start.role p = 0 ∨ s.start.role p = 1 →
      s.start.flag (TILE_PORT_CTRL_PROTO p) = false →
      v.toNat / 2 ^ 16 % 4096 = s.start.rd (TILE_PORT_CTRL_PBR_ID p) →
      bit v.toNat 6 = false →
      exec (.tilePortCtrlWrite p v) s = .next (s.done ((s.start.setReg (TILE_PORT_CTRL p) (BitVec.ofNat 64 (v.toNat % 2 ^ 7 + s.start.rd (TILE_PORT_CTRL_PBR_ID p) * 2 ^ 16))).linkDisMoved p (s.start.linkDis p)))) ∧
  (∀ (s : State) (p : Port) (v : BitVec 32), s.start.gated (p / 16) = false →
      s.start.portExists p = true →
      v.toNat / 2 % 4 = 2 →
      s.start.flag (TILE_PORT_CTRL_LINK_DIS p) = true →
      bit v.toNat 6 = false →
      exec (.tilePortCtrlWrite p v) s = .next (s.done ((s.start.setReg (TILE_PORT_CTRL p) (BitVec.ofNat 64 (v.toNat % 2 ^ 7 + v.toNat / 2 ^ 16 % 4096 * 2 ^ 16))).linkDisMoved p (s.start.linkDis p)))) ∧
  (∀ (s : State) (p : Port) (x : LinkOffer), s.start.mayTrain p = true →
      s.start.isZitch p = false →
      s.start.linkUp p = false →
      s.start.slotGood p = true →
      s.start.perstFree p = true →
      Completes (.cxlLinkUp p x) s fun t => t.latch = s.latch ∧ t.pending = s.pending) ∧
  (∀ (s : State) (p : Port), s.start.isZitch p = false →
      s.start.linkUp p = true →
      exec (.portDown p) s = .next (s.done (((((s.start.updSlotVp p fun v => { v with dllChanged := true }).portDown p).error { cls := .portFatal, block := 2, code := 1, port := some p.val }).portLog p 2 1)))) ∧
  (∀ (s : State) (p : Port), s.start.isZitch p = true →
      s.start.linkUp p = true →
      exec (.portDown p) s = .next (s.done (s.start.zDown p))) ∧
  (∀ (s : State) (p : Port), (s.start.px p).flushing = true →
      exec (.flushDone p) s = .next (s.done ((s.start.updPx p fun x => { x with flushing := false }).raise (TILE_CORE_EVENT_FLUSH_DONE (p / 16))))) ∧
  (∀ (s : State) (p : Port) (why : Fin 7), s.start.portExists p = true →
      exec (.portContained p why) s = .next (s.done (s.start.contain p (containCode why).1 (containCode why).2))) ∧
  (∀ (s : State) (p : Port) (b : Bind), s.start.bound p = some b →
      (s.start.vp b.up b.vppb).dpcTrig = true →
      exec (.dpcRelease p) s = .next (s.done (((s.start.updVp b.up b.vppb fun v => { v with dpcTrig := false }).wr (TILE_PORT_STATUS_DPC p) 0).updPx p fun x => { x with held := false }))) ∧
  (∀ (s : State) (p : Port) (b : Bind), s.start.bound p = some b →
      s.start.portPooled p = false →
      exec (.secondaryBusReset p) s = .next (s.done ((s.start.wr (TILE_PORT_CTRL_LINK_DIS p) 0).linkDisMoved p (s.start.linkDis p)))) ∧
  (∀ (s : State) (p : Port), s.start.isDown p = true →
      exec (.unexpectedCompletion p) s = .next (s.done (s.start.contain p 2 5))) ∧
  (∀ (s : State) (p : Port) (v : VC) (n : Nat), s.start.linkUp p = true →
      s.start.isZitch p = false →
      exec (.linkCreditReturn p v n) s = .next (s.done ((s.start.setCredits p v (s.start.credits p v + n)).serve p))) ∧
  (∀ (s : State) (p : Port) (n : Nat), s.start.isUp p = true →
      exec (.vfEnable p n) s = .next (s.done (s.start.updPx p fun x => { x with numVfs := n, vfsOn := min n (s.start.vfRange p).2 }))) ∧
  (∀ (s : State) (p : Port), s.start.tfLast = true →
      s.start.linkUp p = true →
      s.start.flag (TF_QUIRK_E7 (p / 256)) = true →
      (s.start.px p).e7Up = false →
      exec (.e7LinkUpLag p) s = .next (s.done ((s.start.updPx p fun x => { x with e7Up := true }).send (.tfLinkUp p))))

/-- The FM API commands complete. From a source whose commands are carried out, each FM API command answers its response message and has its effect: event
records cleared, the response limit set, ports reset, requests sent to a device, bindings made and ended as background operations. The response
payloads beyond what the manual gives are the model's (assumption log 16). Rules: R173, R177, R178, R180, R181, R187, R188, R189, R190, R200. -/
def Obligations.FmApiCommandsComplete : Prop :=
  (∀ (s : State) (src : FmSrc), s.start.fmFrom src = true →
      exec (.identify src) s = .next (s.done (s.start.send (.fm src 0x0001 .success [0x0A14, 0x10, s.start.boot.policy.subsysVendor, s.start.boot.policy.subsysId])))) ∧
  (∀ (s : State) (src : FmSrc), s.start.fmFrom src = true →
      exec (.backgroundOperationStatus src) s = .next (s.done (s.start.send (.fm src 0x0002 .success [if s.start.fm.bg.isSome then 1 else 0, s.start.fm.lastOp, s.start.fm.lastCode.num])))) ∧
  (∀ (s : State) (src : FmSrc), s.start.fmFrom src = true →
      exec (.getResponseMessageLimit src) s = .next (s.done (s.start.send (.fm src 0x0003 .success [s.start.fm.limit])))) ∧
  (∀ (s : State) (src : FmSrc) (n : Nat), s.start.fmFrom src = true →
      256 ≤ n →
      n ≤ 8192 →
      exec (.setResponseMessageLimit src n) s = .next (s.done ({ s.start with fm := { s.start.fm with limit := n } }.send (.fm src 0x0004 .success [n])))) ∧
  (∀ (s : State) (src : FmSrc), s.start.fmFrom src = true →
      exec (.getEventRecords src) s = .next (s.done (s.start.send (.fm src 0x0100 .success (s.start.fm.events.flatMap fun (b, c, p) => [b, c, p]))))) ∧
  (∀ (s : State) (src : FmSrc), s.start.fmFrom src = true →
      exec (.clearEventRecords src) s = .next (s.done ({ s.start with fm := { s.start.fm with events := [] } }.send (.fm src 0x0101 .success [])))) ∧
  (∀ (s : State) (src : FmSrc), s.start.fmFrom src = true →
      exec (.identifySwitchDevice src) s = .next (s.done (s.start.send (.fm src 0x5100 .success [s.start.allPorts.length, s.start.upstreamPorts.length])))) ∧
  (∀ (s : State) (src : FmSrc) (p : Port), s.start.fmFrom src = true →
      s.start.portExists p = true →
      exec (.getPhysicalPortState src p) s = .next (s.done (s.start.send (.fm src 0x5101 .success [s.start.role p, (s.start.reg (TILE_PORT_STATUS p)).toNat, (s.start.px p).present.toNat, (s.start.px p).lds])))) ∧
  (∀ (s : State) (src : FmSrc) (p : Port) (op : Fin 3), s.start.fmFrom src = true →
      s.start.portExists p = true →
      op = 2 ∨ s.start.isDown p = true →
      exec (.physicalPortControl src p op) s = .next (s.done ((s.start.physPort p op).send (.fm src 0x5102 .success [])))) ∧
  (∀ (s : State) (src : FmSrc) (p : Port) (pl : List Byte), s.start.fmFrom src = true →
      s.start.isDown p = true →
      s.start.linkUp p = true →
      exec (.sendPpbCxlIoConfigRequest src p pl) s = .next (s.done ((s.start.send (.fmDevice 0x5103 p none pl)).send (.fm src 0x5103 .success [])))) ∧
  (∀ (s : State) (src : FmSrc) (p : Port) (pl : List Byte), s.start.fmFrom src = true →
      s.start.isDown p = true →
      s.start.linkUp p = true →
      exec (.tunnelManagementCommand src p none pl) s = .next (s.done ((s.start.send (.fmDevice 0x5300 p none pl)).send (.fm src 0x5300 .success [])))) ∧
  (∀ (s : State) (src : FmSrc) (p : Port) (ld : Fin 16) (pl : List Byte), s.start.fmFrom src = true →
      s.start.isDown p = true →
      s.start.linkUp p = true →
      s.start.flag (TILE_PORT_STATUS_MLD p) = true →
      ld.val < (s.start.px p).lds →
      exec (.sendLdCxlIoConfigRequest src p ld pl) s = .next (s.done ((s.start.send (.fmDevice 0x5301 p (some ld.val) pl)).send (.fm src 0x5301 .success [])))) ∧
  (∀ (s : State) (src : FmSrc) (p : Port) (ld : Fin 16) (pl : List Byte), s.start.fmFrom src = true →
      s.start.isDown p = true →
      s.start.linkUp p = true →
      s.start.flag (TILE_PORT_STATUS_MLD p) = true →
      ld.val < (s.start.px p).lds →
      exec (.sendLdCxlIoMemoryRequest src p ld pl) s = .next (s.done ((s.start.send (.fmDevice 0x5302 p (some ld.val) pl)).send (.fm src 0x5302 .success [])))) ∧
  (∀ (s : State) (src : FmSrc) (op : BitVec 16), exec (.fmApiUnsupported src op) s = .next (s.done (s.start.send (.fm src op.toNat .unsupported [])))) ∧
  (∀ (s : State) (src : FmSrc) (vcs : Fin 256) (up : Nat), s.start.fmFrom src = true →
      s.start.vcsPort vcs = some up →
      exec (.getVirtualCxlSwitchInfo src vcs) s = .next (s.done (s.start.send (.fm src 0x5200 .success (up :: (List.range 64).map fun v => match s.start.boundTo up v with | some (p, l) => p * 16 + l + 1 | none => 0))))) ∧
  (∀ (s : State) (src : FmSrc) (vcs vppb : Fin 256) (p : Port) (up : Nat), s.start.fmFrom src = true →
      s.start.fm.bg = none →
      s.start.vcsPort vcs = some up →
      vppb.val < 64 →
      s.start.boundTo up vppb = none →
      s.start.pooled p 0 false = true →
      s.start.named p 0 = false →
      s.start.flag (TILE_PORT_STATUS_CXL_CACHE p) = false →
      exec (.bindVppb src vcs vppb p none) s = .next (s.done ({ s.start with fm := { s.start.fm with bg := some (.bind p none up vppb), lastOp := 0x5201 } }.send (.fm src 0x5201 .background [])))) ∧
  (∀ (s : State) (src : FmSrc) (vcs vppb : Fin 256) (up : Nat) (pl : Nat × Nat), s.start.fmFrom src = true →
      s.start.fm.bg = none →
      s.start.vcsPort vcs = some up →
      s.start.boundTo up vppb = some pl →
      exec (.unbindVppb src vcs vppb .surpriseRemove) s = .next (s.done ({ s.start with fm := { s.start.fm with bg := some (.unbind up vppb .surpriseRemove), removing := false, lastOp := 0x5202 } }.send (.fm src 0x5202 .background [])))) ∧
  (∀ (s : State) (p : Nat) (ld : Option Nat) (up vppb : Nat), s.start.fm.bg = some (.bind p ld up vppb) →
      exec (.backgroundOperationDone) s = .next (s.done (({ s.start with binds := SMap.ins s.start.binds (p * 16 + ld.getD 0) { up := up, vppb := vppb } }.updVp up vppb fun v =>
      { v with presenceChanged := true, dllChanged := s.start.linkUp p || v.dllChanged }).bgEnd .success))) ∧
  (∀ (s : State) (up vppb : Nat), s.start.fm.bg = some (.unbind up vppb .surpriseRemove) →
      exec (.backgroundOperationDone) s = .next (s.done ((s.start.unbind up vppb).bgEnd .success))) ∧
  (∀ (s : State) (up vppb : Nat), s.start.fm.bg = some (.unbind up vppb .managedRemove) →
      s.start.fm.removing = true →
      exec (.managedHotRemoveTimeout) s = .next (s.done ((s.start.unbind up vppb).bgEnd .success))) ∧
  (∀ (s : State) (src : FmSrc) (vcs vppb : Fin 256) (err up : Nat), s.start.fmFrom src = true →
      s.start.vcsPort vcs = some up →
      vppb.val < 65 →
      exec (.generateAerEvent src vcs vppb err) s = .next (s.done ((s.start.updVp up vppb fun v => { v with aer := v.aer ++ [err] }).send (.fm src 0x5203 .success []))))

/-- The IDE and hot-plug commands complete. Key agreement makes a port's streams secure or is refused, a failed stream contains the port, and each step of
a slot's power sequence acts on the port that owns the channel. Rules: R191, R192, R193, R194, R195, R197, R548. -/
def Obligations.IdeAndHotPlugCommandsComplete : Prop :=
  (∀ (s : State) (p : Port), s.start.portExists p = true →
      s.start.linkUp p = true →
      s.start.securePorts < 256 →
      exec (.kSetGo p false) s = .next (s.done (((s.start.updPx p fun x => { x with secure := true }).wr (TILE_PORT_STATUS_IDE p) 1).send (.ide p true)))) ∧
  (∀ (s : State) (p : Port), (s.start.px p).secure = true →
      exec (.ideFail p) s = .next (s.done ((((s.start.updPx p fun x => { x with secure := false }).wr (TILE_PORT_STATUS_IDE p) 0).raise (TILE_PORT_EVENT_IDE_FAIL p)).contain p 2 3))) ∧
  (∀ (s : State) (p : Port) (c : Nat) (u : Mach), s.start.slotOf p = some c →
      (u = (s.start.updPx p fun x => { x with powerReq := true, offPending := false, pvperl := s.start.flag (SPC_STATUS_PG c) }).updSlotVp p fun v => { v with powerOff := false }) →
      exec (.slotPowerOn p) s = .next (s.done ((if u.spcSt c = 0 then u.spcOn c else u).indicators p))) ∧
  (∀ (s : State) (p : Port), (s.start.px p).pvperl = true →
      s.start.slotGood p = true →
      exec (.perstRelease p) s = .next (s.done ((s.start.updPx p fun x => { x with pvperl := false }).perstHigh p))) ∧
  (∀ (s : State) (p : Port) (c : Nat), s.start.slotOf p = some c →
      exec (.slotPowerOff p) s = .next (s.done (((((s.start.perstLow p).updPx p fun x => { x with powerReq := false, offPending := true }).updSlotVp p fun v => { v with powerOff := true })).indicators p))) ∧
  (∀ (s : State) (p : Port) (c : Nat) (u : Mach), (s.start.px p).offPending = true →
      (u = s.start.updPx p fun x => { x with offPending := false }) →
      u.slotOf p = some c →
      exec (.slotChannelOff p) s = .next (s.done (if (u.owners c).any (fun q => (u.px q).powerReq) then u else u.spcOff c))) ∧
  (∀ (s : State) (p : Port) (b : Bool), s.start.isDown p = true →
      exec (.presenceChange p b) s = .next (s.done (s.start.presence p b))) ∧
  (∀ (s : State) (bits : BitVec 128), exec (.expanderPoll bits) s = .next (s.done ((List.range 1024).foldl (fun m p =>
      if (m.slotOf p).isSome && m.flag (TILE_PORT_SLOT_PRES_SRC p) then m.presence p (bit bits.toNat (m.rd (TILE_PORT_SLOT_PRES_BIT p)))
      else m) { s.start with expIn := bits.toNat })))

/-- The request-path and cell commands complete. A request on a port of a default program takes its ingress slots, is counted and routed; a waiting
request takes a tracker entry; fence queues, cells, NAKs, acknowledgements, responses and planes have the effect given for them. Rules: R25, R208,
R209, R214, R215, R216, R222, R223, R228, R456, R465. -/
def Obligations.RequestPathCommandsComplete : Prop :=
  (∀ (s : State) (r : Req) (p : Port) (n : Nat), r.src = .port p →
      s.start.takesFrom r = true →
      s.start.isZitch p = false →
      r.vc ≠ 2 →
      s.start.tfLast = false →
      s.start.rpSel p = 0 →
      SMap.get [] s.start.pipes p = [] →
      n = SMap.get 0 s.start.vc2Rx p →
      exec (.requestReceive r) s = .next (s.done (((((s.start.ibTake p (r.vc % 8) r.slots).count (CNT_TILE (p / 16) (6 * (p.val % 16))) 1).count (CNT_TILE (p / 16) (6 * (p.val % 16) + 2)) r.slots).count
      (CNT_TILE (p / 16) 106) 1).routeDefault { r with zitch := false, stamp := n } (s.start.reqDom r)))) ∧
  (∀ (s : State) (t : Tile) (q key : Nat) (w : Waiting) (rest : List Waiting), s.start.nextClass t = some q →
      s.start.freeEntry t = some key →
      s.start.waitQ t q = w :: rest →
      s.start.inUse t q < s.start.qMin t q →
      exec (.trackerEntryGrant t) s = .next (s.done ((s.start.setWaitQ t q rest).takeEntry t key w q))) ∧
  (∀ (s : State) (t : Tile) (q key : Nat) (w : Waiting) (rest : List Waiting), s.start.nextClass t = some q →
      s.start.freeEntry t = some key →
      s.start.waitQ t q = w :: rest →
      s.start.qMin t q ≤ s.start.inUse t q →
      exec (.trackerEntryGrant t) s = .next (s.done ({ s.start.setWaitQ t q rest with trkRr := SMap.set 0 s.start.trkRr t ((q + 1) % 16) }.takeEntry t key w q))) ∧
  (∀ (s : State) (src : Fin 1088) (dst : Tile) (v : VC) (k : Pkt) (key : Nat), src.val < 1024 →
      key = (src.val * 64 + dst) * 8 + v →
      SMap.get {} s.start.classes key = { tc := 1, untx := 0, fence := [k] } →
      exec (.classFenceRelease src dst v) s = .next (s.done ({ s.start with classes := SMap.set {} s.start.classes key { tc := k.tc, untx := 1, fence := [] } }.joinVoq (src / 16) k))) ∧
  (∀ (s : State) (dst src : Tile) (tc : Fin 8) (seq : Fin 65536) (plane : Plane), exec (.cellReceive dst src tc seq plane false) s = .next (s.done (s.start.cellError dst plane))) ∧
  (∀ (s : State) (dst src : Tile) (tc : Fin 8) (seq : Fin 65536) (plane : Plane) (c : Reseq) (x : Cell), c = SMap.get {} s.start.reseqs (reseqKey dst src tc) →
      (seq.val + 65536 - c.e) % 65536 ≤ 255 →
      ((s.start.voq (voqKey src dst tc)).retained.find? (fun x => x.seq == seq.val) = some x) →
      SMap.find c.stored seq.val = none →
      exec (.cellReceive dst src tc seq plane true) s = .next (s.done ({ s.start.count (CNT_TILE dst 101) 1 with reseqs := SMap.set {} s.start.reseqs (reseqKey dst src tc) { c with stored := SMap.ins c.stored seq.val x.last } }.releaseFrom (reseqKey dst src tc) 257))) ∧
  (∀ (s : State) (dst src : Tile) (tc : Fin 8) (e : Nat), e = (SMap.get ({} : Reseq) s.start.reseqs (reseqKey dst src tc)).e →
      ((s.start.voq (voqKey src dst tc)).retained.any (fun x => x.seq == e) = true) →
      exec (.reseqTimeout dst src tc) s = .next (s.done (((s.start.count (CNT_TILE dst 102) 1).raise (TILE_CORE_EVENT_RESEQ_NAK dst)).send (.reseqNak dst src tc e)))) ∧
  (∀ (s : State) (dst src : Tile) (tc : Fin 8) (e : Fin 65536) (l : List Cell), (l = (s.start.voq (voqKey src dst tc)).retained.map fun x =>
      if (x.seq + 65536 - e.val) % 65536 < 32768 then { x with plane := s.start.otherPlane x.plane } else x) →
      exec (.reseqNak dst src tc e) s = .next (s.done (((l.filter fun x => (x.seq + 65536 - e.val) % 65536 < 32768).foldl (fun (m : Mach) x => m.send (.cellAgain dst src tc x.seq x.plane))
      (s.start.setVoq (voqKey src dst tc) { s.start.voq (voqKey src dst tc) with retained := l })).count (CNT_TILE src 100)
      (l.filter fun x => (x.seq + 65536 - e.val) % 65536 < 32768).length))) ∧
  (∀ (s : State) (dst src : Tile) (tc : Fin 8) (v : Voq) (e : Nat) (acked : Cell → Bool), v = s.start.voq (voqKey src dst tc) →
      e = (SMap.get ({} : Reseq) s.start.reseqs (reseqKey dst src tc)).e →
      (acked = fun (x : Cell) => x.seq != e && (e + 65536 - x.seq) % 65536 ≤ 256) →
      exec (.reseqAck dst src tc) s = .next (s.done (((v.retained.filter acked).foldl (fun (m : Mach) x => m.ibFree x.srcPort x.srcVc x.slots)
      (s.start.setVoq (voqKey src dst tc) { v with retained := v.retained.filter fun x => !acked x })).voqPump (voqKey src dst tc)))) ∧
  (∀ (s : State) (p : Port) (tag : Fin 8192) (r : Rsp) (key : Nat) (e : Trk) (u : Mach), s.start.linkUp p = true →
      s.start.isZitch p = false →
      SMap.find s.start.tags (p / 16 * 8192 + tag) = some (key * 1024 + p) →
      SMap.find s.start.trk key = some e →
      e.specTag = none →
      e.late = false →
      u = { (s.start.count (CNT_TILE (p / 16) (6 * (p.val % 16))) 1).count (CNT_TILE (p / 16) (6 * (p.val % 16) + 2)) (r.slots e.devLen) with
      tags := SMap.del s.start.tags (p / 16 * 8192 + tag) } →
      exec (.responseReceive p tag r none) s = .next (s.done ((u.setEntry key { e with outs := e.outs.erase p }).takeRsp key p r))) ∧
  (∀ (s : State) (p : Port) (tag : Fin 8192) (r : Rsp), s.start.linkUp p = true →
      SMap.find s.start.tags (p / 16 * 8192 + tag) = none →
      s.start.isDown p = true →
      exec (.responseReceive p tag r none) s = .next (s.done (s.start.contain p 2 5))) ∧
  (∀ (s : State) (n : Plane) (unc : Bool) (u : Mach), bit (s.start.rd GLB_PLANE_STATUS_IN_SERVICE) n = true →
      unc = true ∨ bit (s.start.rd GLB_PLANE_CTRL_OUT) n = true →
      u = ((s.start.wr GLB_PLANE_STATUS_IN_SERVICE (withBit (s.start.rd GLB_PLANE_STATUS_IN_SERVICE) n false)).raise GLB_PLANE_EVENT_PLANE_OUT).error
      { cls := .corrected, block := 0, code := 2, loc := n } →
      u.planes.length = 3 →
      exec (.planeOut n unc) s = .next (s.done (u)))

/-- The writes of buffer allocations complete. A write of an ingress allocation, of an egress limit or of a tracker quota class that its rule admits takes
effect as the rule says. Rules: R205, R209, R218. -/
def Obligations.BufferRegisterCommandsComplete : Prop :=
  (∀ (s : State) (t : Tile) (v : BitVec 32), s.start.gated t = false →
      s.start.ibSum t - s.start.rd (TILE_IBUF_AGENT_SLOTS t) + v.toNat % 2 ^ 18 ≤ 131072 →
      exec (.tileIbufAllocWrite t none v) s = .next (s.done (s.start.wr (TILE_IBUF_AGENT_SLOTS t) (v.toNat % 2 ^ 18)))) ∧
  (∀ (s : State) (t : Tile) (o : Fin 16) (c : VC) (v : BitVec 32), s.start.gated t = false →
      s.start.portExists (t * 16 + o) = true →
      s.start.ibSum t - s.start.ibufAlloc (t * 16 + o) c + v.toNat % 2 ^ 18 ≤ 131072 →
      17 ≤ v.toNat % 2 ^ 18 →
      v.toNat % 2 ^ 18 ≠ s.start.ibufCur (t * 16 + o) c →
      exec (.tileIbufAllocWrite t (some (o, c)) v) s = .next (s.done ({ s.start with ibNew := SMap.ins s.start.ibNew ((t * 16 + o) * 8 + c) (v.toNat % 2 ^ 18) }))) ∧
  (∀ (s : State) (t : Tile) (o : Fin 16) (v : BitVec 32), s.start.gated t = false →
      s.start.portExists (t * 16 + o) = true →
      exec (.tileEbufWrite t o none v) s = .next (s.done (s.start.wr (TILE_EBUF_PORTMAX_MAX (t * 16 + o)) v.toNat))) ∧
  (∀ (s : State) (t : Tile) (o : Fin 16) (c : VC) (v : BitVec 32), s.start.gated t = false →
      s.start.portExists (t * 16 + o) = true →
      v.toNat % 2 ^ 13 ≤ v.toNat / 2 ^ 16 % 2 ^ 13 →
      (((s.start.tilePorts t).map fun q => ((List.range 8).map fun i => s.start.rd (TILE_EBUF_VC_MIN q i)).sum).sum -
      s.start.rd (TILE_EBUF_VC_MIN (t * 16 + o) c) + v.toNat % 2 ^ 13 ≤ 4096) →
      exec (.tileEbufWrite t o (some c) v) s = .next (s.done ((s.start.wr (TILE_EBUF_VC_MIN (t * 16 + o) c) (v.toNat % 2 ^ 13)).wr (TILE_EBUF_VC_MAX (t * 16 + o) c) (v.toNat / 2 ^ 16 % 2 ^ 13)))) ∧
  (∀ (s : State) (t : Tile) (q : Fin 16) (v : BitVec 32), s.start.gated t = false →
      v.toNat % 2 ^ 12 ≤ v.toNat / 2 ^ 16 % 2 ^ 12 →
      (((List.range 16).map fun i => s.start.qMin t i).sum - s.start.qMin t q + v.toNat % 2 ^ 12 ≤ 2048) →
      exec (.tileTrkQclassWrite t q v) s = .next (s.done ((s.start.wr (TILE_TRK_QCLASS_MIN t q) (v.toNat % 2 ^ 12)).wr (TILE_TRK_QCLASS_MAX t q) (v.toNat / 2 ^ 16 % 2 ^ 12))))

/-- The Privet request commands complete. A member's request whose line is ready starts the flow of its kind; a non-member's is carried out as a
non-caching access; lookups, write-backs, conflicts, snoop responses, MemSpecRd and unmatched messages have the effect given for them. Rules: R237,
R239, R243, R246, R248, R249, R251, R256, R271, R274, R277, R385. -/
def Obligations.PrivetRequestCommandsComplete : Prop :=
  (∀ (s : State) (key k g : Nat) (e : Trk), s.start.flowReady key = some k →
      s.start.entry key = some e →
      e.req.kind = .readShared →
      e.demoted = false →
      s.start.memberOf e.x.hedge e.req.src = some g →
      exec (.readShared key) s = .next (s.done (s.start.flowStart k key .readShared))) ∧
  (∀ (s : State) (key k g : Nat) (e : Trk), s.start.flowReady key = some k →
      s.start.entry key = some e →
      e.req.kind = .readOwn →
      e.demoted = false →
      s.start.memberOf e.x.hedge e.req.src = some g →
      exec (.readForOwnership key) s = .next (s.done (s.start.flowStart k key .readOwn))) ∧
  (∀ (s : State) (key k g : Nat) (e : Trk), s.start.flowReady key = some k →
      s.start.entry key = some e →
      e.req.kind = .upgrade →
      e.demoted = false →
      s.start.memberOf e.x.hedge e.req.src = some g →
      exec (.upgrade key) s = .next (s.done (s.start.flowStart k key .upgrade))) ∧
  (∀ (s : State) (key k g : Nat) (e : Trk), s.start.flowReady key = some k →
      s.start.entry key = some e →
      e.req.kind = .cleanEvict →
      e.demoted = false →
      s.start.memberOf e.x.hedge e.req.src = some g →
      exec (.cleanEvict key) s = .next (s.done (s.start.flowStart k key .cleanEvict))) ∧
  (∀ (s : State) (key k : Nat) (e : Trk), s.start.flowReady key = some k →
      s.start.entry key = some e →
      e.req.kind = .readShared →
      e.demoted = false →
      s.start.memberOf e.x.hedge e.req.src = none →
      exec (.readShared key) s = .next (s.done (((s.start.raise PVT_EVENT_NONMEMBER).count (CNT_PVT e.x.hedge 20) 1).flowStart k key .ncRead))) ∧
  (∀ (s : State) (key k : Nat) (e : Trk), s.start.flowReady key = some k →
      s.start.entry key = some e →
      e.req.kind = .ncRead ∨ e.req.kind = .ioRead →
      exec (.nonCachingRead key) s = .next (s.done (s.start.flowStart k key .ncRead))) ∧
  (∀ (s : State) (key k : Nat) (e : Trk) (full : Bool), s.start.flowReady key = some k →
      s.start.entry key = some e →
      e.req.kind = .ncWrite full →
      exec (.nonCachingWrite key) s = .next (s.done (s.start.flowStart k key (.ncWrite full)))) ∧
  (∀ (s : State) (key g : Nat) (e : Trk) (l : Line) (toS : Bool), s.start.flowReady key = some e.x.line →
      s.start.entry key = some e →
      s.start.line e.x.line = some l →
      e.req.kind = .writeBack toS →
      e.phase = .privet →
      e.demoted = false →
      s.start.memberOf e.x.hedge e.req.src = some g →
      l.started = false →
      exec (.writeBack key) s = .next (s.done ((s.start.count (CNT_PVT e.x.hedge 10) 1).wbFlow e.x.line key g toS))) ∧
  (∀ (s : State) (key : Nat) (e : Trk) (g : Nat) (l : Line) (n : Snoop), s.start.entry key = some e →
      e.req.kind = .biConflict →
      e.phase = .privet →
      s.start.wbBefore e.req.src e.req.stamp = false →
      s.start.memberOf e.x.hedge e.req.src = some g →
      (s.start.count (CNT_PVT e.x.hedge 8) 1).memberOf e.x.hedge e.req.src = some g →
      s.start.line e.x.line = some l →
      SMap.find l.snoops g = some n →
      exec (.biconflict key) s = .next (s.done (((s.start.count (CNT_PVT e.x.hedge 8) 1).answer key .biConflictAck .real (some (key / 2048))).release key))) ∧
  (∀ (s : State) (p : Port) (h : Hedge) (i : Fin 64) (a : Nat) (sh : Bool), exec (.birsp p h i a sh) s = .next (s.done ({ s.start with birsps := s.start.birsps ++ [({ hr := h, member := i, key := lineKey h a, s := sh, stamp := SMap.get 0 s.start.vc2Rx p } : BiRsp)] }.birspPump))) ∧
  (∀ (s : State) (key : Nat) (e : Trk), s.start.entry key = some e →
      e.req.kind = .memSpecRd →
      e.phase = .privet →
      exec (.memSpecRd key) s = .next (s.done (s.start.release key))) ∧
  (∀ (s : State) (key : Nat) (e : Trk) (p : Nat) (b : Bool), s.start.entry key = some e →
      e.req.kind = .otherM2S b →
      e.phase = .privet →
      e.req.src = .port p →
      exec (.protocol key) s = .next (s.done ((((s.start.raise PVT_EVENT_PROTOCOL).error { cls := .contained, block := 4, code := 7, port := some p, dom := some e.dom, addr := e.req.addr }).answer key
      (e.req.failRsp .ur) .lost (some (key / 2048))).release key))) ∧
  (∀ (s : State) (t : Tile) (key : Nat) (e : Trk) (u v : Mach), s.start.chooseLookup t = (some (key, e), u) →
      e.escalated = false →
      e.eligibleKind = false →
      v = ((u.count (CNT_TILE t 98) 1).count (CNT_DOM e.dom 3) 1).count (CNT_PVT e.x.hedge 0) 1 →
      exec (.privetLookupPresent t) s = .next (s.done (v.setEntry key { e with phase := .lookup, eligible := false, time0 := v.now, cnt0 := SMap.get 0 v.flowCnt (t1Set e.x.line) }))) ∧
  (∀ (s : State), exec (.privetLookupEnd []) s = .next (s.done (s.start))) ∧
  (∀ (s : State) (key : Nat) (c : Bool) (e f : Trk), s.start.entry key = some e →
      e.phase = .lookup →
      SMap.find s.start.recover (t1Set e.x.line) = none →
      (s.start.lookupCount key c).entry key = some f →
      exec (.privetLookupEnd [(key, c)]) s = .next (s.done ((s.start.lookupCount key c).arriveLine [key])))

/-- The Privet flow commands complete. A line's flow goes on with its write-back, its tenure's end, its memory data and its completed writes; the line's
next request begins, a busy-line entry is granted, entries are allocated, evicted and rebuilt, atomics performed. Rules: R244, R245, R248, R255, R260,
R263, R278, R302, R313, R315, R316. -/
def Obligations.PrivetFlowCommandsComplete : Prop :=
  (∀ (s : State) (h : Hedge) (a key : Nat) (l : Line) (e : Trk), s.start.line (lineKey h a) = some l →
      l.by_ = .entry key →
      s.start.entry key = some e →
      l.ownerWait = true →
      s.start.ent (lineKey h a) = none →
      ((s.start.lineWriters (lineKey h a)).all (fun (i, e) => s.start.written i e) = true) →
      exec (.ownerWritebackWaitEnd h a) s = .next (s.done (s.start.flowStart (lineKey h a) key l.kind))) ∧
  (∀ (s : State) (h : Hedge) (a : Nat) (i : Fin 64) (l : Line) (n : Snoop), s.start.line (lineKey h a) = some l →
      SMap.find l.snoops i = some n →
      n.st = .tenure →
      exec (.tenureEnd h a i) s = .next (s.done ({ s.start with tenures := s.start.tenures.filter (· != lineKey h a * 64 + i.val) }.snoop (lineKey h a) i n.inv))) ∧
  (∀ (s : State) (key d g : Nat) (q : Bool) (e : Trk) (rest : List Rsp), s.start.entry key = some e →
      e.arrived = .data d q g :: rest →
      e.gate = .closed →
      exec (.memoryReadData key) s = .next (s.done (s.start.setEntry key { e with arrived := rest, buf := some (d, q) }))) ∧
  (∀ (s : State) (key d g : Nat) (q : Bool) (e : Trk) (l : Line) (rest : List Rsp), s.start.entry key = some e →
      e.arrived = .data d q g :: rest →
      e.gate = .none →
      s.start.line e.x.line = some l →
      l.by_ = .entry key →
      l.started = true →
      l.reading = true →
      exec (.memoryReadData key) s = .next (s.done ((s.start.setEntry key { e with arrived := rest, buf := some (d, q) }).flowData e.x.line d q))) ∧
  (∀ (s : State) (key g : Nat) (e : Trk) (rest : List Rsp), s.start.entry key = some e →
      e.arrived = .cmp g :: rest →
      (s.start.setEntry key { e with arrived := rest }).written key { e with arrived := rest } = true →
      e.req.kind = .ncWrite true →
      e.answered = true →
      e.phase = .writing →
      s.start.line e.x.line = none →
      exec (.memoryWriteComplete key) s = .next (s.done ((s.start.setEntry key { e with arrived := rest }).release key))) ∧
  (∀ (s : State) (h : Hedge) (a : Nat) (l : Line) (u : Mach), s.start.line (lineKey h a) = some l →
      s.start.lineEnded (lineKey h a) l = true →
      (u = (s.start.lineWriters (lineKey h a)).foldl (fun m (i, _) => m.release i) s.start) →
      u.mustEvict (lineKey h a) = false →
      u.nextOf l.queue = none →
      exec (.lineFlowEnd h a) s = .next (s.done ({ u with lines := SMap.del u.lines (lineKey h a) }))) ∧
  (∀ (s : State) (key : Nat) (e : Trk) (l : Line), s.start.busyRoom = true →
      s.start.busyWait = [key] →
      s.start.entry key = some e →
      s.start.line e.x.line = some l →
      exec (.busyLineEntryGrant) s = .next (s.done ({ s.start with busyWait := [] }.setEntry key { e with phase := .wantLookup }))) ∧
  (∀ (s : State) (h : Hedge) (a : Nat) (l : Line) (e : PvtEnt) (u : Mach), s.start.line (lineKey h a) = some l →
      l.held = some e →
      l.done = true →
      s.start.allocate (lineKey h a) e = some u →
      exec (.tier1Allocation h a) s = .next (s.done (u))) ∧
  (∀ (s : State) (h : Hedge) (a : Nat), s.start.line (lineKey h a) = none →
      s.start.mustEvict (lineKey h a) = true →
      s.start.evicting < s.start.maxEvict →
      s.start.busyRoom = true →
      exec (.evictionFlow h a) s = .next (s.done ((s.start.takeLine (lineKey h a) .evict).evictStart (lineKey h a)))) ∧
  (∀ (s : State), s.start.rebuilding = false →
      exec (.rebuild) s = .next (s.done ({ s.start with rebuilding := true, summary := [] }))) ∧
  (∀ (s : State), s.start.rebuilding = true →
      exec (.rebuildDone) s = .next (s.done ({ s.start with rebuilding := false, summary := s.start.t2.foldl (fun s (x : Nat × PvtEnt) => (sumIdx x.2.key).foldl (fun (s : SMap Nat) (i : Nat) => SMap.set 0 s i (min 15 (SMap.get 0 s i + 1))) s) [] }.raise PVT_EVENT_REBUILD_DONE))) ∧
  (∀ (s : State) (key k : Nat) (e : Trk) (op size x y : Nat), s.start.entry key = some e →
      e.req.kind = .atomic op size x y →
      s.start.flowReady key = some k →
      exec (.atomicOp key) s = .next (s.done (s.start.flowStart k key (.atomic op size x y)))) ∧
  (∀ (s : State) (key holder : Nat) (e : Trk) (l : Line) (op size x y : Nat), s.start.entry key = some e →
      e.req.kind = .atomic op size x y →
      s.start.flowReady key = none →
      s.start.line e.x.line = some l →
      l.by_ = .entry holder →
      l.hold = true →
      l.queue = [key] →
      exec (.atomicOp key) s = .next (s.done (((s.start.setLine e.x.line { l with queue := [] }).atomicDo e.x.line key holder).release key))) ∧
  (∀ (s : State) (h : Hedge) (a : Nat) (l : Line), s.start.line (lineKey h a) = some l →
      l.hold = true →
      l.by_ = .evict →
      exec (.atomicHoldEnd h a) s = .next (s.done (s.start.setLine (lineKey h a) { l with hold := false }))) ∧
  (∀ (s : State) (h : Hedge) (a key : Nat) (l : Line) (e : Trk), s.start.line (lineKey h a) = some l →
      l.hold = true →
      l.by_ = .entry key →
      (s.start.setLine (lineKey h a) { l with hold := false }).entry key = some e →
      (s.start.setLine (lineKey h a) { l with hold := false }).written key e = true →
      exec (.atomicHoldEnd h a) s = .next (s.done ((s.start.setLine (lineKey h a) { l with hold := false }).release key)))

/-- The Privet configuration and dead-host commands complete. Writes of way masks, quotas, member slots, the tier-2 size and ENABLE take effect as their
rules give; a member is declared dead, its lines walked, its bit cleared; a snoop without an answer times out or is sent again. Rules: R234, R259,
R266, R267, R268, R282, R285, R288, R289, R290. -/
def Obligations.PrivetConfigurationCommandsComplete : Prop :=
  (∀ (s : State) (h : Hedge) (v : BitVec 32), ((s.start.wr (PVT_HR_CFG_WAY_MASK h) (v.toNat % 2 ^ 16)).wrB (PVT_HR_CFG_ENABLE h) (bit v.toNat 16)).t1 = [] →
      exec (.pvtHrCfgWrite h v) s = .next (s.done ((s.start.wr (PVT_HR_CFG_WAY_MASK h) (v.toNat % 2 ^ 16)).wrB (PVT_HR_CFG_ENABLE h) (bit v.toNat 16)))) ∧
  (∀ (s : State) (h : Hedge) (v : BitVec 32), s.start.rd (PVT_HR_QUOTA_T2_QUOTA h) ≤ v.toNat % 2 ^ 12 →
      exec (.pvtHrQuotaWrite h v) s = .next (s.done (s.start.wr (PVT_HR_QUOTA_T2_QUOTA h) (v.toNat % 2 ^ 12)))) ∧
  (∀ (s : State) (h : Hedge) (v : BitVec 32), v.toNat % 2 ^ 12 < s.start.rd (PVT_HR_QUOTA_T2_QUOTA h) →
      (s.start.wr (PVT_HR_QUOTA_T2_QUOTA h) (v.toNat % 2 ^ 12)).hrT2 h ≤ v.toNat % 2 ^ 12 * 2 ^ 20 →
      exec (.pvtHrQuotaWrite h v) s = .next (s.done ((s.start.wr (PVT_HR_QUOTA_T2_QUOTA h) (v.toNat % 2 ^ 12)).raise PVT_EVENT_QUOTA_DONE))) ∧
  (∀ (s : State) (h : Hedge), s.start.quotaWalk.contains h.val = true →
      s.start.hrT2 h ≤ s.start.rd (PVT_HR_QUOTA_T2_QUOTA h) * 2 ^ 20 →
      exec (.quotaDone h) s = .next (s.done ({ s.start with quotaWalk := s.start.quotaWalk.filter (· != h.val) }.raise PVT_EVENT_QUOTA_DONE))) ∧
  (∀ (s : State) (h : Hedge) (i : Fin 64) (v : Word), s.start.flag (PVT_MEMBER_VALID h i) = false →
      exec (.pvtMemberWrite h i true v) s = .next (s.done (s.start.wr (PVT_MEMBER_BIAS_HPA_BIAS h i) v.toNat))) ∧
  (∀ (s : State) (h : Hedge) (i : Fin 64) (v : Word), s.start.flag (PVT_MEMBER_VALID h i) = true →
      bit v.toNat 1 = s.start.flag (PVT_MEMBER_KIND h i) →
      v.toNat / 16 % 4096 = s.start.rd (PVT_MEMBER_ID h i) →
      bit v.toNat 0 = false →
      exec (.pvtMemberWrite h i false v) s = .next (s.done ((s.start.memberDead h i 3).wr (PVT_MEMBER_VALID h i) 0))) ∧
  (∀ (s : State) (h : Hedge) (i : Fin 64) (v : Word), s.start.flag (PVT_MEMBER_VALID h i) = false →
      bit v.toNat 0 = true →
      bit v.toNat 1 = false →
      s.start.isUp (v.toNat / 16 % 4096) = true →
      ((s.start.deadWalks.any fun x => x.hr == h.val && x.member == i.val) = false) →
      (((List.range 4).any fun h' => (List.range 64).any fun i' => !(h' == h.val && i' == i.val) && s.start.slotNames h' i' false (v.toNat / 16 % 4096)) = false) →
      exec (.pvtMemberWrite h i false v) s = .next (s.done ({ ((s.start.wr (PVT_MEMBER_VALID h i) (v.toNat % 2)).wrB (PVT_MEMBER_KIND h i) false).wr (PVT_MEMBER_ID h i) (v.toNat / 16 % 4096) with validWritten := s.start.validWritten ++ [h.val * 64 + i.val] }))) ∧
  (∀ (s : State) (v : BitVec 32), bit v.toNat 0 = true →
      exec (.pvtCtrlWrite v) s = .next (s.done (s.start.wrB PVT_CTRL_ENABLE true))) ∧
  (∀ (s : State) (v : BitVec 32), bit v.toNat 0 = false →
      ((List.range 4).any (fun h => s.start.flag (PVT_HR_CFG_ENABLE h)) = false) →
      exec (.pvtCtrlWrite v) s = .next (s.done (s.start.wrB PVT_CTRL_ENABLE false))) ∧
  (∀ (s : State) (v : BitVec 32), s.start.flag PVT_CTRL_ENABLE = false →
      v.toNat % 32 = 0 →
      s.start.t2 = [] →
      exec (.pvtT2CfgWrite v) s = .next (s.done ((s.start.wr PVT_T2_CFG_LOG2_ENTRIES 0).wrB PVT_T2_CFG_MIRROR (bit v.toNat 5)))) ∧
  (∀ (s : State) (v : BitVec 32), s.start.flag PVT_CTRL_ENABLE = false →
      20 ≤ v.toNat % 32 →
      s.start.t2 = [] →
      exec (.pvtT2CfgWrite v) s = .next (s.done (if t2Bytes (v.toNat % 32) (bit v.toNat 5) + 2 * 2 ^ 20 ≤ Config.channelBytes then (s.start.wr PVT_T2_CFG_LOG2_ENTRIES (v.toNat % 32)).wrB PVT_T2_CFG_MIRROR (bit v.toNat 5) else s.start.raise PVT_EVENT_CFG_REFUSED))) ∧
  (∀ (s : State) (h : Hedge) (i : Fin 64) (cause : Fin 4), s.start.flag (PVT_MEMBER_VALID h i) = true →
      2 ≤ cause.val →
      exec (.memberDead h i cause) s = .next (s.done (s.start.memberDead h i cause))) ∧
  (∀ (s : State) (h : Hedge) (i : Fin 64) (cause : Fin 4), s.start.flag (PVT_MEMBER_VALID h i) = true →
      s.start.rd WKT_BOOT_STATUS_STAGE = 3 →
      s.start.boot.orderly = none →
      s.start.pw.committed = false →
      exec (.memberDead h i cause) s = .next (s.done (s.start.memberDead h i cause))) ∧
  (∀ (s : State), s.start.deadWalks.filter s.start.walkable = [] →
      exec (.deadHostWalk) s = .next (s.done ({ s.start with deadWalks := s.start.deadWalks.map fun w => if s.start.walkable w then { w with passed := true } else w }))) ∧
  (∀ (s : State) (h : Hedge) (i : Fin 64), ((s.start.deadWalks.any fun w => w.hr == h.val && w.member == i.val && w.passed) = true) →
      exec (.walkDone h i) s = .next (s.done ({ s.start with deadWalks := s.start.deadWalks.filter fun w => !(w.hr == h.val && w.member == i.val) }.raise PVT_LOSS_EVENT_WALK_DONE))) ∧
  (∀ (s : State) (h : Hedge) (i : Fin 64), ((s.start.deadWalks.any fun w => w.hr == h.val && w.member == i.val) = false) →
      s.start.memberUp h i = true →
      exec (.departedClear h i) s = .next (s.done (s.start.wr (PVT_HR_DEPARTED_MASK h) (withBit (s.start.departed h) i false)))) ∧
  (∀ (s : State) (h : Hedge) (a : Nat) (i : Fin 64) (l : Line) (n : Snoop), s.start.line (lineKey h a) = some l →
      SMap.find l.snoops i = some n →
      n.st = .sent →
      ((s.start.raise PVT_LOSS_EVENT_SNOOP_TIMEOUT).count (CNT_PVT h 19) 1).rawEnt (lineKey h a) = none →
      exec (.snoopTimeout h a i) s = .next (s.done ((((s.start.raise PVT_LOSS_EVENT_SNOOP_TIMEOUT).count (CNT_PVT h 19) 1).updLine (lineKey h a) fun l => { l with snoops := SMap.del l.snoops i }).lineTry (lineKey h a)))) ∧
  (∀ (s : State) (h : Hedge) (a : Nat) (i : Fin 64) (l : Line) (n : Snoop), s.start.line (lineKey h a) = some l →
      SMap.find l.snoops i = some n →
      n.st = .down →
      s.start.memberUp h i = true →
      exec (.snoopResend h a i) s = .next (s.done (s.start.snoop (lineKey h a) i n.inv))) ∧
  (∀ (s : State) (v : BitVec 32), exec (.pvtLostTailWrite v) s = .next (s.done (s.start.wr PVT_LOST_TAIL_COUNT v.toNat)))

/-- The Privet recovery, repair and speculation commands complete. The shadow is flushed, tier 1 recovered from it, uncorrectable entries, lost state,
failing ways and lost buckets handled, and a domain's speculation window closed or reconfigured, as their rules give. Rules: R291, R293, R295, R296,
R306, R307, R308, R576, R577. -/
def Obligations.PrivetRasAndSpeculationCommandsComplete : Prop :=
  (∀ (s : State) (sets : List Nat), sets = (s.start.ring.map RingRec.set).eraseDups →
      exec (.shadowFlush) s = .next (s.done (s.start.lines.foldl (fun m (x : Nat × Line) => m.lineTry x.1) { s.start with shadow := sets.foldl (fun sh x => SMap.set [] sh x (s.start.setImage x)) s.start.shadow, ring := [], changed := [] }))) ∧
  (∀ (s : State) (sets : List Nat), s.start.recovering = false →
      sets = (s.start.ring.map RingRec.set).eraseDups →
      exec (.privetRecovery) s = .next (s.done ({ s.start with t1 := s.start.shadow.foldl (fun t (x : Nat × SMap PvtEnt) => if sets.contains x.1 then t else x.2.foldl (fun t (y : Nat × PvtEnt) => SMap.ins t y.1 y.2) t) s.start.t1, recover := sets.foldl (fun r x => if (s.start.recoveryLines x).isEmpty then r else SMap.ins r x (s.start.recoveryLines x)) s.start.recover, recovering := true, ring := [], changed := [] }))) ∧
  (∀ (s : State), s.start.recovering = true →
      s.start.recover = [] →
      exec (.recoveryDone) s = .next (s.done ({ s.start with recovering := false }.raise PVT_LOSS_EVENT_RECOVERY_DONE))) ∧
  (∀ (s : State) (set : Fin 262144) (way : Fin 16) (e : PvtEnt) (u : Mach), SMap.find s.start.t1 (set.val * 16 + way.val) = some e →
      u = s.start.error { cls := .corrected, block := 4, code := 2, loc := set.val % 64 + way.val * 64 } →
      exec (.tier1Uncorrectable set way) s = .next (s.done ({ u with t1 := SMap.del u.t1 (set.val * 16 + way.val), recover := SMap.ins u.recover set ((u.recoveryLines set ++ (u.setImage set).map (fun (x : Nat × PvtEnt) => x.2.key) ++ [e.key]).eraseDups) }))) ∧
  (∀ (s : State), exec (.stateLost) s = .next (s.done (s.start.stateLost))) ∧
  (∀ (s : State) (bank : Fin 64) (way : Fin 16), (s.start.t1.filter (fun (i, _) => i / 16 % 64 == bank.val && i % 16 == way.val) = []) →
      SMap.get 0 s.start.sparesUsed bank < 2 →
      exec (.spareWayMap bank way) s = .next (s.done ({ s.start with sparesUsed := SMap.set 0 s.start.sparesUsed bank (SMap.get 0 s.start.sparesUsed bank + 1) }.error { cls := .corrected, block := 4, code := 3, loc := bank.val + way.val * 64 }))) ∧
  (∀ (s : State) (b : Nat), s.start.t2On = true →
      b < 2 ^ (s.start.rd PVT_T2_CFG_LOG2_ENTRIES - 2) →
      s.start.lostBuckets.contains b = false →
      s.start.lostBuckets.length < 256 →
      exec (.lostBucket b) s = .next (s.done ({ s.start with lostBuckets := s.start.lostBuckets ++ [b], t2 := SMap.drop s.start.t2 (b * 4) (b * 4 + 4) }.error { cls := .corrected, block := 4, code := 5, loc := b % 8 * 64 }))) ∧
  (∀ (s : State) (d : Dom), s.start.flag LVR_SPEC_CFG_ADAPT_EN = true →
      2 ^ max 6 (s.start.rd LVR_SPEC_CFG_WINDOW_LOG2) ≤ (SMap.get {} s.start.specWin d).eligible →
      s.start.rd LVR_SPEC_CFG_HI * 2 ^ max 6 (s.start.rd LVR_SPEC_CFG_WINDOW_LOG2) < (SMap.get {} s.start.specWin d).conflicts * 256 →
      { s.start with specWin := SMap.del s.start.specWin d }.specOn d = true →
      exec (.specWindowClose d) s = .next (s.done ((((({ s.start with specWin := SMap.del s.start.specWin d }.setSpec d true).wr LVR_SPEC_LAST_DOMAIN d).wrB LVR_SPEC_LAST_OFF true)).raise LVR_SPEC_EVENT_SPEC_OFF))) ∧
  (∀ (s : State) (d : Dom), s.start.flag LVR_SPEC_CFG_ADAPT_EN = true →
      2 ^ max 6 (s.start.rd LVR_SPEC_CFG_WINDOW_LOG2) ≤ (SMap.get {} s.start.specWin d).eligible →
      (SMap.get {} s.start.specWin d).conflicts * 256 < s.start.rd LVR_SPEC_CFG_LO * 2 ^ max 6 (s.start.rd LVR_SPEC_CFG_WINDOW_LOG2) →
      { s.start with specWin := SMap.del s.start.specWin d }.specOn d = false →
      exec (.specWindowClose d) s = .next (s.done ((((({ s.start with specWin := SMap.del s.start.specWin d }.setSpec d false).wr LVR_SPEC_LAST_DOMAIN d).wrB LVR_SPEC_LAST_OFF false)).raise LVR_SPEC_EVENT_SPEC_ON))) ∧
  (∀ (s : State) (v : BitVec 32), v.toNat / 2 ^ 16 % 256 < v.toNat / 2 ^ 8 % 256 →
      bit v.toNat 0 = true →
      s.start.flag LVR_SPEC_CFG_ADAPT_EN = true →
      exec (.lvrSpecCfgWrite v) s = .next (s.done ((((s.start.wrB LVR_SPEC_CFG_ADAPT_EN true).wr LVR_SPEC_CFG_WINDOW_LOG2 (v.toNat / 16 % 16)).wr LVR_SPEC_CFG_HI (v.toNat / 2 ^ 8 % 256)).wr LVR_SPEC_CFG_LO (v.toNat / 2 ^ 16 % 256))))

/-- The commands on rule changes, mirror pairs and freezes complete. The oldest accepted rule change commits, after its walk where it needs one; rule
fences end; mirror members fail, are repaired and resynchronised; sets are written; records cleared; a freeze drains and sweeps. Rules: R332, R333,
R334, R335, R336, R341, R343, R346, R347, R361, R363. -/
def Obligations.RuleAndMirrorCommandsComplete : Prop :=
  (∀ (s : State) (c : PendChange) (rest : List PendChange) (d n : Nat) (new : Option Casement) (e : EntryRef) (u : Mach), s.start.changes = c :: rest →
      c.needWalk = false →
      c.change = .slot d n new →
      c.entry = some e →
      u = { s.start with changes := rest }.commit (.slot d n new) →
      exec (.commitPoint) s = .next (s.done (u.endEntry e { result := u.epoch }))) ∧
  (∀ (s : State) (c : PendChange) (rest : List PendChange) (d n : Nat) (o : Casement) (new : Option Casement) (l : List Nat), s.start.changes = c :: rest →
      c.needWalk = true →
      c.change = .slot d n new →
      SMap.find (s.start.dom d).cas n = some o →
      c.walk = some l →
      l.any s.start.toEvict.contains = false →
      exec (.coverageRemovalWalk) s = .next (s.done ({ s.start with changes := { c with needWalk := false } :: rest }))) ∧
  (∀ (s : State) (i : Nat) (f : RuleFence) (e : EntryRef), s.start.fences[i]? = some f →
      ((f.epochs.all fun (x : Nat × Nat) => s.start.fenceMet x.1 x.2) = true) →
      f.entry = some e →
      f.hdm = none →
      f.thread = none →
      exec (.ruleFenceComplete i) s = .next (s.done ({ s.start with fences := s.start.fences.eraseIdx i }.endEntry e {}))) ∧
  (∀ (s : State) (k : Fin 512) (i : Fin 2), (s.start.mirPair k).st i ≠ .failed →
      exec (.mirrorFail k i) s = .next (s.done ((({ s.start with mir := SMap.set {} s.start.mir k ((s.start.mirPair k).setSt i .failed) }.raise DOM_EVENT_MIRROR_FAIL).error { cls := .corrected, block := 8, code := 1, port := some ((s.start.mirPair k).mem i).port }).mirRelease))) ∧
  (∀ (s : State) (key b : Nat) (e : Trk) (x : Xlat), s.start.entry key = some e →
      e.badMember = some b →
      e.reissued = false →
      s.start.otherMember e.x = some x →
      exec (.mirrorRepair key) s = .next (s.done ((s.start.setEntry key { e with x := { e.x with port := x.port, ld := x.ld, dpa := x.dpa, member := x.member }, reissued := true }).issue key e.req.kind.atDevice e.req.data e.req.mask e.req.poison false))) ∧
  (∀ (s : State) (v : BitVec 32) (p : MirPair), s.start.mirPair (s.start.rd CSM_MIR_SEL_PAIR) = p →
      v.toNat % 4 = p.st0.code →
      v.toNat / 4 % 4 = p.st1.code →
      exec (.csmMirCtrlWrite v) s = .next (s.done (s.start.setMir (s.start.rd CSM_MIR_SEL_PAIR) { p with readSel := bit v.toNat 4 }))) ∧
  (∀ (s : State) (v : BitVec 32) (p : MirPair), s.start.mirPair (s.start.rd CSM_MIR_SEL_PAIR) = p →
      p.st0 = .inSync →
      p.st1 = .failed →
      v.toNat % 4 = 0 →
      v.toNat / 4 % 4 = 2 →
      exec (.csmMirCtrlWrite v) s = .next (s.done (s.start.setMir (s.start.rd CSM_MIR_SEL_PAIR) { p with readSel := bit v.toNat 4, st1 := .resync, cursor := 0 }))) ∧
  (∀ (s : State) (k : Fin 512), (s.start.mirPair k).st0 = .resync ∨ (s.start.mirPair k).st1 = .resync →
      exec (.mirrorCursorAdvance k) s = .next (s.done (s.start.mirCursor k ((s.start.mirPair k).cursor + 1)))) ∧
  (∀ (s : State) (v : BitVec 32) (i : Nat), i = s.start.rd CSM_ILV_SEL_SET →
      s.start.ilvRefs i = 0 →
      v.toNat % 8 ≤ 4 →
      v.toNat / 16 % 8 ≤ 6 →
      exec (.csmSetWrite (.ilvHdr v)) s = .next (s.done ({ s.start with ilv := SMap.set {} s.start.ilv i { s.start.ilvSet i with ways := v.toNat % 8, gran := v.toNat / 16 % 8 } }))) ∧
  (∀ (s : State) (v : BitVec 64) (j : Nat), j = s.start.rd CSM_MIR_SEL_PAIR →
      s.start.mirRefs j = 0 →
      exec (.csmSetWrite (.mirSize v)) s = .next (s.done (s.start.setMir j { s.start.mirPair j with size := v.toNat / 4096 * 4096 }))) ∧
  (∀ (s : State) (v : BitVec 32), bit v.toNat 0 = true →
      exec (.domViolClr v) s = .next (s.done (s.start.violClr (s.start.rd DOM_SEL_DOMAIN)))) ∧
  (∀ (s : State) (f : Fin 4096) (v : BitVec 32), exec (.domFabricWrite f v) s = .next (s.done ({ s.start with changes := s.start.changes ++ [{ change := .fabric f (if bit v.toNat 15 then some (v.toNat % 4096) else none), needWalk := false, entry := none }] }))) ∧
  (∀ (s : State) (d : Dom) (h : HingeOp), SMap.find s.start.hinges d = some h →
      h.op = 1 →
      h.draining = true →
      (s.start.freezeThreads d).domDrained d = true →
      h.sweep = none →
      exec (.freezeDrainDone d) s = .next (s.done ((s.start.freezeThreads d).freezeEnd d))) ∧
  (∀ (s : State) (d : Dom) (h : HingeOp) (x : Nat × Nat), SMap.find s.start.hinges d = some h →
      h.op = 1 →
      h.draining = true →
      (s.start.freezeThreads d).domDrained d = true →
      h.sweep = some x →
      exec (.freezeDrainDone d) s = .next (s.done ((s.start.freezeThreads d).updHinge d fun h => { h with draining := false, sweeping := true }))) ∧
  (∀ (s : State) (d : Dom) (h : HingeOp) (hr i : Nat), SMap.find s.start.hinges d = some h →
      h.sweeping = true →
      h.sweep = some (hr, i) →
      h.todo = none →
      exec (.hingeSweep d) s = .next (s.done ({ s.start with toEvict := s.start.toEvict ++ (s.start.sweepLines d hr i).filter fun k => !s.start.toEvict.contains k }.updHinge d fun h => { h with todo := some (s.start.sweepLines d hr i), lines := (s.start.sweepLines d hr i).length }))) ∧
  (∀ (s : State) (d : Dom) (h : HingeOp) (x : Nat × Nat) (l : List Nat), SMap.find s.start.hinges d = some h →
      h.sweeping = true →
      h.sweep = some x →
      h.todo = some l →
      l.any s.start.toEvict.contains = false →
      exec (.hingeSweep d) s = .next (s.done (s.start.freezeEnd d)))

/-- The Louvre commands complete. A staged entry that passes the checks is written with full buckets, or freed; samplers take their sample, are snapped
and reconfigured. Rules: R373, R374, R376, R380, R386, R387, R388, R389. -/
def Obligations.LouvreCommandsComplete : Prop :=
  (∀ (s : State) (i : Nat) (b : List Byte), i = s.start.rd LVR_ENT_SEL_INDEX →
      b = s.start.lvrStaged →
      bit (bget b 4 2) 0 = true →
      s.start.lvrStatus i b = 0 →
      SMap.find s.start.lvr i = none →
      exec (.lvrEntWrite) s = .next (s.done (({ s.start with lvr := SMap.ins s.start.lvr i (lvrOfBytes b s.start.now) }.wr LVR_ENT_CMD_STATUS 0).pumpAll))) ∧
  (∀ (s : State) (i : Nat), i = s.start.rd LVR_ENT_SEL_INDEX →
      bit (bget s.start.lvrStaged 4 2) 0 = true →
      s.start.lvrStatus i s.start.lvrStaged ≠ 0 →
      exec (.lvrEntWrite) s = .next (s.done ((s.start.wr LVR_ENT_CMD_STATUS (s.start.lvrStatus i s.start.lvrStaged)).raise LVR_EVENT_CFG_REFUSED))) ∧
  (∀ (s : State), exec (.lvrEntFree) s = .next (s.done (({ s.start with lvr := SMap.del s.start.lvr (s.start.rd LVR_ENT_SEL_INDEX) }.wr LVR_ENT_CMD_STATUS 0).pumpAll))) ∧
  (∀ (s : State) (i : Nat) (x : Sampler), s.start.smp = [(i, x)] →
      s.start.tbNs % x.period = 0 →
      x.due s.start.tbNs = true →
      exec (.sampleInstant) s = .next (s.done (s.start.takeSample i x s.start.tbNs))) ∧
  (∀ (s : State) (i : Nat), i = s.start.rd LVR_SMP_SEL_INDEX →
      exec (.snap) s = .next (s.done (s.start.setSampler i { s.start.sampler i with snap := (s.start.sampler i).live, live := {} }))) ∧
  (∀ (s : State) (v : BitVec 32) (i : Nat), i = s.start.rd LVR_SMP_SEL_INDEX →
      v.toNat ≠ (s.start.sampler i).target →
      exec (.lvrSmpCfgWrite true v) s = .next (s.done (s.start.setSampler i { s.start.sampler i with target := v.toNat, live := {} })))

/-- Doorbells, entry start and entry completion complete. Doorbells begin a scan or move overflowed entries; the next entry starts; a finished entry
writes its completion, moves HEAD and posts; a coalesced vector is raised; ENABLE opens or closes a domain's queues. Rules: R398, R400, R401, R404,
R406, R409, R410, R412, R425. -/
def Obligations.DoorbellAndEntryCommandsComplete : Prop :=
  (∀ (s : State) (d : Dom) (q : Fin 64) (mem : QMem), s.start.takesBell d q = true →
      exec (.sqTailDoorbell d q mem) s = .next (s.done (s.start.scan d q mem))) ∧
  (∀ (s : State) (d : Dom) (q : Fin 64) (mem : QMem), s.start.takesBell d q = false →
      (s.start.dom d).state = .frozen →
      exec (.sqTailDoorbell d q mem) s = .next (s.done (s.start.updSq d q fun x => { x with pendingDb := true }))) ∧
  (∀ (s : State) (d : Dom) (c : Fin 64) (head : Option Nat) (x : Cq), s.start.cqOf d c = some x →
      (s.start.dom d).state = .active →
      s.start.queuesRun = true →
      x.error = false →
      exec (.cqHeadDoorbell d c head) s = .next (s.done ((s.start.cqHead d c head).cqDeliver d c 8192))) ∧
  (∀ (s : State) (d : Dom) (q : Fin 64) (i : BitVec 32) (mem : QMem) (x : Sq), s.start.sq d q = some x →
      exec (.invalidateDoorbell d q i mem) s = .next (s.done ((s.start.invalidate d q i.toNat mem).1.updQif d fun f => { f with inval := (s.start.invalidate d q i.toNat mem).2 }))) ∧
  (∀ (s : State) (mem : QMem) (d q : Nat), (s.start.nextStart (fun d q => !isMover (s.start.frontOp d q)) s.start.qLastDom s.start.qLast = some (d, q)) →
      s.start.frontRun d q = false →
      exec (.entryStart mem) s = .next (s.done ({ s.start with qLastDom := d, qLast := SMap.set 64 s.start.qLast d q }.startEntry d q mem))) ∧
  (∀ (s : State) (d : Dom) (q : Fin 64) (idx : BitVec 32) (hsh : Option Nat) (r : Run) (x : EntRes), s.start.run (eref d q idx) = some r →
      r.work = .finished x →
      s.start.entryBusy (eref d q idx) = false →
      r.gen = (s.start.dom d).gen →
      exec (.entryComplete d q idx hsh) s = .next (s.done (s.start.completeEntry (eref d q idx) r x hsh))) ∧
  (∀ (s : State) (d : Dom) (c : Fin 64) (x : Cq), s.start.cqOf d c = some x →
      x.irq = true →
      x.coalT ≠ 0 →
      x.since ≠ 0 →
      exec (.msixCoalesceTimer d c) s = .next (s.done ((s.start.setCq d c { x with since := 0 }).fnIrq d c))) ∧
  (∀ (s : State) (d : Dom) (v : BitVec 32), (s.start.dom d).state ≠ .free →
      bit (s.start.qif d).cfg 16 = false →
      bit (v.toNat &&& 0x13F1F) 16 = true →
      ((s.start.updQif d fun x => { x with cfg := v.toNat &&& 0x13F1F }).qif d = { s.start.qif d with cfg := v.toNat &&& 0x13F1F }) →
      (s.start.qif d).closing = false →
      exec (.wqAdmCfgWrite d v) s = .next (s.done ((s.start.updQif d fun x => { x with cfg := v.toNat &&& 0x13F1F }).openIface d)))

/-- The data opcodes of queue entries complete. A fresh entry of its opcode that passes its checks is carried out: NOP, PAD and FENCE MEM end with OK, a
data mover's channel takes the descriptor, an atomic asks for its first element, a RUN is left to its thread, a rule fence takes its epochs. Rules:
R347, R397, R415, R416, R418, R419, R420, R421, R446. -/
def Obligations.DataEntryCommandsComplete : Prop :=
  (∀ (s : State) (d : Dom) (q : Fin 64) (idx : BitVec 32) (r : Run), s.start.ready (eref d q idx) 0x00 r →
      exec (.nopEntry d q idx) s = .next (s.done (s.start.endEntry (eref d q idx) {}))) ∧
  (∀ (s : State) (d : Dom) (q : Fin 64) (idx : BitVec 32) (r : Run), s.start.ready (eref d q idx) 0x01 r →
      exec (.padEntry d q idx) s = .next (s.done (s.start.endEntry (eref d q idx) {}))) ∧
  (∀ (s : State) (d : Dom) (q : Fin 64) (idx : BitVec 32) (r : Run), s.start.ready (eref d q idx) 0x10 r →
      exec (.copyEntry d q idx) s = .next (s.done ({ s.start with chans := s.start.chans.map fun (x : Nat × CopyChan) => if x.2.entry = eref d q idx then (x.1, { x.2 with kind := 0, a := bget r.bytes 0x10 8, b := bget r.bytes 0x18 8, len := bget r.bytes 0x20 8, dflags := bget r.bytes 0x28 4, pattern := bget r.bytes 0x30 8, loaded := true, checking := true }) else x }.setWork (eref d q idx) .busy))) ∧
  (∀ (s : State) (d : Dom) (q : Fin 64) (idx : BitVec 32) (r : Run), s.start.ready (eref d q idx) 0x11 r →
      exec (.fillEntry d q idx) s = .next (s.done ({ s.start with chans := s.start.chans.map fun (x : Nat × CopyChan) => if x.2.entry = eref d q idx then (x.1, { x.2 with kind := 1, a := bget r.bytes 0x10 8, b := bget r.bytes 0x18 8, len := bget r.bytes 0x20 8, dflags := bget r.bytes 0x28 4, pattern := bget r.bytes 0x30 8, loaded := true, checking := true }) else x }.setWork (eref d q idx) .busy))) ∧
  (∀ (s : State) (d : Dom) (q : Fin 64) (idx : BitVec 32) (r : Run), s.start.ready (eref d q idx) 0x12 r →
      exec (.verifyEntry d q idx) s = .next (s.done ({ s.start with chans := s.start.chans.map fun (x : Nat × CopyChan) => if x.2.entry = eref d q idx then (x.1, { x.2 with kind := 2, a := bget r.bytes 0x10 8, b := bget r.bytes 0x18 8, len := bget r.bytes 0x20 8, dflags := bget r.bytes 0x28 4, pattern := bget r.bytes 0x30 8, loaded := true, checking := true }) else x }.setWork (eref d q idx) .busy))) ∧
  (∀ (s : State) (d : Dom) (q : Fin 64) (idx : BitVec 32) (r : Run), s.start.ready (eref d q idx) 0x20 r →
      reservedSet r.bytes [(0x11, 15)] = false →
      1 ≤ bget r.bytes 0x10 1 →
      bget r.bytes 0x10 1 ≤ 7 →
      bget r.bytes 0x10 1 + 1 ≤ entLen r.bytes →
      elemsOk r.bytes (bget r.bytes 0x10 1) 8 0 = true →
      exec (.atomicEntry d q idx) s = .next (s.done (s.start.atomicAsk (eref d q idx) r.bytes 0 0 []))) ∧
  (∀ (s : State) (d : Dom) (q : Fin 64) (idx : BitVec 32) (r : Run), s.start.ready (eref d q idx) 0x30 r →
      s.start.runRefusal d r.bytes = none →
      exec (.runEntry d q idx) s = .next (s.done (s.start.setWork (eref d q idx) .busy))) ∧
  (∀ (s : State) (d : Dom) (q : Fin 64) (idx : BitVec 32) (r : Run), s.start.ready (eref d q idx) 0x40 r →
      fenceBad r.bytes = false →
      fenceKind r.bytes = 0 →
      exec (.fenceMem d q idx) s = .next (s.done (s.start.endEntry (eref d q idx) {}))) ∧
  (∀ (s : State) (d : Dom) (q : Fin 64) (idx : BitVec 32) (r : Run), s.start.ready (eref d q idx) 0x40 r →
      fenceBad r.bytes = false →
      fenceKind r.bytes = 1 →
      bit (bget r.bytes 0x11 1) 0 = false →
      s.start.mayQueue d (bodyDom (eref d q idx) r.bytes 0x12) = true →
      exec (.fenceRule d q idx) s = .next (s.done ((s.start.setWork (eref d q idx) .busy).fence (some (bodyDom (eref d q idx) r.bytes 0x12)) (some (eref d q idx)) none))) ∧
  (∀ (s : State) (d : Dom) (q : Fin 64) (idx : BitVec 32) (r : Run), s.start.ready (eref d q idx) 0x40 r →
      fenceBad r.bytes = false →
      fenceKind r.bytes = 2 →
      bit (bget r.bytes 0x11 1) 0 = false →
      s.start.mayQueue d (bodyDom (eref d q idx) r.bytes 0x12) = true →
      exec (.fenceAll d q idx) s = .next (s.done ((s.start.setWork (eref d q idx) .busy).fence (some (bodyDom (eref d q idx) r.bytes 0x12)) (some (eref d q idx)) none)))

/-- The queue commands of SQ 0 complete. On SQ 0, a queue command that passes its checks creates, destroys, resets or invalidates the queue that its body
names in the domain it names. Rules: R391, R393, R404, R415, R422, R423. -/
def Obligations.QueueAdminCommandsComplete : Prop :=
  (∀ (s : State) (d : Dom) (idx : BitVec 32) (r : Run) (t id : Nat), s.start.ready (eref d 0 idx) 0x80 r →
      t = bodyDom (eref d 0 idx) r.bytes 0x10 →
      id = bget r.bytes 0x12 1 →
      reservedSet r.bytes [(0x30, 16)] = false →
      s.start.mayQueue d t = true →
      id ≠ 0 →
      id ≤ 63 →
      s.start.sq t id = none →
      12 ≤ bget r.bytes 0x13 1 →
      bget r.bytes 0x13 1 ≤ 24 →
      bget r.bytes 0x14 1 = 0xFF →
      s.start.sqs.length < 65536 →
      exec (.createSq d 0 idx) s = .next (s.done (((s.start.setSq t id { num := s.start.freeSqNum, log2 := bget r.bytes 0x13 1, ring := bget r.bytes 0x18 8, tailSh := bget r.bytes 0x20 8, headSh := bget r.bytes 0x28 8, cq := none }).qWrite t (bget r.bytes 0x28 8) (leBytes 4 0)).endEntry (eref d 0 idx) { result := s.start.freeSqNum }))) ∧
  (∀ (s : State) (d : Dom) (idx : BitVec 32) (r : Run) (t id : Nat), s.start.ready (eref d 0 idx) 0x82 r →
      t = bodyDom (eref d 0 idx) r.bytes 0x10 →
      id = bget r.bytes 0x12 1 →
      reservedSet r.bytes [(0x30, 16), (0x14, 1), (0x28, 8)] = false →
      bget r.bytes 0x15 1 < 2 →
      s.start.mayQueue d t = true →
      id ≠ 0 →
      id ≤ 63 →
      s.start.cqOf t id = none →
      12 ≤ bget r.bytes 0x13 1 →
      bget r.bytes 0x13 1 ≤ 24 →
      s.start.cqs.length < 65536 →
      exec (.createCq d 0 idx) s = .next (s.done ((s.start.setCq t id { num := s.start.freeCqNum, log2 := bget r.bytes 0x13 1, ring := bget r.bytes 0x18 8, headSh := bget r.bytes 0x20 8, irq := bit (bget r.bytes 0x15 1) 0, coalN := bget r.bytes 0x16 1, coalT := bget r.bytes 0x17 1 }).endEntry (eref d 0 idx) { result := s.start.freeCqNum }))) ∧
  (∀ (s : State) (d : Dom) (idx : BitVec 32) (r : Run) (t id : Nat) (x : Sq), s.start.ready (eref d 0 idx) 0x81 r →
      t = bodyDom (eref d 0 idx) r.bytes 0x10 →
      id = bget r.bytes 0x12 1 →
      reservedSet r.bytes [(0x18, 8)] = false →
      s.start.mayQueue d t = true →
      id ≠ 0 →
      id ≤ 63 →
      s.start.sq t id = some x →
      x.closing = false →
      exec (.destroySq d 0 idx) s = .next (s.done ((s.start.sqClose t id).setWork (eref d 0 idx) (.stopSq t id none x.startPt)))) ∧
  (∀ (s : State) (d : Dom) (idx : BitVec 32) (r : Run) (t id : Nat) (x : Cq), s.start.ready (eref d 0 idx) 0x83 r →
      t = bodyDom (eref d 0 idx) r.bytes 0x10 →
      id = bget r.bytes 0x12 1 →
      reservedSet r.bytes [(0x18, 8)] = false →
      s.start.mayQueue d t = true →
      id ≠ 0 →
      id ≤ 63 →
      s.start.cqOf t id = some x →
      x.ovf = [] →
      ((s.start.sqIds t).any (fun q => (s.start.sq t q).any fun s => s.cq == some id) = false) →
      exec (.destroyCq d 0 idx) s = .next (s.done ((s.start.cqFree t id).endEntry (eref d 0 idx) {}))) ∧
  (∀ (s : State) (d : Dom) (idx : BitVec 32) (r : Run) (t id : Nat) (x : Sq), s.start.ready (eref d 0 idx) 0x84 r →
      t = bodyDom (eref d 0 idx) r.bytes 0x10 →
      id = bget r.bytes 0x12 1 →
      reservedSet r.bytes [(0x18, 8)] = false →
      s.start.mayQueue d t = true →
      id ≤ 63 →
      bget r.bytes 0x13 1 = 0 →
      s.start.sq t id = some x →
      x.closing = false →
      exec (.resetQueue d 0 idx) s = .next (s.done ((s.start.sqClose t id).setWork (eref d 0 idx) (.stopSq t id (some (bget r.bytes 0x14 4)) x.startPt)))) ∧
  (∀ (s : State) (d : Dom) (idx : BitVec 32) (r : Run) (t id : Nat) (x : Cq), s.start.ready (eref d 0 idx) 0x84 r →
      t = bodyDom (eref d 0 idx) r.bytes 0x10 →
      id = bget r.bytes 0x12 1 →
      reservedSet r.bytes [(0x18, 8)] = false →
      s.start.mayQueue d t = true →
      id ≤ 63 →
      bget r.bytes 0x13 1 = 1 →
      s.start.cqOf t id = some x →
      x.held = false →
      exec (.resetQueue d 0 idx) s = .next (s.done ((s.start.setCq t id { x with held := true }).setWork (eref d 0 idx) (.stopCq t id (bget r.bytes 0x14 4))))) ∧
  (∀ (s : State) (d : Dom) (idx : BitVec 32) (mem : QMem) (r : Run) (t id : Nat) (x : Sq), s.start.ready (eref d 0 idx) 0x85 r →
      t = bodyDom (eref d 0 idx) r.bytes 0x10 →
      id = bget r.bytes 0x12 1 →
      reservedSet r.bytes [(0x18, 8)] = false →
      bget r.bytes 0x13 1 = 0 →
      s.start.mayQueue d t = true →
      id ≤ 63 →
      s.start.sq t id = some x →
      exec (.invalidate d 0 idx mem) s = .next (s.done (((s.start.invalidate t id (bget r.bytes 0x14 4) mem).1.updQif t fun i => { i with inval := (s.start.invalidate t id (bget r.bytes 0x14 4) mem).2 }).endEntry (eref d 0 idx) { result := (s.start.invalidate t id (bget r.bytes 0x14 4) mem).2 })))

/-- The domain and Hinge commands complete. On SQ 0, a domain command that passes its checks makes a domain Active, begins its reset or its destruction,
or puts a rule change in line for its commit point; a Hinge command freezes, saves, restores or thaws the domain it names. Rules: R327, R342, R343,
R348, R351, R353, R357, R361, R367, R369, R370, R424. -/
def Obligations.DomainAndHingeCommandsComplete : Prop :=
  (∀ (s : State) (idx : BitVec 32) (r : Run) (n p : Nat), s.start.ready (eref 0 0 idx) 0x90 r →
      reservedSet r.bytes [(0x19, 7)] = false →
      bget r.bytes 0x10 1 = 1 →
      bget r.bytes 0x11 1 < 32 →
      bget r.bytes 0x14 2 = 0 →
      bget r.bytes 0x16 2 = 0 →
      bget r.bytes 0x18 1 = 1 →
      bget r.bytes 0x12 2 = n →
      bget r.bytes 0x20 2 = p →
      (((List.range 16).any fun i => 1 ≤ i && bget r.bytes (0x20 + 2 * i) 2 != 0) = false) →
      n ≠ 0 →
      n < 4096 →
      (s.start.dom n).state = .free →
      s.start.isUp p = true →
      s.start.portDom p = none →
      Completes (.domainCreate 0 0 idx) s fun t => (t.m.dom n).state = .active ∧ (t.m.dom n).kind = .host ∧ (t.m.dom n).gen = ((s.start.dom n).gen + 1) % 65536 ∧ (t.m.dom n).cas = [] ∧ SMap.find t.m.domPort p = some n) ∧
  (∀ (s : State) (d : Dom) (idx : BitVec 32) (r : Run) (t : Nat) (u v : Mach), s.start.ready (eref d 0 idx) 0x91 r →
      t = bodyDom (eref d 0 idx) r.bytes 0x10 →
      reservedSet r.bytes [(0x13, 13)] = false →
      bget r.bytes 0x12 1 < 2 →
      s.start.mayCommand d t = true →
      s.start.domFree t = true →
      (u = (s.start.resetSteps t .resetting).updDom t fun r' => { r' with thenDisable := bit (bget r.bytes 0x12 1) 0, viol := {} }) →
      (v = (u.sqIds t).foldl (fun m q => m.sqClose t q) u) →
      exec (.domainReset d 0 idx) s = .next (s.done (((v.sqIds t).foldl (fun m q => m.updSq t q fun s => { s with pendingDb := false }) v).setWork (eref d 0 idx) (.domain t false)))) ∧
  (∀ (s : State) (d : Dom) (idx : BitVec 32) (r : Run) (t : Nat) (u : Mach), s.start.ready (eref d 0 idx) 0x92 r →
      t = bodyDom (eref d 0 idx) r.bytes 0x10 →
      reservedSet r.bytes [(0x12, 14)] = false →
      s.start.mayCommand d t = true →
      s.start.children t = [] →
      s.start.domFree t = true →
      u = s.start.resetSteps t .destroying →
      exec (.domainDestroy d 0 idx) s = .next (s.done (((u.sqIds t).foldl (fun m q => m.sqClose t q) u).setWork (eref d 0 idx) (.domain t true)))) ∧
  (∀ (s : State) (d : Dom) (idx : BitVec 32) (r : Run) (t n : Nat) (b : CasBody) (new : Option Casement), s.start.ready (eref d 0 idx) 0x93 r →
      t = bodyDom (eref d 0 idx) r.bytes 0x10 →
      n = bget r.bytes 0x12 1 →
      b = { base := bget r.bytes 0x20 8, attr := bget r.bytes 0x28 4, owner := t % 4096, target := bget r.bytes 0x2E 2, offset := bget r.bytes 0x30 8, cohBase := bget r.bytes 0x38 8 } →
      reservedSet r.bytes [(0x13, 13)] = false →
      t < 4096 →
      s.start.mayRule d t = true →
      (s.start.dom t).state ≠ .frozen →
      s.start.changes = [] →
      s.start.ruleSet d t n b = .ok new →
      exec (.setCasement d 0 idx) s = .next (s.done ({ s.start with changes := [{ change := .slot t n new, needWalk := takesCoverage (SMap.find (s.start.dom t).cas n) new, entry := some (eref d 0 idx) }] }.setWork (eref d 0 idx) .busy))) ∧
  (∀ (s : State) (d : Dom) (idx : BitVec 32) (r : Run) (t : Nat), s.start.ready (eref d 0 idx) 0xA0 r →
      t = bodyDom (eref d 0 idx) r.bytes 0x10 →
      reservedSet r.bytes [(0x17, 1), (0x28, 24), (0x12, 2)] = false →
      bget r.bytes 0x14 1 = 0 →
      s.start.mayCommand d t = true →
      s.start.domFree t = true →
      (s.start.dom t).state = .active →
      s.start.sqIds t = [] →
      exec (.hingeFreeze d 0 idx) s = .next (s.done (({ s.start.updDom t (fun r => { r with state := .frozen }) with hinges := SMap.ins s.start.hinges t { op := 1, draining := true, sweep := none } }.freezeThreads t).setWork (eref d 0 idx) (.freeze t)))) ∧
  (∀ (s : State) (d : Dom) (idx : BitVec 32) (r : Run) (t a : Nat) (img : List Byte), s.start.ready (eref d 0 idx) 0xA1 r →
      t = bodyDom (eref d 0 idx) r.bytes 0x10 →
      a = bget r.bytes 0x18 8 →
      img = s.start.image t →
      reservedSet r.bytes [(0x17, 1), (0x28, 24), (0x12, 2), (0x14, 1)] = false →
      s.start.mayCommand d t = true →
      s.start.domFree t = true →
      (s.start.dom t).state = .frozen →
      ((s.start.dom t).kind = .func) →
      img.length ≤ bget r.bytes 0x20 8 →
      exec (.hingeSave d 0 idx) s = .next (s.done (((cutLines a (img.length + 1) img).foldl (fun (m : Mach) (x : Nat × List Byte) => m.agentLine (lineWrite (.hinge (eref d 0 idx)) x.1 x.2) d (d.val == 0) 3 x.2.length) { s.start with hinges := SMap.ins s.start.hinges t { op := 2 } }).setWork (eref d 0 idx) (.save t a img.length false)))) ∧
  (∀ (s : State) (d : Dom) (idx : BitVec 32) (image : List Byte) (r : Run) (h n : Nat) (x : Xlat) (l : List ImgSec), s.start.ready (eref d 0 idx) 0xA2 r →
      h = bodyDom (eref d 0 idx) r.bytes 0x10 →
      reservedSet r.bytes [(0x17, 1), (0x28, 24), (0x14, 1)] = false →
      d.val = 0 ∨ d.val = h →
      h ≠ 0 →
      h < 4096 →
      (s.start.dom h).kind = .host →
      (s.start.dom h).state ≠ .free →
      s.start.check d (d.val == 0) { rd := true } (bget r.bytes 0x18 8) (bget r.bytes 0x20 8) = .allow x →
      ((s.start.domPorts h).any (fun p => (s.start.vfRange p).1 ≤ bget r.bytes 0x12 2 && bget r.bytes 0x12 2 < (s.start.vfRange p).1 + (s.start.vfRange p).2) = true) →
      ((s.start.doms.any fun y => y.2.state != .free && y.2.vf == some (bget r.bytes 0x12 2)) = false) →
      imgCheck (image.take (bget r.bytes 0x20 8)) = .ok l →
      imgCount l 2 = 0 →
      imgCount l 3 = 0 →
      (imgVal l 3).length = 0 →
      imgCount l 6 = 0 →
      s.start.poolUsed ≤ 65536 →
      s.start.sqs.length ≤ 65536 →
      s.start.cqs.length ≤ 65536 →
      (((List.range 4095).find? fun i => (s.start.dom (i + 1)).state == .free) = some n) →
      Completes (.hingeRestore d 0 idx image) s fun t => (t.m.dom (n + 1)).state = .frozen ∧ (t.m.dom (n + 1)).kind = .func ∧ (t.m.dom (n + 1)).parent = h ∧ (t.m.dom (n + 1)).vf = some (bget r.bytes 0x12 2) ∧ (t.m.dom (n + 1)).gen = ((s.start.dom (n + 1)).gen + 1) % 65536) ∧
  (∀ (s : State) (d : Dom) (idx : BitVec 32) (mems : List (Nat × QMem)) (r : Run) (t : Nat) (u : Mach), s.start.ready (eref d 0 idx) 0xA3 r →
      t = bodyDom (eref d 0 idx) r.bytes 0x10 →
      reservedSet r.bytes [(0x17, 1), (0x28, 24), (0x12, 2), (0x14, 1)] = false →
      s.start.mayCommand d t = true →
      s.start.domFree t = true →
      (s.start.dom t).state = .frozen →
      s.start.sqIds t = [] →
      (u = s.start.updDom t fun r => { r with state := .active }) →
      exec (.hingeThaw d 0 idx mems) s = .next (s.done ({ u with frozen := u.frozen.map fun (x : Nat × FrozenThr) => if x.1 / 64 = t then (x.1, { x.2 with resume := true }) else x }.endEntry (eref d 0 idx) {})))

/-- The copy engine's commands complete. A channel goes to the waiting entry whose turn it is, its checks finish, the engines begin and write chunks in
their turn, a chunk with nothing outstanding completes, a poisoned line is written with Poison, and the engine's limits are written. Rules: R427,
R429, R431, R436, R438, R439, R441, R443. -/
def Obligations.CopyEngineCommandsComplete : Prop :=
  (∀ (s : State) (mem : QMem) (d q : Nat), (s.start.nextStart (fun d q => isMover (s.start.frontOp d q)) s.start.cpeLastDom s.start.cpeLast = some (d, q)) →
      exec (.copyChannelAssign mem) s = .next (s.done (s.start.startEntry d q mem))) ∧
  (∀ (s : State) (ch : Fin 256) (c : CopyChan) (b : List Byte) (l : List CopyPiece), s.start.chan ch = some c →
      c.loaded = true →
      c.checking = true →
      c.ending = none →
      c.kind = 1 →
      b = (match s.start.run c.entry with | some r => r.bytes | none => []) →
      copyBad b c = none →
      s.start.piecesFrom c.entry.dom c.needA (c.a + c.len) 640 c.a = .ok l →
      exec (.copyChecksDone ch) s = .next (s.done (s.start.setChan ch { c with piecesA := l, piecesB := [], checking := false, active := true }))) ∧
  (∀ (s : State) (u : Mach) (ch : Nat) (c : CopyChan), (u = s.start.chans.foldl (fun (m : Mach) (x : Nat × CopyChan) => m.copyTake x.1) s.start) →
      (u.nextChan (fun c => c.kind != 1 && u.canBegin c) u.cpeRdDom u.cpeRd = some (ch, c)) →
      exec (.chunkIssue false) s = .next (s.done ({ u with cpeRdDom := c.entry.dom, cpeRd := SMap.set 256 u.cpeRd c.entry.dom ch }.beginChunk ch c))) ∧
  (∀ (s : State) (u : Mach) (ch : Nat) (c : CopyChan) (k : Chunk), (u = s.start.chans.foldl (fun (m : Mach) (x : Nat × CopyChan) => m.copyTake x.1) s.start) →
      (u.nextChan (fun c => (u.writable c c.flight).isSome || (c.kind == 1 && u.canBegin c)) u.cpeWrDom u.cpeWr = some (ch, c)) →
      { u with cpeWrDom := c.entry.dom, cpeWr := SMap.set 256 u.cpeWr c.entry.dom ch }.writable c c.flight = some k →
      exec (.chunkIssue true) s = .next (s.done ({ u with cpeWrDom := c.entry.dom, cpeWr := SMap.set 256 u.cpeWr c.entry.dom ch }.writeChunk ch c k))) ∧
  (∀ (s : State) (ch : Fin 256) (c : CopyChan) (k : Chunk), (s.start.copyTake ch).chan ch = some c →
      (c.flight.find? (fun k => (s.start.copyTake ch).chunkDone c k) = some k) →
      c.kind = 2 →
      exec (.chunkComplete ch) s = .next (s.done (((s.start.copyTake ch).setChan ch (c.finishChunk k)).chanStep ch))) ∧
  (∀ (s : State) (ch : Fin 256) (c : CopyChan) (k : Chunk), (s.start.copyTake ch).chan ch = some c →
      (c.flight.find? (fun k => (s.start.copyTake ch).chunkDone c k) = some k) →
      k.bad = false →
      k.written = true →
      c.kind ≠ 2 →
      exec (.chunkComplete ch) s = .next (s.done ((((s.start.copyTake ch).count (CNT_DOM c.entry.dom 14) k.len).setChan ch (c.finishChunk k)).chanStep ch))) ∧
  (∀ (s : State) (ch : Fin 256) (c : CopyChan) (k : Chunk), (s.start.copyTake ch).chan ch = some c →
      (s.start.copyTake ch).writable c c.flight = some k →
      ((k.lines.any fun x => x.2.2) = true) →
      exec (.poisonCopied ch none) s = .next (s.done ((s.start.copyTake ch).writeChunk ch c k))) ∧
  (∀ (s : State) (v : BitVec 32), exec (.cpeCtrlWrite v) s = .next (s.done (s.start.setReg CPE_CTRL (BitVec.ofNat 64 (v.toNat % 2 ^ 24)))))

/-- Arithmetic and logic instructions write the result of R485. Every function of major opcode 0x00 and every immediate form writes g[RD] with the result
that the rule gives, in a thread and in a route program, and nothing else of the machine changes but the thread's or the program's PC and the retired
instruction's count; a function code that is not listed, and a nonzero RS2 of POPC, CLZ or BSWAP, are reserved and trap as ILLEGAL. Rules: R485. -/
def Obligations.AluInstructionsWriteTheirResult : Prop :=
  (∀ (rd a b : Fin 32), WritesReg (fun w => .opAdd w rd a b) (encA 0x00 rd a b) rd fun src => BitVec.ofNat 64 ((src a).toNat + (src b).toNat)) ∧
  (∀ (rd a b : Fin 32), WritesReg (fun w => .opSub w rd a b) (encA 0x01 rd a b) rd fun src => BitVec.ofInt 64 ((src a).toNat - (src b).toNat : Int)) ∧
  (∀ (rd a b : Fin 32), WritesReg (fun w => .opAnd w rd a b) (encA 0x02 rd a b) rd fun src => src a &&& src b) ∧
  (∀ (rd a b : Fin 32), WritesReg (fun w => .opOr w rd a b) (encA 0x03 rd a b) rd fun src => src a ||| src b) ∧
  (∀ (rd a b : Fin 32), WritesReg (fun w => .opXor w rd a b) (encA 0x04 rd a b) rd fun src => src a ^^^ src b) ∧
  (∀ (rd a b : Fin 32), WritesReg (fun w => .shl w rd a b) (encA 0x05 rd a b) rd fun src => src a <<< (src b &&& 63)) ∧
  (∀ (rd a b : Fin 32), WritesReg (fun w => .shr w rd a b) (encA 0x06 rd a b) rd fun src => src a >>> (src b &&& 63)) ∧
  (∀ (rd a b : Fin 32), WritesReg (fun w => .sar w rd a b) (encA 0x07 rd a b) rd fun src => (src a).sshiftRight (src b &&& 63).toNat) ∧
  (∀ (rd a b : Fin 32), WritesReg (fun w => .mul w rd a b) (encA 0x08 rd a b) rd fun src => BitVec.ofNat 64 ((src a).toNat * (src b).toNat)) ∧
  (∀ (rd a b : Fin 32), WritesReg (fun w => .mulh w rd a b) (encA 0x09 rd a b) rd fun src => BitVec.ofInt 64 ((src a).toInt * (src b).toInt / 2 ^ 64)) ∧
  (∀ (rd a b : Fin 32), WritesReg (fun w => .opMin w rd a b) (encA 0x0A rd a b) rd fun src => if (src a).toInt < (src b).toInt then src a else src b) ∧
  (∀ (rd a b : Fin 32), WritesReg (fun w => .opMax w rd a b) (encA 0x0B rd a b) rd fun src => if (src a).toInt < (src b).toInt then src b else src a) ∧
  (∀ (rd a b : Fin 32), WritesReg (fun w => .minu w rd a b) (encA 0x0C rd a b) rd fun src => if (src a).toNat < (src b).toNat then src a else src b) ∧
  (∀ (rd a b : Fin 32), WritesReg (fun w => .maxu w rd a b) (encA 0x0D rd a b) rd fun src => if (src a).toNat < (src b).toNat then src b else src a) ∧
  (∀ (rd a : Fin 32), WritesReg (fun w => .popc w rd a) (encA 0x10 rd a 0) rd fun src => BitVec.ofNat 64 ((List.range 64).countP fun i => (src a).getLsbD i)) ∧
  (∀ (rd a : Fin 32), WritesReg (fun w => .clz w rd a) (encA 0x11 rd a 0) rd fun src => BitVec.ofNat 64 (((List.range 64).takeWhile fun i => !(src a).getLsbD (63 - i)).length)) ∧
  (∀ (rd a : Fin 32), WritesReg (fun w => .bswap w rd a) (encA 0x12 rd a 0) rd fun src => BitVec.ofNat 64 (((List.range 8).map fun i => (src a).toNat / 2 ^ (8 * i) % 256 * 2 ^ (8 * (7 - i))).sum)) ∧
  (∀ (rd a : Fin 32) (imm : BitVec 16), WritesReg (fun w => .addi w rd a imm) (encI 0x01 rd a imm.toNat) rd fun src => src a + imm.signExtend 64) ∧
  (∀ (rd a : Fin 32) (imm : BitVec 16), WritesReg (fun w => .andi w rd a imm) (encI 0x02 rd a imm.toNat) rd fun src => src a &&& imm.zeroExtend 64) ∧
  (∀ (rd a : Fin 32) (imm : BitVec 16), WritesReg (fun w => .ori w rd a imm) (encI 0x03 rd a imm.toNat) rd fun src => src a ||| imm.zeroExtend 64) ∧
  (∀ (rd a : Fin 32) (imm : BitVec 16), WritesReg (fun w => .xori w rd a imm) (encI 0x04 rd a imm.toNat) rd fun src => src a ^^^ imm.zeroExtend 64) ∧
  (∀ (rd a : Fin 32) (sh : Fin 64), WritesReg (fun w => .shli w rd a sh) (encI 0x05 rd a sh.val) rd fun src => src a <<< sh.val) ∧
  (∀ (rd a : Fin 32) (sh : Fin 64), WritesReg (fun w => .shri w rd a sh) (encI 0x05 rd a (64 + sh.val)) rd fun src => src a >>> sh.val) ∧
  (∀ (rd a : Fin 32) (sh : Fin 64), WritesReg (fun w => .sari w rd a sh) (encI 0x05 rd a (128 + sh.val)) rd fun src => (src a).sshiftRight sh.val) ∧
  (∀ (rd : Fin 32) (imm : BitVec 16), WritesReg (fun w => .lui w rd imm) (encI 0x06 rd 0 imm.toNat) rd fun _ => imm.zeroExtend 64 <<< 16) ∧
  (∀ (rd a : Fin 32) (imm : BitVec 16), WritesReg (fun w => .lih w rd a imm) (encI 0x07 rd a imm.toNat) rd fun src => (src a &&& 0x0000FFFFFFFFFFFF) ||| (imm.zeroExtend 64 <<< 48)) ∧
  (∀ (s : State) (th : Thr) (t : Thread) (w : Nat), s.start.fetches th w t →
      w / 2 ^ 26 = 0 →
      (w % 64 = 14 ∨ w % 64 = 15 ∨ 18 < w % 64) ∨ (16 ≤ w % 64 ∧ w / 2 ^ 11 % 32 ≠ 0) →
      exec (.threadTrap th none) s = .next (s.done (s.start.trap th .illegal 0 0xFF 0)))

/-- CMP and CMPI write the condition of R486. CMP writes p[PD] with the condition of its COND and CMPI with that of its own code, on src(RS1) and src(RS2)
or the sign-extended immediate, in a thread and in a route program; COND 7 is reserved and a thread that meets it traps as ILLEGAL. Rules: R486. -/
def Obligations.CompareInstructionsWriteTheirPredicate : Prop :=
  (∀ (pd : Fin 8) (a b : Fin 32) (f : Word → Word → Bool) (c : Fin 8), (c, f) ∈ ([(0, fun x y => x.toNat == y.toNat), (1, fun x y => x.toNat != y.toNat), (2, fun x y => decide (x.toInt < y.toInt)),
  (3, fun x y => decide (y.toInt ≤ x.toInt)), (4, fun x y => decide (x.toNat < y.toNat)), (5, fun x y => decide (y.toNat ≤ x.toNat)), (6, fun x y => x &&& y != 0)] : List (Fin 8 × (Word → Word → Bool))) →
  WritesPred (fun w => .cmp w pd a b c) (encP 0x08 pd a (b.val * 2 ^ 11 + c)) pd fun src => f (src a) (src b)) ∧
  (∀ (pd : Fin 8) (a : Fin 32) (imm : BitVec 16) (f : Word → Word → Bool) (c : Fin 4), (c, f) ∈ ([(0, fun x y => x.toNat == y.toNat), (1, fun x y => x.toNat != y.toNat), (2, fun x y => decide (x.toInt < y.toInt)),
  (3, fun x y => decide (x.toNat < y.toNat))] : List (Fin 4 × (Word → Word → Bool))) →
  WritesPred (fun w => .cmpi w pd a imm c) (encP 0x09 pd a (c.val * 2 ^ 21 + imm.toNat)) pd fun src => f (src a) (imm.signExtend 64)) ∧
  (∀ (s : State) (th : Thr) (t : Thread) (pd : Fin 8) (a b : Fin 32), s.start.fetches th (encP 0x08 pd a (b.val * 2 ^ 11 + 7)) t →
      exec (.cmp (.thread th) pd a b 7) s = .next (s.done (s.start.trap th .illegal 0 0xFF 0)))

/-- A thread's loads, stores, line transfers, atomics and table writes complete. An aligned access within its space reads or writes exactly the bytes that
its effective address and size name; a DM load, an FM load and an FM atomic hold the thread until the answer, which then writes the register; an
allowed FM store goes out and the thread goes on. Rules: R450, R487, R488, R489, R490, R483, R494. -/
def Obligations.ThreadMemoryInstructionsComplete : Prop :=
  (∀ (s : State) (th : Thr) (rd rb : Fin 32) (size : Fin 4) (off : BitVec 12) (t : Thread) (a n : Nat), s.start.fetches th (encM 0x10 rd rb 0 size off) t →
      a = (t.reg rb + off.signExtend 64).toNat →
      n = 2 ^ size.val →
      a % n = 0 →
      a + n ≤ t.win →
      exec (.ld th rd rb 0 size off) s = .next (s.done ((s.start.coreCount th 3 1).next th (t.setReg rd (BitVec.ofNat 64 (Mem.read (s.start.scratch th) (t.base + a) n)))))) ∧
  (∀ (s : State) (th : Thr) (rd rb : Fin 32) (size : Fin 4) (off : BitVec 12) (t : Thread) (a n : Nat), s.start.fetches th (encM 0x10 rd rb 1 size off) t →
      a = (t.reg rb + off.signExtend 64).toNat →
      n = 2 ^ size.val →
      a % n = 0 →
      a + n ≤ s.start.dmLimit t →
      exec (.ld th rd rb 1 size off) s = .next (s.done ((s.start.coreCount th 4 1).setThr th { t with hold := some (.ld false rd n a) }))) ∧
  (∀ (s : State) (th : Thr) (rd rb : Fin 32) (size : Fin 4) (off : BitVec 12) (t : Thread) (a n : Nat) (r : Req), s.start.fetches th (encM 0x10 rd rb 2 size off) t →
      a = (t.reg rb + off.signExtend 64).toNat →
      n = 2 ^ size.val →
      a % n = 0 →
      t.writing a n = false →
      r = { src := .thread th.val, kind := .ncRead, addr := a } →
      s.start.fmCheck th t r n = none →
      exec (.ld th rd rb 2 size off) s = .next (s.done (((s.start.coreCount th 5 1).setThr th { t with hold := some (.ld true rd n a) }).agentLine r t.fmDom t.manager t.fmKind n))) ∧
  (∀ (s : State) (th : Thr) (rd rb : Fin 32) (size : Fin 4) (off : BitVec 12) (t : Thread) (a n : Nat), s.start.fetches th (encM 0x10 rd rb 3 size off) t →
      t.manager = true →
      a = (t.reg rb + off.signExtend 64).toNat →
      n = 2 ^ size.val →
      a % n = 0 →
      a + n ≤ 0x80000 →
      exec (.ld th rd rb 3 size off) s = .next (s.done (s.start.next th (t.setReg rd (BitVec.ofNat 64 (Mem.read s.start.tbl a n)))))) ∧
  (∀ (s : State) (th : Thr) (rs rb : Fin 32) (size : Fin 4) (off : BitVec 12) (t : Thread) (a n : Nat), s.start.fetches th (encM 0x11 rs rb 0 size off) t →
      a = (t.reg rb + off.signExtend 64).toNat →
      n = 2 ^ size.val →
      a % n = 0 →
      a + n ≤ t.win →
      exec (.st th rs rb 0 size off) s = .next (s.done (((s.start.coreCount th 3 1).setScratch th (Mem.write (s.start.scratch th) (t.base + a) n (t.reg rs).toNat)).next th t))) ∧
  (∀ (s : State) (th : Thr) (rs rb : Fin 32) (size : Fin 4) (off : BitVec 12) (t : Thread) (a n : Nat), s.start.fetches th (encM 0x11 rs rb 1 size off) t →
      a = (t.reg rb + off.signExtend 64).toNat →
      n = 2 ^ size.val →
      a % n = 0 →
      a + n ≤ s.start.dmLimit t →
      s.start.dmGuarded t a n = false →
      exec (.st th rs rb 1 size off) s = .next (s.done ({ s.start.coreCount th 4 1 with ddr := Mem.write s.start.ddr (s.start.dmAt t a) n (t.reg rs).toNat }.next th t))) ∧
  (∀ (s : State) (th : Thr) (rs rb : Fin 32) (size : Fin 4) (off : BitVec 12) (t : Thread) (a n : Nat) (r : Req), s.start.fetches th (encM 0x11 rs rb 2 size off) t →
      a = (t.reg rb + off.signExtend 64).toNat →
      n = 2 ^ size.val →
      a % n = 0 →
      t.outW.length < 32 →
      r = lineWrite (.thread th.val) a (leBytes n (t.reg rs).toNat) →
      s.start.fmCheck th t r n = none →
      exec (.st th rs rb 2 size off) s = .next (s.done (((s.start.coreCount th 5 1).next th { t with outW := t.outW ++ [a / 64 * 64] }).agentLine r t.fmDom t.manager t.fmKind n))) ∧
  (∀ (s : State) (th : Thr) (rl rb : Fin 32) (n : Fin 4) (off : BitVec 12) (t : Thread) (far ls len : Nat), s.start.fetches th (encM 0x13 rl rb 1 n off) t →
      far = (t.reg rb + off.signExtend 64).toNat →
      ls = (t.reg rl).toNat →
      len = 64 * 2 ^ n.val →
      far % len = 0 →
      ls % 64 = 0 →
      ls + len ≤ t.win →
      far + len ≤ s.start.dmLimit t →
      exec (.fld th rl rb 1 n off) s = .next (s.done (((s.start.coreCount th 3 (len / 64)).coreCount th 4 (len / 64)).setThr th { t with hold := some (.fld false ls len far) }))) ∧
  (∀ (s : State) (th : Thr) (rl rb : Fin 32) (n : Fin 4) (off : BitVec 12) (t : Thread) (far ls len : Nat) (r : Req), s.start.fetches th (encM 0x13 rl rb 2 n off) t →
      far = (t.reg rb + off.signExtend 64).toNat →
      ls = (t.reg rl).toNat →
      len = 64 * 2 ^ n.val →
      far % len = 0 →
      ls % 64 = 0 →
      ls + len ≤ t.win →
      t.writing far len = false →
      r = { src := .thread th.val, kind := .ncRead, addr := far } →
      s.start.fmCheck th t r len = none →
      exec (.fld th rl rb 2 n off) s = .next (s.done ((lineAddrs far len).foldl (fun m a => m.agentLine { r with addr := a } t.fmDom t.manager t.fmKind 64) (((s.start.coreCount th 3 (len / 64)).coreCount th 5 (len / 64)).setThr th { t with hold := some (.fld true ls len far) })))) ∧
  (∀ (s : State) (th : Thr) (rl rb : Fin 32) (n : Fin 4) (off : BitVec 12) (t : Thread) (far ls len : Nat), s.start.fetches th (encM 0x14 rl rb 1 n off) t →
      far = (t.reg rb + off.signExtend 64).toNat →
      ls = (t.reg rl).toNat →
      len = 64 * 2 ^ n.val →
      far % len = 0 →
      ls % 64 = 0 →
      ls + len ≤ t.win →
      far + len ≤ s.start.dmLimit t →
      s.start.dmGuarded t far len = false →
      exec (.fst th rl rb 1 n off) s = .next (s.done ({ (s.start.coreCount th 3 (len / 64)).coreCount th 4 (len / 64) with ddr := Mem.blit s.start.ddr (s.start.dmAt t far) len (s.start.scratch th) (t.base + ls) }.next th t))) ∧
  (∀ (s : State) (th : Thr) (rl rb : Fin 32) (n : Fin 4) (off : BitVec 12) (t : Thread) (far ls len : Nat), s.start.fetches th (encM 0x14 rl rb 2 n off) t →
      far = (t.reg rb + off.signExtend 64).toNat →
      ls = (t.reg rl).toNat →
      len = 64 * 2 ^ n.val →
      far % len = 0 →
      ls % 64 = 0 →
      ls + len ≤ t.win →
      t.outW.length + len / 64 ≤ 32 →
      s.start.fmCheck th t { src := .thread th.val, kind := .ncWrite true, addr := far } len = none →
      exec (.fst th rl rb 2 n off) s = .next (s.done ((lineAddrs far len).foldl (fun m a => m.agentLine (lineWrite (.thread th.val) a (Mem.readBytes (m.scratch th) (t.base + ls + (a - far)) 64)) t.fmDom t.manager t.fmKind 64) (((s.start.coreCount th 3 (len / 64)).coreCount th 5 (len / 64)).next th { t with outW := t.outW ++ lineAddrs far len })))) ∧
  (∀ (s : State) (th : Thr) (rd rb ra rc : Fin 32) (op : Fin 16) (size : Fin 4) (t : Thread) (a n va vc : Nat) (r : Req), s.start.fetches th (encI 0x15 rd rb (ra.val * 2 ^ 11 + rc.val * 2 ^ 6 + op.val * 4 + size)) t →
      a = (t.reg rb).toNat →
      n = 4 * 2 ^ size.val →
      (op.val ≤ 9 ∧ n ≤ 8) ∨ (op.val = 9 ∧ n = 16 ∧ rd.val % 2 = 0 ∧ ra.val % 2 = 0 ∧ rc.val % 2 = 0) →
      a % n = 0 →
      t.writing a n = false →
      (va = (if n = 16 then (t.reg ra).toNat + 2 ^ 64 * (t.reg (ra.val + 1)).toNat else (t.reg ra).toNat % 2 ^ (8 * n))) →
      (vc = (if n = 16 then (t.reg rc).toNat + 2 ^ 64 * (t.reg (rc.val + 1)).toNat else (t.reg rc).toNat % 2 ^ (8 * n))) →
      r = { src := .thread th.val, kind := .atomic op n va vc, addr := a, len := n } →
      s.start.fmCheck th t r n = none →
      exec (.fat th rd rb ra rc op size) s = .next (s.done (((s.start.coreCount th 5 1).setThr th { t with hold := some (.fat rd n a) }).agentReq r t.fmDom t.manager t.fmKind))) ∧
  (∀ (s : State) (th : Thr) (t : Thread) (rd n a : Nat), (s.start.threadTake th).thr th = some t →
      (s.start.threadTake th).staleThread t = false →
      t.hold = some (.ld false rd n a) →
      (s.start.threadTake th).ddrBadAt ((s.start.threadTake th).dmAt t a) n = false →
      exec (.threadAccessComplete th false) s = .next (s.done ((s.start.threadTake th).next th (t.setReg rd (BitVec.ofNat 64 (Mem.read s.start.ddr (s.start.dmAt t a) n)))))) ∧
  (∀ (s : State) (th : Thr) (ecc : Bool) (t : Thread) (rd n a v : Nat) (x : AgentDone) (l : List AgentDone) (b : Nat), (s.start.threadTake th).thr th = some t →
      (s.start.threadTake th).staleThread t = false →
      t.hold = some (.ld true rd n a) →
      t.got = x :: l →
      x.trap = none →
      x.rsp = .data v false b →
      exec (.threadAccessComplete th ecc) s = .next (s.done ((s.start.threadTake th).next th (t.setReg rd (BitVec.ofNat 64 (v / 2 ^ (8 * (a % 64)) % 2 ^ (8 * n))))))) ∧
  (∀ (s : State) (th : Thr) (t : Thread) (ls n far : Nat), (s.start.threadTake th).thr th = some t →
      (s.start.threadTake th).staleThread t = false →
      t.hold = some (.fld false ls n far) →
      (s.start.threadTake th).ddrBadAt ((s.start.threadTake th).dmAt t far) n = false →
      exec (.threadAccessComplete th false) s = .next (s.done (((s.start.threadTake th).setScratch th (Mem.blit (s.start.scratch th) (t.base + ls) n s.start.ddr (s.start.dmAt t far))).next th t))) ∧
  (∀ (s : State) (th : Thr) (ecc : Bool) (t : Thread) (rd n a v : Nat) (x : AgentDone) (l : List AgentDone) (b : Nat), (s.start.threadTake th).thr th = some t →
      (s.start.threadTake th).staleThread t = false →
      t.hold = some (.fat rd n a) →
      t.got = x :: l →
      x.trap = none →
      x.rsp = .data v false b →
      exec (.threadAccessComplete th ecc) s = .next (s.done ((s.start.threadTake th).next th (if n = 16 then (t.setReg rd (BitVec.ofNat 64 v)).setReg (rd + 1) (BitVec.ofNat 64 (v / 2 ^ 64)) else t.setReg rd (BitVec.ofNat 64 (v % 2 ^ (8 * min n 8))))))) ∧
  (∀ (s : State) (th : Thr) (rs rb : Fin 32) (imm : BitVec 16) (t : Thread) (a : Nat), s.start.fetches th (encI 0x21 rs rb imm.toNat) t →
      t.manager = true →
      a = (t.reg rb + imm.zeroExtend 64).toNat →
      a % 8 = 0 →
      a < 0x80000 →
      exec (.twr th rs rb imm) s = .next (s.done ({ s.start with tbl := Mem.write s.start.tbl a 8 (t.reg rs).toNat }.next th t)))

/-- Branches, jumps, fences, waits and the end of a thread complete. BR, JAL and JR set PC and the link register; NOP goes on; FENCE holds the thread
until its writes have completed, CFENCE starts a rule fence; WAIT holds until an event of its mask is pending and writes the events; TRAP and a spent
budget trap; HALT ends the thread once its writes have completed; SELF_TIMER expires and the trap record is cleared. Rules: R491, R492, R493, R500,
R466, R468, R470. -/
def Obligations.ControlInstructionsComplete : Prop :=
  (∀ (s : State) (th : Thr) (neg : Bool) (p : Fin 8) (off : BitVec 20) (t : Thread), (s.start.fetches th (0x18 * 2 ^ 26 + (if neg then 2 ^ 25 else 0) + p.val * 2 ^ 22 + off.toNat) t) →
      exec (.br (.thread th) neg p off) s = .next (s.done (s.start.retire th { t with pc := if t.pr p != neg then (BitVec.ofNat 64 t.pc + off.signExtend 64 * 4).toNat else t.pc + 4 }))) ∧
  (∀ (s : State) (q : Port) (neg : Bool) (p : Fin 8) (off : BitVec 20) (x : Pipe) (rest : List Pipe), (s.start.piped q (0x18 * 2 ^ 26 + (if neg then 2 ^ 25 else 0) + p.val * 2 ^ 22 + off.toNat) x rest) →
      exec (.br (.pipe q) neg p off) s = .next (s.done ({ s.start with pipes := SMap.ins s.start.pipes q ({ x with pc := if x.pr p != neg then x.pc + off.toNat else x.pc + 1 } :: rest) }))) ∧
  (∀ (s : State) (th : Thr) (rd : Fin 32) (off : BitVec 20) (t : Thread), s.start.fetches th (0x19 * 2 ^ 26 + rd.val * 2 ^ 21 + off.toNat) t →
      exec (.jal th rd off) s = .next (s.done (s.start.retire th { t.setReg rd (BitVec.ofNat 64 (t.pc + 4)) with pc := (BitVec.ofNat 64 t.pc + off.signExtend 64 * 4).toNat }))) ∧
  (∀ (s : State) (th : Thr) (rd rs : Fin 32) (t : Thread), s.start.fetches th (encI 0x1A rd rs 0) t →
      (t.reg rs).toNat % 4 = 0 →
      exec (.jr th rd rs) s = .next (s.done (s.start.retire th { t.setReg rd (BitVec.ofNat 64 (t.pc + 4)) with pc := (t.reg rs).toNat }))) ∧
  (∀ (s : State) (th : Thr) (imm : BitVec 16) (t : Thread), s.start.fetches th (0x3E * 2 ^ 26 + imm.toNat) t →
      exec (.trap th imm) s = .next (s.done (s.start.trap th .trap 0 0xFF imm.toNat))) ∧
  (∀ (s : State) (th : Thr) (t : Thread), s.start.fetches th (0x3F * 2 ^ 26) t →
      exec (.nopInstr (.thread th)) s = .next (s.done (s.start.next th t))) ∧
  (∀ (s : State) (p : Port) (x : Pipe) (rest : List Pipe), s.start.piped p (0x3F * 2 ^ 26) x rest →
      exec (.nopInstr (.pipe p)) s = .next (s.done (s.start.pipeGoes p x rest))) ∧
  (∀ (s : State) (th : Thr) (t : Thread), s.start.fetches th (0x3F * 2 ^ 26 + 1) t →
      t.outW = [] →
      t.fails = [] →
      exec (.halt th) s = .next (s.done ((s.start.setThr th { t with hold := some .halt }).haltEnd th { t with hold := some .halt }))) ∧
  (∀ (s : State) (th : Thr) (t : Thread), s.start.fetches th (0x3F * 2 ^ 26 + 1) t →
      t.outW ≠ [] →
      exec (.halt th) s = .next (s.done (s.start.setThr th { t with hold := some .halt }))) ∧
  (∀ (s : State) (th : Thr) (rs : Fin 32) (t : Thread), s.start.fetches th (0x2C * 2 ^ 26 + rs.val * 2 ^ 16) t →
      t.outW = [] →
      t.fails = [] →
      exec (.fenceMemInstr th rs) s = .next (s.done ((s.start.setThr th { t with hold := some (.fence none) }).next th t))) ∧
  (∀ (s : State) (th : Thr) (rs : Fin 32) (t : Thread), s.start.fetches th (0x2C * 2 ^ 26 + rs.val * 2 ^ 16) t →
      t.outW ≠ [] →
      exec (.fenceMemInstr th rs) s = .next (s.done (s.start.setThr th { t with hold := some (.fence none) }))) ∧
  (∀ (s : State) (th : Thr) (rs : Fin 32) (t : Thread), s.start.fetches th (0x2C * 2 ^ 26 + 2 ^ 24 + rs.val * 2 ^ 16) t →
      exec (.cfence th rs) s = .next (s.done ((s.start.setThr th { t with hold := some .rule }).fence (if t.manager then (if (t.reg rs).getLsbD 16 then none else some ((t.reg rs).toNat % 4096)) else some t.dom) none (some th.val)))) ∧
  (∀ (s : State) (th : Thr) (rs : Fin 32) (t : Thread), s.start.fetches th (0x2C * 2 ^ 26 + 2 * 2 ^ 24 + rs.val * 2 ^ 16) t →
      t.outW = [] →
      t.fails = [] →
      exec (.fenceAllInstr th rs) s = .next (s.done (((s.start.setThr th { t with hold := some (.fence (some (t.fenceDom rs))) }).setThr th { t with hold := some .rule }).fence (t.fenceDom rs) none (some th.val)))) ∧
  (∀ (s : State) (th : Thr) (rd : Fin 32) (mask : BitVec 8) (t : Thread), s.start.fetches th (0x2D * 2 ^ 26 + rd.val * 2 ^ 21 + mask.toNat) t →
      0 < mask.toNat →
      mask.toNat < 32 →
      t.manager = true ∨ mask.toNat < 8 →
      exec (.wait th rd mask) s = .next (s.done ((s.start.setThr th { t with hold := some (.wait mask.toNat rd) }).waitStep th))) ∧
  (∀ (s : State) (th : Thr) (t : Thread) (mask rd e : Nat), s.start.thr th = some t →
      s.start.staleThread t = false →
      t.hold = some (.wait mask rd) →
      e = s.start.pendingEvents t &&& mask →
      e ≠ 0 →
      exec (.waitReturn th) s = .next (s.done (s.start.next th { t.setReg rd (BitVec.ofNat 64 e) with pps := if bit e 3 then false else t.pps }))) ∧
  (∀ (s : State) (th : Thr) (t : Thread), s.start.thr th = some t →
      t.running = true →
      t.hold = none →
      s.start.overBudget t = true →
      exec (.budget th) s = .next (s.done (s.start.trap th .budget 0 0xFF 0))) ∧
  (∀ (s : State) (th : Thr) (t : Thread), s.start.thr th = some t →
      s.start.timerLeft t = 0 →
      exec (.selfTimerExpiry th) s = .next (s.done (s.start.setThr th { t with timer := 0 }))) ∧
  (∀ (s : State) (th : Thr) (v : BitVec 32) (t : Thread), s.start.thr th = some t →
      v.getLsbD 0 = true →
      exec (.selfTrecClr th v) s = .next (s.done (s.start.setThr th { t with trec := { t.trec with valid := false } })))

/-- Queue, register, message and time instructions complete. QPOST writes the entry, its OWN bit last, the tail shadow and the doorbell and sets PD, or
clears PD where the queue cannot take it; QFETCH takes the next CQ entry; DBELL acts as its doorbell; CSR instructions read, write, set and clear a
register; SEND and RECV pass a message in order; TBR reads the timebase. Rules: R495, R496, R497, R498, R499, R501, R502, R467, R394. -/
def Obligations.QueueAndMessageInstructionsComplete : Prop :=
  (∀ (s : State) (th : Thr) (pd : Fin 8) (re rq : Fin 32) (tl : Nat) (mem : QMem) (t : Thread) (d a id dw len : Nat) (q : Sq), s.start.fetches th (encP 0x24 pd re (rq.val * 2 ^ 11)) t →
      s.start.selDom t (t.reg rq) = some d →
      a = (t.reg re).toNat →
      id = (t.reg rq).toNat % 64 →
      a % 32 = 0 →
      dw = s.start.word th t a →
      len = dw / 2 ^ 24 % 16 →
      1 ≤ len →
      len ≤ 8 →
      a + 32 * len ≤ t.win →
      s.start.sq d id = some q →
      q.error = false →
      tl % q.size + len ≤ q.size →
      u32sub (tl + len) q.head ≤ q.size →
      exec (.qpost th pd re rq (some tl) mem) s = .next (s.done (((((((s.start.coreCount th 3 1).qWrite d (q.at (u32 tl) + 4) (Mem.readBytes ((s.start.coreCount th 3 1).scratch th) (t.base + a + 4) (32 * len - 4))).qWrite d (q.at (u32 tl)) (leBytes 4 (dw % 2 ^ 31 + 2 ^ 31))).qWrite d q.tailSh (leBytes 4 (u32 (u32 tl + len)))).tailBell d id mem).next th (t.setPr pd true))))) ∧
  (∀ (s : State) (th : Thr) (pd : Fin 8) (re rq : Fin 32) (tail : Option Nat) (mem : QMem) (t : Thread) (d : Nat), s.start.fetches th (encP 0x24 pd re (rq.val * 2 ^ 11)) t →
      s.start.selDom t (t.reg rq) = some d →
      (t.reg re).toNat % 32 = 0 →
      (t.reg re).toNat + 4 ≤ t.win →
      s.start.sq d ((t.reg rq).toNat % 64) = none →
      exec (.qpost th pd re rq tail mem) s = .next (s.done (s.start.next th (t.setPr pd false)))) ∧
  (∀ (s : State) (th : Thr) (pd : Fin 8) (rd rq : Fin 32) (h : Nat) (e : BitVec 128) (t : Thread) (d id : Nat) (c : Cq), s.start.fetches th (encP 0x25 pd rd (rq.val * 2 ^ 11)) t →
      rd.val ≠ 31 →
      s.start.selDom t (t.reg rq) = some d →
      id = (t.reg rq).toNat % 64 →
      s.start.cqOf d id = some c →
      c.idx ≠ u32 h →
      exec (.qfetch th pd rd rq (some h) (some e)) s = .next (s.done (((s.start.qWrite d c.headSh (leBytes 4 (u32 (h + 1)))).headBell d id (some (h + 1))).next th ((((({ t with watch := some (d * 64 + id) } : Thread).setReg rd (e.truncate 64)).setReg (rd.val + 1) ((e >>> 64).truncate 64))).setPr pd true)))) ∧
  (∀ (s : State) (th : Thr) (pd : Fin 8) (rd rq : Fin 32) (h : Nat) (ent : Option (BitVec 128)) (t : Thread) (d id : Nat) (c : Cq), s.start.fetches th (encP 0x25 pd rd (rq.val * 2 ^ 11)) t →
      rd.val ≠ 31 →
      s.start.selDom t (t.reg rq) = some d →
      id = (t.reg rq).toNat % 64 →
      s.start.cqOf d id = some c →
      c.idx = u32 h →
      exec (.qfetch th pd rd rq (some h) ent) s = .next (s.done ((s.start.cqHead d id (some h)).next th (({ t with watch := some (d * 64 + id) } : Thread).setPr pd false)))) ∧
  (∀ (s : State) (th : Thr) (rq rv : Fin 32) (mem : QMem) (t : Thread) (d : Nat), s.start.fetches th (encI 0x26 rv rq 0) t →
      s.start.selDom t (t.reg rq) = some d →
      exec (.dbellSqTail th rq rv mem) s = .next (s.done ((s.start.tailBell d ((t.reg rq).toNat % 64) mem).next th t))) ∧
  (∀ (s : State) (th : Thr) (rq rv : Fin 32) (head : Option Nat) (t : Thread) (d : Nat), s.start.fetches th (encI 0x26 rv rq 1) t →
      s.start.selDom t (t.reg rq) = some d →
      exec (.dbellCqHead th rq rv head) s = .next (s.done ((s.start.headBell d ((t.reg rq).toNat % 64) head).next th t))) ∧
  (∀ (s : State) (th : Thr) (rq rv : Fin 32) (mem : QMem) (t : Thread) (d i n : Nat), s.start.fetches th (encI 0x26 rv rq 2) t →
      s.start.selDom t (t.reg rq) = some d →
      i = (t.reg rq).toNat % 64 →
      (s.start.sq d i).isSome = true →
      n = (t.reg rv).toNat % 2 ^ 32 →
      exec (.dbellInvalidate th rq rv mem) s = .next (s.done (((s.start.invalidate d i n mem).1.updQif d fun x => { x with inval := (s.start.invalidate d i n mem).2 }).next th (t.setReg rv (BitVec.ofNat 64 (s.start.invalidate d i n mem).2))))) ∧
  (∀ (s : State) (th : Thr) (rd rb : Fin 32) (imm : BitVec 16) (t : Thread) (a n : Nat), s.start.fetches th (encI 0x28 rd rb imm.toNat) t →
      imm.getLsbD 1 = false →
      a = (t.reg rb + (imm &&& 0xFFFC).zeroExtend 64).toNat →
      (n = (if imm.getLsbD 0 then 8 else 4)) →
      s.start.csrMay t a n false = true →
      a % n = 0 →
      exec (.csrrd th rd rb imm) s = .next (s.after ((s.start.barRead s.latch (.thread th) a (imm.getLsbD 0)).2.csrDone th rd (BitVec.ofNat 64 (s.start.barRead s.latch (.thread th) a (imm.getLsbD 0)).1)))) ∧
  (∀ (s : State) (th : Thr) (rs rb : Fin 32) (imm : BitVec 16) (mem : QMem) (t : Thread) (a n : Nat), s.start.fetches th (encI 0x29 rs rb imm.toNat) t →
      imm.getLsbD 1 = false →
      a = (t.reg rb + (imm &&& 0xFFFC).zeroExtend 64).toNat →
      (n = (if imm.getLsbD 0 then 8 else 4)) →
      s.start.csrMay t a n true = true →
      a % n = 0 →
      exec (.csrwr th rs rb imm mem) s = .next (s.after ((s.start.barWrite s.latch (.thread th) a (imm.getLsbD 0) (t.reg rs).toNat mem).csrDone th 0 0))) ∧
  (∀ (s : State) (th : Thr) (rm rb : Fin 32) (imm : BitVec 16) (mem : QMem) (t : Thread) (a n old : Nat) (m' : Mach), s.start.fetches th (encI 0x2A rm rb (imm &&& ~~~2).toNat) t →
      a = (t.reg rb + (imm &&& 0xFFFC).zeroExtend 64).toNat →
      (n = (if imm.getLsbD 0 then 8 else 4)) →
      s.start.csrMay t a n true = true →
      a % n = 0 →
      s.start.barRead s.latch (.thread th) a (imm.getLsbD 0) = (old, m') →
      exec (.csrset th rm rb imm mem) s = .next (s.after ((m'.barWrite s.latch (.thread th) a (imm.getLsbD 0) (BitVec.ofNat 64 old ||| t.reg rm).toNat mem).csrDone th rm (BitVec.ofNat 64 old)))) ∧
  (∀ (s : State) (th : Thr) (rm rb : Fin 32) (imm : BitVec 16) (mem : QMem) (t : Thread) (a n old : Nat) (m' : Mach), s.start.fetches th (encI 0x2A rm rb (imm ||| 2).toNat) t →
      a = (t.reg rb + (imm &&& 0xFFFC).zeroExtend 64).toNat →
      (n = (if imm.getLsbD 0 then 8 else 4)) →
      s.start.csrMay t a n true = true →
      a % n = 0 →
      s.start.barRead s.latch (.thread th) a (imm.getLsbD 0) = (old, m') →
      exec (.csrclr th rm rb imm mem) s = .next (s.after ((m'.barWrite s.latch (.thread th) a (imm.getLsbD 0) (BitVec.ofNat 64 old &&& ~~~t.reg rm).toNat mem).csrDone th rm (BitVec.ofNat 64 old)))) ∧
  (∀ (s : State) (th : Thr) (pd : Fin 8) (rt ra rb : Fin 32) (t u : Thread) (x : Nat), s.start.fetches th (encP 0x2E pd rt (ra.val * 2 ^ 11 + rb.val * 2 ^ 6)) t →
      t.manager = true →
      x = (t.reg rt).toNat →
      x < 256 →
      s.start.thr x = some u →
      u.running = true →
      u.inbox.length < 8 →
      exec (.send th pd rt ra rb) s = .next (s.done ((s.start.next th (t.setPr pd true)).updThr x fun u => { u with inbox := u.inbox ++ [{ a := t.reg ra, b := t.reg rb, sender := th.val, mgr := true }] }))) ∧
  (∀ (s : State) (th : Thr) (pd : Fin 8) (rt ra rb : Fin 32) (t : Thread) (k : Nat) (u : Thread), s.start.fetches th (encP 0x2E pd rt (ra.val * 2 ^ 11 + rb.val * 2 ^ 6)) t →
      t.manager = false →
      (t.reg rt).toNat < 64 →
      (s.start.threads.find? (fun e => !e.2.manager && e.2.dom == t.dom && e.2.local_ == (t.reg rt).toNat && e.2.running) = some (k, u)) →
      ((s.start.thr k).any (fun u => u.inbox.length < 8) = true) →
      exec (.send th pd rt ra rb) s = .next (s.done ((s.start.next th (t.setPr pd true)).updThr k fun u => { u with inbox := u.inbox ++ [{ a := t.reg ra, b := t.reg rb, sender := t.local_, mgr := false }] }))) ∧
  (∀ (s : State) (th : Thr) (pd : Fin 8) (rd : Fin 32) (t : Thread) (x : BMsg) (rest : List BMsg), s.start.fetches th (encP 0x2E pd rd 1) t →
      rd.val ≤ 29 →
      t.inbox = x :: rest →
      exec (.recv th pd rd) s = .next (s.done (s.start.next th (((((({ t with inbox := rest } : Thread).setReg rd x.a).setReg (rd.val + 1) x.b).setReg (rd.val + 2) (BitVec.ofNat 64 (x.sender % 256 + (if x.mgr then 256 else 0))))).setPr pd true)))) ∧
  (∀ (s : State) (th : Thr) (pd : Fin 8) (rd : Fin 32) (t : Thread), s.start.fetches th (encP 0x2E pd rd 1) t →
      rd.val ≤ 29 →
      t.inbox = [] →
      exec (.recv th pd rd) s = .next (s.done (s.start.next th (t.setPr pd false)))) ∧
  (∀ (s : State) (th : Thr) (rd : Fin 32) (t : Thread), s.start.fetches th (encI 0x2F rd 0 0) t →
      exec (.tbr th rd false) s = .next (s.done (s.start.next th (t.setReg rd (BitVec.ofNat 64 s.start.tbNs))))) ∧
  (∀ (s : State) (th : Thr) (rd : Fin 32) (t : Thread), s.start.fetches th (encI 0x2F rd 0 1) t →
      rd.val ≠ 31 →
      exec (.tbr th rd true) s = .next (s.done (s.start.next th ((t.setReg rd (BitVec.ofNat 64 s.start.tbNs)).setReg (rd.val + 1) (BitVec.ofNat 64 (s.start.tb / 2 ^ 16 % 2 ^ 16))))))

/-- Route instructions and the commands on program slots complete. LKP reads table space or reads 0 and is counted as a fault; XLATE notes the check's
answer; HDR sets its field; ROUTE sends the request off and the requests behind it on slot 0 follow; a valid program is loaded, a slot cleared, a
selection made, each in native mode. Rules: R458, R459, R462, R463, R494, R455, R613. -/
def Obligations.RouteProgramCommandsComplete : Prop :=
  (∀ (s : State) (p : Port) (rd rs : Fin 32) (imm : BitVec 16) (x : Pipe) (rest : List Pipe) (a : Nat), s.start.piped p (encI 0x20 rd rs imm.toNat) x rest →
      a = (s.start.pipeSrc p x rs + imm.zeroExtend 64).toNat →
      a % 8 = 0 →
      a < 0x80000 →
      exec (.lkp p rd rs imm) s = .next (s.done (s.start.pipeGoes p (x.setReg rd (BitVec.ofNat 64 (Mem.read s.start.tbl a 8))) rest))) ∧
  (∀ (s : State) (p : Port) (rd rs : Fin 32) (imm : BitVec 16) (x : Pipe) (rest : List Pipe) (a : Nat), s.start.piped p (encI 0x20 rd rs imm.toNat) x rest →
      a = (s.start.pipeSrc p x rs + imm.zeroExtend 64).toNat →
      a % 8 ≠ 0 ∨ 0x80000 ≤ a →
      exec (.lkp p rd rs imm) s = .next (s.done (((s.start.pipeGoes p (x.setReg rd 0) rest).count (CNT_TILE (p.val / 16) 105) 1).raise SEQ_EVENT_ROUTE_FAULT))) ∧
  (∀ (s : State) (p : Port) (rd : Fin 32) (x : Pipe) (rest : List Pipe) (v : Xlat), s.start.piped p (encI 0x31 rd 0 0) x rest →
      s.start.verdict x.req x.dom (privOf x.dom) = .allow v →
      Completes (.xlate p rd) s fun t => ∃ y, SMap.get [] t.m.pipes p = y :: rest ∧ y.xl = some (.allow v) ∧ y.epoch = (s.start.dom (x.dom.getD 0)).ruleEpoch ∧ y.pc = x.pc + 1) ∧
  (∀ (s : State) (p : Port) (rs : Fin 32) (x : Pipe) (rest : List Pipe), s.start.piped p (encI 0x32 0 rs 0) x rest →
      exec (.hdrDstPbr p rs) s = .next (s.done (s.start.pipeGoes p { x with pbr := some ((s.start.pipeSrc p x rs).toNat % 4096) } rest))) ∧
  (∀ (s : State) (p : Port) (rs : Fin 32) (x : Pipe) (rest : List Pipe), s.start.piped p (encI 0x32 1 rs 0) x rest →
      exec (.hdrNospec p rs) s = .next (s.done (s.start.pipeGoes p { x with nospec := s.start.pipeSrc p x rs != 0 } rest))) ∧
  (∀ (s : State) (p : Port) (rs : Fin 32) (x : Pipe) (rest : List Pipe), s.start.piped p (encI 0x32 2 rs 0) x rest →
      exec (.hdrScavenger p rs) s = .next (s.done (s.start.pipeGoes p { x with scav := s.start.pipeSrc p x rs != 0 } rest))) ∧
  (∀ (s : State) (p : Port) (rs : Fin 32) (x : Pipe) (w : Nat), s.start.piped p (encI 0x30 0 rs 0) x [] →
      w = (s.start.pipeSrc p x rs).toNat →
      exec (.route p rs) s = .next (s.done ({ s.start with pipes := SMap.set [] s.start.pipes p [] }.routed { x.req with pbr := x.pbr } x.dom x.xl { port := w % 1024, tc := w / 2 ^ 10 % 8, action := w / 2 ^ 13 % 4 } x.req.pbr x.nospec x.scav 0 (if x.xl.isSome then some x.epoch else none)))) ∧
  (∀ (s : State) (slot : Fin 8) (len : Fin 32) (prog : List Nat), s.latch.tf = false →
      slot.val ≠ 0 →
      s.start.rpSelected slot = false →
      1 ≤ len.val →
      len.val ≤ 24 →
      (prog = (List.range len.val).map fun i => s.start.rd (SEQ_RP_BUF_INSTR i)) →
      routeCheck prog = 0 →
      exec (.seqRpLoad slot len) s = .next (s.done ({ (s.start.rpDone slot len 0) with rp := SMap.ins s.start.rp slot (prog.map (BitVec.ofNat 32)) }))) ∧
  (∀ (s : State) (slot : Fin 8) (len : Fin 32), s.latch.tf = false →
      slot.val ≠ 0 →
      s.start.rpSelected slot = false →
      exec (.seqRpClear slot len) s = .next (s.done ({ (s.start.rpDone slot len 0) with rp := SMap.del s.start.rp slot }))) ∧
  (∀ (s : State) (i : Fin 128) (v : BitVec 32), s.latch.tf = false →
      (((List.range 8).all fun k => v.toNat / 2 ^ (4 * k) % 8 == 0 || (SMap.find s.start.rp (v.toNat / 2 ^ (4 * k) % 8)).isSome) = true) →
      exec (.seqRpSelWrite i v) s = .next (s.done (s.start.wr (SEQ_RP_SEL_SLOT i) (v.toNat &&& 0x77777777))))

/-- Threads start, DMLOAD copies, and the sequencer's registers take their writes. A placed RUN entry's thread starts with its window loaded, ARG in G1 to
G4 and PC at ENTRY; the manager firmware starts a thread on a manager core; a thawed thread goes on from its context; the built-in DMLOAD copies what
it read into the slice and ends; slices, core modes and the lock are written; a lockstep mismatch stops the firmware's threads and the firmware starts
again. Rules: R445, R446, R447, R453, R454, R472, R473, R474, R622, R370. -/
def Obligations.ThreadLifeAndSequencerCommandsComplete : Prop :=
  (∀ (s : State) (d : Dom) (q : Fin 64) (idx : BitVec 32) (k : Nat) (t : Thread) (r : Run), (s.start.threads.find? (fun x => x.2.entry == some { dom := d.val, q := q.val, idx := idx.toNat } && !x.2.running) = some (k, t)) →
      s.start.run { dom := d.val, q := q.val, idx := idx.toNat } = some r →
      Completes (.threadStart (.run d q idx)) s fun t => (t.m.thr k).map (fun u => (u.running, u.pc, u.origin, u.reg 1, u.reg 2, u.reg 3, u.reg 4)) = some (true, bget r.bytes 0x18 4, bget r.bytes 0x10 8, BitVec.ofNat 64 (bget r.bytes 0x20 8), BitVec.ofNat 64 (bget r.bytes 0x28 8), BitVec.ofNat 64 (bget r.bytes 0x30 8), BitVec.ofNat 64 (bget r.bytes 0x38 8))) ∧
  (∀ (s : State) (th : Thr) (pc : Fin 1048576) (g : List (Nat × Word)) (ls : List (Nat × List Byte)), pc.val % 4 = 0 →
      s.start.thr th = none →
      s.start.coreTakes (th.val / 8) true = true →
      ¬(th.val / 8 = 1 ∧ s.start.flag SEQ_CTRL_LOCKSTEP = true) →
      ¬(th.val / 8 = 0 ∧ s.start.fwDown = true) →
      2 ≤ s.start.rd WKT_BOOT_STATUS_STAGE →
      Completes (.threadStart (.firmware th pc g ls)) s fun t => (t.m.thr th).map (fun u => (u.manager, u.running, u.pc, u.hold)) = some (true, true, pc.val, none)) ∧
  (∀ (s : State) (d : Dom) (ix : Fin 64) (f : FrozenThr) (th base win : Nat), SMap.find s.start.frozen (d.val * 64 + ix) = some f →
      f.resume = true →
      (s.start.dom d).state = .active →
      (win = (if bget (Mem.readBytes s.start.ddr (s.start.ctxAt d ix) 512) 0x108 4 = 0 then 4 else bget (Mem.readBytes s.start.ddr (s.start.ctxAt d ix) 512) 0x108 4) * 1024) →
      s.start.placeThread win = some (th, base) →
      Completes (.threadStart (.thaw d ix)) s fun t => SMap.find t.m.frozen (d.val * 64 + ix) = none ∧ (t.m.thr th).map (fun u => (u.running, u.dom, u.base, u.win, u.pc)) = some (true, d.val, base, win, bget (Mem.readBytes s.start.ddr (s.start.ctxAt d ix) 512) 0xFC 4)) ∧
  (∀ (s : State) (th : Thr) (data : List Byte) (t : Thread) (e : EntryRef) (src dst n : Nat), s.start.thr th = some t →
      t.running = true →
      t.dmload = true →
      s.start.staleThread t = false →
      s.start.overBudget t = false →
      t.entry = some e →
      src = (t.reg 1).toNat →
      dst = (t.reg 2).toNat →
      n = (t.reg 3).toNat →
      src % 8 = 0 →
      n % 8 = 0 →
      0x20000 ≤ dst →
      dst + n ≤ (s.start.seqd t.dom).bytes →
      n = 0 ∨ s.start.fmCheck th t { src := .thread th.val, kind := .ncRead, addr := src } n = none →
      exec (.dmload th data none) s = .next (s.done (({ s.start with ddr := Mem.writeBytes s.start.ddr ((s.start.seqd t.dom).at + dst) ((data ++ List.replicate (n - data.length) 0).take n) }.endEntry e { result := n }).endThread th))) ∧
  (∀ (s : State), s.start.flag SEQ_CTRL_LOCKSTEP = true →
      s.start.lockAt = none ∨ ∃ k, s.start.lockAt = some k ∧ k + 1000000000 ≤ s.start.now →
      Completes (.lockstepMismatch) s fun t => t.m.fwDown = true ∧ t.m.lockAt = some s.start.now ∧ ∀ x ∈ t.m.threads, 16 ≤ x.1) ∧
  (∀ (s : State), exec (.managerFirmwareRestart) s = .next (s.done ({ s.start with fwDown := false }))) ∧
  (∀ (s : State) (v : BitVec 64) (d base size : Nat), d = s.start.rd SEQ_DOM_SEL_DOMAIN →
      base = v.toNat / 2 ^ 20 % 2 ^ 20 →
      size = v.toNat / 2 ^ 40 % 2 ^ 12 →
      s.start.domThreads d = 0 →
      d ≠ 0 ∨ size = 0 →
      s.start.sliceBad d base size = false →
      exec (.seqDomDmWrite v) s = .next (s.done (s.start.updSeqd d fun x => { x with base := base, size := size }))) ∧
  (∀ (s : State) (v : BitVec 32), exec (.seqCoreModeWrite v) s = .next (s.done (s.start.wr SEQ_CORE_MODE_TENANT (v.toNat / 4)))) ∧
  (∀ (s : State) (v : BitVec 32), s.start.flag SEQ_CTRL_LOCK = false →
      v.getLsbD 1 = true →
      exec (.seqCtrlLock v) s = .next (s.done ((s.start.wr SEQ_CTRL_LOCKSTEP (v.toNat % 2)).raise SEQ_CTRL_LOCK)))

/-- The timebase's commands complete. LOAD sets the timebase, STEP adds a signed number of nanoseconds and keeps the fraction, the rate is written or
measured, an accepted PPS edge is captured, counted and snaps, jumps or is only recorded, its loss clears LOCKED, and a fallback counter's write ends
at the written value plus that cycle's count. Rules: R516, R517, R518, R520, R521, R522, R523, R524, R525. -/
def Obligations.TimebaseCommandsComplete : Prop :=
  (∀ (s : State), exec (.tbLoad) s = .next (s.done (s.start.tbSet (s.start.rd TB_SET_VALUE) 0))) ∧
  (∀ (s : State), exec (.tbStep) s = .next (s.done (s.start.tbSet (((s.start.tbNs : Int) + sext (s.start.rd TB_SET_VALUE) 64) % 2 ^ 64).toNat (s.start.tb % 2 ^ 32)))) ∧
  (∀ (s : State) (v : BitVec 32), s.start.flag TB_CTRL_CLKIN_EN = false →
      exec (.tbRateWrite v) s = .next (s.done (s.start.wr TB_RATE_RATE v.toNat))) ∧
  (∀ (s : State) (rate : Int), s.start.flag TB_CTRL_CLKIN_EN = true →
      -2147483 ≤ rate →
      rate ≤ 2147483 →
      exec (.clkinMeasurement rate) s = .next (s.done (s.start.wr TB_RATE_RATE (rate % 2 ^ 32).toNat))) ∧
  (∀ (s : State) (e : Int), s.start.flag TB_CTRL_PPS_EN = true →
      s.start.ppsSeen = false ∨ 500000000 * 2 ^ 32 ≤ s.start.ppsAge →
      e = ppsOffset s.start.tbNs →
      e.natAbs ≤ min 1000000 (s.start.rd TB_WINDOW_WINDOW) →
      Completes (.ppsEdge false) s fun t => t.m.tb = ((s.start.tbNs : Int) - e).toNat % 2 ^ 64 * 2 ^ 32 ∧ t.m.rd TB_PPS_CAPT_VALUE = s.start.tbNs ∧ t.m.flag TB_PPS_STATUS_LOCKED = true ∧ t.m.flag TB_EVENT_PPS_SNAP = true ∧ ∀ x ∈ t.m.threads, x.2.pps = true) ∧
  (∀ (s : State) (e : Int), s.start.flag TB_CTRL_PPS_EN = true →
      s.start.flag TB_CTRL_PPS_FORCE = false →
      s.start.ppsSeen = false ∨ 500000000 * 2 ^ 32 ≤ s.start.ppsAge →
      e = ppsOffset s.start.tbNs →
      min 1000000 (s.start.rd TB_WINDOW_WINDOW) < e.natAbs →
      Completes (.ppsEdge false) s fun t => t.m.tb = s.start.tb ∧ t.m.rd TB_PPS_CAPT_VALUE = s.start.tbNs ∧ t.m.rd TB_PPS_OFFSET_VALUE = (e % 2 ^ 64).toNat ∧ t.m.flag TB_PPS_STATUS_LOCKED = false ∧ t.m.flag TB_EVENT_PPS_FAR = true) ∧
  (∀ (s : State), s.start.ppsLost = false →
      exec (.ppsLoss) s = .next (s.done (({ s.start with ppsLost := true }.wr TB_PPS_STATUS_LOCKED 0).raise TB_EVENT_PPS_LOSS))) ∧
  (∀ (s : State) (c : Fin 32) (n : Fin 9) (v : Word) (k : Nat), n.val < 8 →
      s.start.flag (CNT_FB_CTRL_FREEZE c) = false →
      exec (.fallbackCounterWrite c n v k) s = .next (s.done ((s.start.wr (CNT_FB_CNT_COUNT c n) v.toNat).fbAdd c n k))) ∧
  (∀ (s : State) (c : Fin 32) (v : Word) (k : Nat), s.start.flag (CNT_FB_CTRL_FREEZE c) = false →
      s.start.flag (CNT_FB_CTRL_CYC_EN c) = true →
      exec (.fallbackCounterWrite c 8 v k) s = .next (s.done (s.start.wr (CNT_FB_CYCLE_CYCLES c) (v.toNat + k))))

/-- The slot channels' commands complete. A sample updates peaks, minima and energy; the short comparator trips a conducting standard channel and the fast
comparator limits a privileged one; ON makes a channel wait and OFF turns it off; channels are admitted, ramp, qualify, rise and fall; timers stop,
retries come and are reset. Rules: R528, R530, R531, R532, R536, R538, R540, R541, R542, R546, R547, R548. -/
def Obligations.SlotPowerCommandsComplete : Prop :=
  (∀ (s : State) (c : Chan) (i v bus : Nat), s.start.spcSt c < 2 ∨ s.start.spcSt c = 5 →
      Completes (.slotSample (.chan c i v bus)) s fun t => t.m.busMv = bus ∧ t.m.rd (SPC_PEAK_I c) = max (s.start.rd (SPC_PEAK_I c)) (min i 0xFFFF) ∧ (t.m.sx c).frac = ((s.start.sx c).frac + v * i) % 10 ^ 6) ∧
  (∀ (s : State) (c : Chan) (i v bus : Nat), 2 ≤ s.start.spcSt c →
      s.start.spcSt c ≤ 4 →
      exec (.slotSample (.chan c i v bus)) s = .next (s.done (chanSample c i v bus s.start))) ∧
  (∀ (s : State) (b : Bool) (i vin bus : Nat), s.start.flag (feedValid b) = false →
      Completes (.slotSample (.feed b i vin bus)) s fun t => t.m.busMv = bus ∧ t.m.rd (ORG_PEAK_V b.toNat) = max (s.start.rd (ORG_PEAK_V b.toNat)) (min vin 0xFFFF) ∧ t.m.flag (feedValid b) = s.start.vinOk b vin) ∧
  (∀ (s : State) (c : Chan), c.val < 64 →
      2 ≤ s.start.spcSt c →
      s.start.spcSt c ≤ 4 →
      exec (.shortComparator c) s = .next (s.done (s.start.spcTrip c (if s.start.spcSt c = 2 then 1 else 2)))) ∧
  (∀ (s : State) (c : Chan), 64 ≤ c.val →
      2 ≤ s.start.spcSt c →
      s.start.spcSt c ≤ 4 →
      exec (.fastLimitComparator c) s = .next (s.done (s.start.wr (SPC_STATUS_LIMITING c) 1))) ∧
  (∀ (s : State) (c : Chan), s.start.owners c = [] →
      s.start.spcSt c = 0 →
      Completes (.spcOnWrite c) s fun t => t.m.spcSt c = 1 ∧ t.m.flag (SPC_CTRL_ON c) = true ∧ c.val ∈ t.m.slotWait) ∧
  (∀ (s : State) (c : Chan), s.start.owners c = [] →
      Completes (.spcOffWrite c) s fun t => t.m.spcSt c = 0 ∧ t.m.flag (SPC_CTRL_ON c) = false ∧ t.m.flag (SPC_STATUS_PG c) = false ∧ t.m.rd (SPC_STATUS_RETRIES c) = 0 ∧ c.val ∉ t.m.slotWait) ∧
  (∀ (s : State) (c : Chan), Completes (.clrMeas (some c)) s fun t => t.m.reg (SPC_PEAK c) = 0 ∧ t.m.reg (SPC_MIN c) = 0xFFFFFFFF ∧ t.m.reg (SPC_ENERGY_ACC c) = 0 ∧ (t.m.sx c).frac = 0) ∧
  (∀ (s : State), exec (.clrMeas none) s = .next (s.done (s.start.clrFeeds))) ∧
  (∀ (s : State) (c : Nat) (rest : List Nat), s.start.slotWait = c :: rest →
      c < 72 →
      s.start.rampSum + s.start.rd (SPC_RAMP_INRUSH_EST c) ≤ s.start.rd ORG_CTRL_BUS_INRUSH →
      Completes (.staggerAdmit) s fun t => t.m.spcSt c = 2 ∧ c ∉ t.m.slotWait) ∧
  (∀ (s : State) (c : Chan), s.start.spcSt c = 2 →
      exec (.rampEnd c) s = .next (s.done ((s.start.wr (SPC_STATUS_STATE c) 3).updSx c fun x => { x with qual := false }))) ∧
  (∀ (s : State) (c : Chan), s.start.spcSt c = 3 →
      (s.start.sx c).qual = true →
      s.start.flag (SPC_STATUS_TIMER c) = false →
      s.start.flag (SPC_STATUS_LIMITING c) = false →
      s.start.owners c = [] →
      exec (.pgRise c) s = .next (s.done ((((s.start.wr (SPC_STATUS_STATE c) 4).wr (SPC_STATUS_PG c) 1).raise (SPC_EVENT_PG_RISE c)).holdIns c))) ∧
  (∀ (s : State) (c : Chan), s.start.spcSt c = 4 →
      s.start.owners c = [] →
      exec (.pgFall c) s = .next (s.done (((((((s.start.wr (SPC_STATUS_STATE c) 3).wr (SPC_STATUS_PG c) 0).raise (SPC_EVENT_PG_FALL c)).wakeEdge 3).wr (SPC_STATUS_PG_WARN c) 0).updSx c fun x => { x with qual := false })))) ∧
  (∀ (s : State) (c : Chan), s.start.flag (SPC_STATUS_TIMER c) = true →
      Completes (.faultTimerStop c) s fun t => t.m.flag (SPC_STATUS_TIMER c) = false ∧ t.m.flag (SPC_STATUS_PG_WARN c) = false ∧ (t.m.sx c).timer = 0) ∧
  (∀ (s : State) (c : Chan), s.start.spcSt c = 5 →
      Completes (.retryWaitExpiry c) s fun t => t.m.spcSt c = 1 ∧ t.m.flag (SPC_CTRL_ON c) = true ∧ t.m.rd (SPC_STATUS_RETRIES c) = (s.start.rd (SPC_STATUS_RETRIES c) + 1) % 8 ∧ t.m.flag (SPC_EVENT_RETRY c) = true) ∧
  (∀ (s : State) (c : Chan), s.start.flag (SPC_STATUS_PG c) = true →
      exec (.retriesReset c) s = .next (s.done (s.start.wr (SPC_STATUS_RETRIES c) 0)))

/-- The feeds' commands complete. A live feed is lost: its FET turns off and the other takes over; a feed of valid samples is restored; the reverse
comparator turns a FET off; ORG_CTRL takes its value. Rules: R549, R550, R551. -/
def Obligations.FeedCommandsComplete : Prop :=
  (∀ (s : State) (b : Bool), s.start.feedLive b = true →
      exec (.feedLost b) s = .next (s.done ((s.start.wr (feedValid b) 0).feedLost b))) ∧
  (∀ (s : State) (b : Bool), s.start.feedLive b = true →
      (s.start.fx b).ready = false →
      s.start.flag (feedRev b) = false →
      exec (.feedRestored b) s = .next (s.done (((s.start.updFx b fun x => { x with ready := true }).feedSet).raise ORG_EVENT_FEED_RESTORED))) ∧
  (∀ (s : State) (b : Bool), s.start.flag (feedOn b) = true →
      exec (.reverse b) s = .next (s.done ((((s.start.updFx b fun x => { x with ready := false }).wr (feedRev b) 1).wr (feedOn b) 0).raise ORG_EVENT_REVERSE))) ∧
  (∀ (s : State) (v : BitVec 32), exec (.orgCtrlWrite v) s = .next (s.done (s.start.orgCtrl v.toNat)))

/-- Shutter, IDLE, DORMANT and wake commands complete. Tiles whose ports are all disabled are gated, and ungated tiles show so; IDLE is entered and left;
a DORMANT request is taken or refused, its entry commits once all has drained, is abandoned at its timeout, or ends with a wake; the wake sources are
taken and a wake whose power good is missed returns to DORMANT. Rules: R557, R558, R559, R560, R561, R562, R563, R568, R569, R570, R571. -/
def Obligations.PowerStateCommandsComplete : Prop :=
  (∀ (s : State) (mask : Word), s.latch.tf = false →
      ((List.range 64).all (fun t => !mask.getLsbD t || bit (s.start.rd WKT_SHUTTER_TILE) t || s.start.mayGate t) = true) →
      Completes (.shutterWrite mask) s fun t => t.m.rd WKT_SHUTTER_TILE = mask.toNat) ∧
  (∀ (s : State) (t : Tile), s.start.gated t = true →
      bit (s.start.rd WKT_SHUTTER_TILE) t = false →
      exec (.tileUngated t) s = .next (s.done (({ s.start with lanes := SMap.drop s.start.lanes (t.val * 16) (t.val * 16 + 16) }.setGated (withBit (s.start.rd WKT_SHUTTER_STATUS_TILE) t false)).applyShut s.latch t))) ∧
  (∀ (s : State), s.start.rd WKT_BOOT_STATUS_STAGE = 3 →
      s.start.rd WKT_PWR_STATUS_STATE ≤ 1 →
      s.start.boot.orderly = none →
      s.start.mayIdle = true →
      exec (.idleEntry) s = .next (s.done (s.start.wr WKT_PWR_STATUS_STATE 2))) ∧
  (∀ (s : State), s.start.rd WKT_PWR_STATUS_STATE = 2 →
      exec (.idleExit) s = .next (s.done (s.start.wr WKT_PWR_STATUS_STATE s.start.onState))) ∧
  (∀ (s : State) (v : BitVec 32) (l2 : Bool), (s.start.pwrCtrl v.toNat).rd WKT_PWR_STATUS_STATE < 3 →
      (s.start.pwrCtrl v.toNat).rd WKT_BOOT_STATUS_STAGE = 3 →
      s.start.boot.orderly = none →
      (s.start.pwrCtrl v.toNat).flag WKT_PWR_CTRL_FORCE = true ∨ l2 = true →
      (s.start.pwrCtrl v.toNat).privetWalks = false →
      (s.start.pwrCtrl v.toNat).rebuilding = false →
      (s.start.pwrCtrl v.toNat).recovering = false →
      s.start.mir = [] →
      s.start.pldm.st = .idle →
      exec (.dormantRequest v l2) s = .next (s.done (({ s.start.pwrCtrl v.toNat with pw := {} }.wr WKT_PWR_STATUS_STATE 3).dropFetched.freezeTenants))) ∧
  (∀ (s : State) (mems : List (Nat × QMem)), s.start.rd WKT_PWR_STATUS_STATE = 3 →
      s.start.pw.committed = false →
      s.start.dormantDrained = false →
      exec (.dormantDrainTimeout mems) s = .next (s.done (s.start.dormantAbandon 3 mems))) ∧
  (∀ (s : State), s.start.rd WKT_PWR_STATUS_STATE = 3 →
      s.start.pw.committed = false →
      s.start.freezeTenants.dormantDrained = true →
      s.start.freezeTenants.spillTier1.tier1Out = true →
      Completes (.dormantCommit) s fun t => t.m.pw.committed = true ∧ t.m.pw.window = true ∧ t.m.selfRefresh = true ∧ t.m.boot.pllLock = false) ∧
  (∀ (s : State) (low : Bool), s.start.pw.window = true →
      s.start.rd WKT_PWR_STATUS_STATE ≠ 4 →
      Completes (.wakeWindowEnd low) s fun t => t.m.pw.window = false ∧ t.m.pins.wakeN = !low) ∧
  (∀ (s : State) (v : BitVec 32), exec (.wakeRequest v) s = .next (s.done ((s.start.pwrCtrl v.toNat).wakeEdge 1))) ∧
  (∀ (s : State), s.start.pw.committed = true →
      s.start.rd WKT_WAKE_TIMER_MS ≠ 0 →
      exec (.wakeTimerExpiry) s = .next (s.done (s.start.wakeEdge 2))) ∧
  (∀ (s : State) (low : Bool) (mems : List (Nat × QMem)), s.start.pw.pend ≠ 0 →
      low = false →
      s.start.rd WKT_PWR_STATUS_STATE = 4 →
      exec (.wake low mems) s = .next (s.done ((s.start.setWakeN false).wakeStart))) ∧
  (∀ (s : State) (low : Bool) (mems : List (Nat × QMem)), s.start.pw.pend ≠ 0 →
      low = false →
      s.start.rd WKT_PWR_STATUS_STATE = 3 →
      s.start.pw.committed = false →
      exec (.wake low mems) s = .next (s.done ((s.start.setWakeN false).dormantAbandon 4 mems))) ∧
  (∀ (s : State) (vlane : Bool), s.start.rd WKT_PWR_STATUS_STATE = 5 →
      ((if vlane then s.start.pins.vlaneEn && !s.start.pins.vlanePg else s.start.pins.vcoreEn && !s.start.pins.vcorePg) = true) →
      Completes (.wakeAbort vlane) s fun t => t.m.rd WKT_PWR_STATUS_ABORT_CODE = (if vlane then 2 else 1) ∧ t.m.flag WKT_PWR_EVENT_WAKE_ABORT = true ∧ t.m.selfRefresh = true ∧ t.m.boot.pllLock = false)

/-- The RAS commands complete. A fired completion timer answers its requester and leaves the entry late; late periods contain the devices' ports; a late
response is consumed; Viral is signalled and cleared; an error of the table is recorded or acts by its class; merged records come out, software takes
the tail on; the scrub and a reload record what they find; a domain's records are cleared. Rules: R578, R579, R580, R581, R582, R585, R587, R588,
R589, R590, R591, R631. -/
def Obligations.RasCommandsComplete : Prop :=
  (∀ (s : State) (key : Nat) (e : Trk), s.start.entry key = some e →
      e.late = false →
      e.phase ≠ .draining →
      ¬(e.answered = true ∧ e.outs = []) →
      e.x.coh = none →
      e.x.pair = none →
      exec (.completionTimeout key) s = .next (s.done (s.start.timedOut key e 4))) ∧
  (∀ (s : State) (key : Nat) (e : Trk) (p : Nat), s.start.entry key = some e →
      e.late = true →
      e.outs = [p] →
      e.specTag = none →
      exec (.latePeriodEnd key) s = .next (s.done (s.start.contain p 1 5))) ∧
  (∀ (s : State) (p : Port) (tag : Fin 8192) (r : Rsp) (load : Option (Fin 4)) (v : Nat) (e : Trk), SMap.find s.start.tags (p.val / 16 * 8192 + tag) = some v →
      s.start.entry (v / 1024) = some e →
      e.late = true →
      exec (.lateResponse p tag r load) s = .next (s.done (responseReceive p tag r load s.start))) ∧
  (∀ (s : State) (p : Port), s.start.isUp p = true →
      exec (.viral p) s = .next (s.done (s.start.viral p))) ∧
  (∀ (s : State) (p : Port), s.start.isUp p = false →
      s.start.portPooled p = true →
      exec (.viral p) s = .next (s.done (s.start.contain p 2 6))) ∧
  (∀ (s : State) (p : Port) (i : Nat), s.start.isUp p = true →
      i = p.val / 32 →
      exec (.viralClear p) s = .next (s.done (((s.start.wr (ERR_VIRAL_STATUS_PORTS i) (withBit (s.start.rd (ERR_VIRAL_STATUS_PORTS i)) (p.val % 32) false)).updPx p fun x => { x with viral := false }).revealPort p))) ∧
  (∀ (s : State) (e : ErrRec) (x : FaultAt), codeClass e.block e.code = some .corrected →
      exec (.journalRecord e x) s = .next (s.done ((s.start.poisonAt e.block e.code x).error { e with cls := .corrected }))) ∧
  (∀ (s : State) (e : ErrRec) (x : FaultAt) (p : Nat), codeClass e.block e.code = some .portFatal →
      ¬(e.block = 1 ∧ e.code = 3) →
      e.port = some p →
      s.start.portExists p = true →
      exec (.journalRecord e x) s = .next (s.done (s.start.contain p e.block e.code))) ∧
  (∀ (s : State) (e : ErrRec) (x : FaultAt), codeClass e.block e.code = some .deviceFatal →
      exec (.journalRecord e x) s = .next (s.done (s.start.deviceFatal e.block e.code))) ∧
  (∀ (s : State) (i : Nat) (g : Merging), s.start.merging[i]? = some g →
      exec (.coalesceWindowEnd i) s = .next (s.done (s.start.mergedOut g))) ∧
  (∀ (s : State) (v : BitVec 32), exec (.errJrnTailWrite v) s = .next (s.done (s.start.wr ERR_JRN_TAIL_COUNT v.toNat))) ∧
  (∀ (s : State) (ch : Fin 8) (l : Nat), s.start.rd ERR_SCRUB_HOURS ≠ 0 →
      l ∉ s.start.ddrBad →
      exec (.patrolScrub (.line ch l) .uncorrectable) s = .next (s.done ({ s.start with ddrBad := s.start.ddrBad ++ [l] }.error { cls := .corrected, block := 5, code := 4, addr := l * 64, loc := ch.val * 64 }))) ∧
  (∀ (s : State) (x : ScrubAt), exec (.patrolScrub x .good) s = .next (s.done (s.start))) ∧
  (∀ (s : State) (k : ReloadKind) (addr : Nat), exec (.tableReload k addr) s = .next (s.done (s.start.error { cls := .corrected, block := if k = .table ∨ k = .program then 7 else 8, code := if k = .table ∨ k = .program then 4 else 3, addr := addr }))) ∧
  (∀ (s : State) (v : BitVec 32), v.getLsbD 0 = true →
      exec (.domFerrClr v) s = .next (s.done (s.start.updDom (s.start.rd DOM_SEL_DOMAIN) fun r => { r with ferr := {} }))) ∧
  (∀ (s : State) (f : Nat) (v : BitVec 32), s.start.fnAnswers s.latch f = true →
      exec (.domFnClr f v) s = .next (s.done (s.start.fnClr f v.toNat)))

/-- Register accesses complete. A read or write of BAR0 or of a service function's BAR from a source that reaches it is carried out and a read is
answered; a low dword's write is held; an access of a wrong size has no effect but SIZE_ERR; long writes are split or refused; EOI, vector signals and
MCTP requests act as their rules say. Rules: R10, R12, R66, R125, R127, R616, R617, R618, R622, R623, R627, R629. -/
def Obligations.RegisterAccessCommandsComplete : Prop :=
  (∀ (s : State) (src : BarSrc) (off : Fin 268435456) (wide : Bool), s.start.reaches s.latch src = true →
      exec (.rcFieldRead (.bar0 src off) wide) s = .next (s.after ((s.start.barRead s.latch src off wide).2.send (.barData src (BitVec.ofNat 64 (s.start.barRead s.latch src off wide).1))))) ∧
  (∀ (s : State) (f : Fin 5119) (off : Fin 65536) (wide : Bool), exec (.rcFieldRead (.fn f off) wide) s = .next (s.after ((s.start.fnRead s.latch f off wide).2.send (.fnData f (BitVec.ofNat 64 (s.start.fnRead s.latch f off wide).1))))) ∧
  (∀ (s : State) (src : BarSrc) (off : Fin 268435456), lowDword (.bar0 src off) s.latch = true →
      s.start.reaches s.latch src = true →
      exec (.lowDwordRead (.bar0 src off)) s = .next (s.after ((s.start.barRead s.latch src off false).2.send (.barData src (BitVec.ofNat 64 (s.start.barRead s.latch src off false).1))))) ∧
  (∀ (s : State) (src : BarSrc) (off : Fin 268435456) (v : BitVec 32), lowDword (.bar0 src off) s.latch = true →
      s.start.reaches s.latch src = true →
      exec (.lowDwordWriteHold (.bar0 src off) v) s = .next (s.after (s.start.barWrite s.latch src off false v.toNat {}))) ∧
  (∀ (s : State) (src : BarSrc) (off : Fin 268435456) (wide : Bool) (v : Word) (mem : QMem), s.start.reaches s.latch src = true →
      exec (.registerWrite (.reg (.bar0 src off)) wide v mem) s = .next (s.after (s.start.barWrite s.latch src off wide v.toNat mem))) ∧
  (∀ (s : State) (f : Fin 5119) (off : Fin 65536) (wide : Bool) (v : Word) (mem : QMem), exec (.registerWrite (.reg (.fn f off)) wide v mem) s = .next (s.after (s.start.fnWrite s.latch f off wide v.toNat mem))) ∧
  (∀ (s : State) (p : Fin 4) (w : TfCtrWrite) (wide : Bool) (v : Word) (mem : QMem), s.start.tfHas s.latch p = true →
      s.start.coldReq = none →
      exec (.registerWrite (.tf p w) wide v mem) s = .next (s.after (s.start.tfCtrWrite p w))) ∧
  (∀ (s : State) (src : BarSrc) (off : Fin 268435456) (wide : Bool) (v : Word), s.start.reaches s.latch src = true →
      (s.start.aliasOf off).isSome = true →
      exec (.aliasWrite src off wide v) s = .next (s.after (s.start.barWrite s.latch src off wide v.toNat {}))) ∧
  (∀ (s : State) (src : BarSrc) (off : Fin 268435456) (size : Nat), s.start.reaches s.latch src = true →
      src.thread? = none →
      ¬((size = 4 ∧ off.val % 4 = 0) ∨ (size = 8 ∧ off.val % 8 = 0)) →
      size ≤ 8 →
      s.start.coldReq = none →
      Completes (.accessSizeError src off size false) s fun t => t.m.flag GLB_ACC_EVENT_SIZE_ERR = true ∧ t.m.rd GLB_ACC_ADDR_OFFSET = off.val ∧ t.m.out = [.barData src 0]) ∧
  (∀ (s : State) (src : BarSrc) (off : Fin 268435456) (size : Nat), s.start.reaches s.latch src = true →
      src.thread? = none →
      ¬((size = 4 ∧ off.val % 4 = 0) ∨ (size = 8 ∧ off.val % 8 = 0)) →
      size ≤ 8 →
      s.start.coldReq = none →
      Completes (.accessSizeError src off size true) s fun t => t.m.flag GLB_ACC_EVENT_SIZE_ERR = true ∧ t.m.rd GLB_ACC_ADDR_OFFSET = off.val ∧ t.m.out = []) ∧
  (∀ (s : State) (f : Fin 8) (off : Fin 268435456) (dws : List (BitVec 32)) (mem : QMem), s.start.reaches s.latch (.fn f) = true →
      2 < dws.length →
      off.val % 8 = 0 →
      off.val / 64 = (off.val + 4 * dws.length - 1) / 64 →
      exec (.longWriteTlp f off dws true mem) s = .next (s.after (s.start.longWrite s.latch (.fn f) mem off dws))) ∧
  (∀ (s : State) (f : Fin 8) (off : Fin 268435456) (dws : List (BitVec 32)) (full : Bool) (mem : QMem), s.start.reaches s.latch (.fn f) = true →
      s.start.coldReq = none →
      2 < dws.length →
      full = false ∨ off.val % 4 ≠ 0 ∨ off.val / 64 ≠ (off.val + 4 * dws.length - 1) / 64 →
      exec (.longWriteTlp f off dws full mem) s = .next (s.done ((s.start.wakeIdle (.fn f)).sizeErr off))) ∧
  (∀ (s : State) (src : BarSrc) (v : BitVec 32), s.start.reaches s.latch src = true →
      exec (.lockedFieldWrite src v) s = .next (s.after (s.start.barWrite s.latch src SEQ_CTRL false v.toNat {}))) ∧
  (∀ (s : State) (src : BarSrc) (v : BitVec 32), s.start.reaches s.latch src = true →
      exec (.irqEoi src v) s = .next (s.after (s.start.barWrite s.latch src GLB_IRQ_EOI false v.toNat {}))) ∧
  (∀ (s : State) (v : Fin 11), bit s.start.irqOwed v = true →
      exec (.summaryVectorSignal v) s = .next (s.done ({ s.start with irqOwed := withBit s.start.irqOwed v false }.signalVec v))) ∧
  (∀ (s : State) (size : BitVec 8) (tag : BitVec 16) (off : BitVec 32), s.start.mctpServed = true →
      (size.toNat = 4 ∧ off.toNat % 4 = 0) ∨ (size.toNat = 8 ∧ off.toNat % 8 = 0) →
      (s.start.wakeIdle .mctp).answers .mctp off.toNat = true →
      exec (.mctpRegisterRead 1 size tag off) s = .next (s.after ((s.start.barRead s.latch .mctp off.toNat (size == 8)).2.send (.mctp 0x81 0 tag.toNat off.toNat (s.start.barRead s.latch .mctp off.toNat (size == 8)).1)))) ∧
  (∀ (s : State) (size : BitVec 8) (tag : BitVec 16) (off : BitVec 32) (data : Word) (mem : QMem), s.start.mctpServed = true →
      (size.toNat = 4 ∧ off.toNat % 4 = 0) ∨ (size.toNat = 8 ∧ off.toNat % 8 = 0) →
      (s.start.wakeIdle .mctp).answers .mctp off.toNat = true →
      exec (.mctpRegisterWrite size tag off data mem) s = .next (s.after ((s.start.barWrite s.latch .mctp off.toNat (size == 8) data.toNat mem).send (.mctp 0x82 0 tag.toNat off.toNat 0))))

/-- The commands of TF-256 mode complete. The EEPROM interface writes its personality's configuration copy for the next stage C; a decoder's commit takes
Casements for its range, or reads Error Not Committed; its uncommit frees them; firmware-assisted accesses are served with their time kept, or
recorded as late; a quirk register takes its write. Rules: R596, R598, R599, R603, R605, R611. -/
def Obligations.Tf256CommandsComplete : Prop :=
  (∀ (s : State) (p : Fin 4) (off : Fin 32768) (bytes : List Byte) (sumOk : Bool) (ports : List TfPort) (c : TfCopy), s.start.tfHas s.latch p = true →
      s.start.fwDown = false →
      c = SMap.get {} s.start.flash.tf p →
      exec (.eepromInterfaceWrite p off bytes sumOk ports) s = .next (s.done ({ s.start with flash := { s.start.flash with tf := SMap.set {} s.start.flash.tf p { c with present := true, sumOk := sumOk, bytes := Mem.writeBytes c.bytes off (bytes.take (32768 - off)), ports := ports } } }.send (.tfDone p 0)))) ∧
  (∀ (s : State) (p : Fin 4) (v : Fin 16) (i : Fin 64) (body : HdmBody) (cas : List (Nat × Casement)), s.start.tfHas s.latch p = true →
      s.start.rd WKT_BOOT_STATUS_STAGE = 3 →
      s.start.fwDown = false →
      (SMap.get ({} : HdmDec) s.start.hdm (tfDom p v * 64 + i)).slots = [] →
      s.start.hdmCover p (tfDom p v) body = some (cas, none) →
      Completes (.hdmDecoderCommit p v i body) s fun t => SMap.get ({} : HdmDec) t.m.hdm (tfDom p v * 64 + i) = { slots := cas.map (·.1) } ∧ t.m.changes = s.start.changes ++ [{ change := .slots (tfDom p v) (cas.map fun y => (y.1, some y.2)) none, needWalk := false, entry := none }] ∧ t.m.out = [.tfDone p 0]) ∧
  (∀ (s : State) (p : Fin 4) (v : Fin 16) (i : Fin 64) (body : HdmBody), s.start.tfHas s.latch p = true →
      s.start.rd WKT_BOOT_STATUS_STAGE = 3 →
      s.start.fwDown = false →
      (SMap.get ({} : HdmDec) s.start.hdm (tfDom p v * 64 + i)).slots = [] →
      s.start.hdmCover p (tfDom p v) body = none →
      exec (.hdmDecoderCommit p v i body) s = .next (s.done ({ s.start with hdm := SMap.set {} s.start.hdm (tfDom p v * 64 + i) { err := true } }.send (.tfDone p 0)))) ∧
  (∀ (s : State) (p : Fin 4) (v : Fin 16) (i : Fin 64) (x : HdmDec), s.start.tfHas s.latch p = true →
      s.start.rd WKT_BOOT_STATUS_STAGE = 3 →
      s.start.fwDown = false →
      x = SMap.get {} s.start.hdm (tfDom p v * 64 + i) →
      x.clearing = false →
      x.slots ≠ [] →
      Completes (.hdmDecoderUncommit p v i) s fun t => SMap.get {} t.m.hdm (tfDom p v * 64 + i) = { x with clearing := true } ∧ t.m.changes = s.start.changes ++ [{ change := .slots (tfDom p v) (x.slots.map fun k => (k, none)) (some (tfDom p v * 64 + i)), needWalk := false, entry := none }]) ∧
  (∀ (s : State) (p : Fin 4) (op : FwaOp) (time : Nat), s.start.tfHas s.latch p = true →
      s.start.fwDown = false →
      time ≤ 400 →
      exec (.firmwareAssistedAccess p op time) s = .next (s.done (((s.start.fwaDo s.latch p op).2.wr (TF_FWA_MAX p) (max ((s.start.fwaDo s.latch p op).2.rd (TF_FWA_MAX p)) time)).send (.tfDone p (s.start.fwaDo s.latch p op).1)))) ∧
  (∀ (s : State) (p : Fin 4), s.start.tfHas s.latch p = true →
      s.start.fwDown = true →
      exec (.fwaLate p) s = .next (s.done (((s.start.addSat (TF_FWA_LATE p) 1).error { cls := .corrected, block := 7, code := 3 }).send (.tfDone p 0)))) ∧
  (∀ (s : State) (src : BarSrc) (p : Fin 4) (v : BitVec 32), s.start.reaches s.latch src = true →
      exec (.tfQuirkWrite src p v) s = .next (s.after (s.start.barWrite s.latch src (TF_QUIRK p) false v.toNat {})))

/-- A memory instruction that may not run traps with its cause, fault address and space, in the order of the checks. LD, ST, FLD, FST, FAT and TWR outside
their encoding, mode, alignment or space trap with the cause that the rules give and have no other effect: PRIV for table space in tenant mode,
ILLEGAL for a reserved space, ALIGN, the range causes, FM_REFUSED with the first disallowed byte, ATOMIC for an operation or size that is not
supported. What Mach.trap does is stated by ManagerTrapGoesToItsHandlerOrStops and TenantTrapIsRecordedAndEndsTheEntry. Rules: R448, R450, R468, R487,
R489, R490, R494. -/
def Obligations.MemoryInstructionsTrapAsTheRulesGive : Prop :=
  (∀ (s : State) (th : Thr) (rd rb : Fin 32) (space size : Fin 4) (off : BitVec 12) (t : Thread), s.start.fetches th (encM 0x10 rd rb space size off) t →
      space.val = 3 →
      t.manager = false →
      exec (.ld th rd rb space size off) s = .next (s.done (s.start.trap th .priv 0 3 0))) ∧
  (∀ (s : State) (th : Thr) (rd rb : Fin 32) (space size : Fin 4) (off : BitVec 12) (t : Thread) (a n : Nat), s.start.fetches th (encM 0x10 rd rb space size off) t →
      space.val = 3 → t.manager = true →
      a = (t.reg rb + off.signExtend 64).toNat →
      n = 2 ^ size.val →
      a % n ≠ 0 →
      exec (.ld th rd rb space size off) s = .next (s.done (s.start.trap th .align a space.val 0))) ∧
  (∀ (s : State) (th : Thr) (rd rb : Fin 32) (space size : Fin 4) (off : BitVec 12) (t : Thread) (a n : Nat), s.start.fetches th (encM 0x10 rd rb space size off) t →
      space.val = 0 →
      a = (t.reg rb + off.signExtend 64).toNat →
      n = 2 ^ size.val →
      a % n = 0 →
      t.win < a + n →
      exec (.ld th rd rb space size off) s = .next (s.done (s.start.trap th .lsRange a 0 0))) ∧
  (∀ (s : State) (th : Thr) (rd rb : Fin 32) (space size : Fin 4) (off : BitVec 12) (t : Thread) (a n : Nat), s.start.fetches th (encM 0x10 rd rb space size off) t →
      space.val = 1 →
      a = (t.reg rb + off.signExtend 64).toNat →
      n = 2 ^ size.val →
      a % n = 0 →
      s.start.dmLimit t < a + n →
      exec (.ld th rd rb space size off) s = .next (s.done (s.start.trap th .dmRange a 1 0))) ∧
  (∀ (s : State) (th : Thr) (rd rb : Fin 32) (space size : Fin 4) (off : BitVec 12) (t : Thread) (a n : Nat), s.start.fetches th (encM 0x10 rd rb space size off) t →
      space.val = 3 →
      t.manager = true →
      a = (t.reg rb + off.signExtend 64).toNat →
      n = 2 ^ size.val →
      a % n = 0 →
      0x80000 < a + n →
      exec (.ld th rd rb space size off) s = .next (s.done (s.start.trap th .tbRange a 3 0))) ∧
  (∀ (s : State) (th : Thr) (rd rb : Fin 32) (space size : Fin 4) (off : BitVec 12) (t : Thread) (a n : Nat) (x : Nat) (m : Mach), s.start.fetches th (encM 0x10 rd rb space size off) t →
      space.val = 2 →
      a = (t.reg rb + off.signExtend 64).toNat →
      n = 2 ^ size.val →
      a % n = 0 →
      t.writing a n = false →
      s.start.fmCheck th t ({ src := .thread th.val, kind := .ncRead, addr := a }) n = some (x, m) →
      exec (.ld th rd rb space size off) s = .next (s.done (m.trap th .fmRefused x 2 0))) ∧
  (∀ (s : State) (th : Thr) (rd rb : Fin 32) (space size : Fin 4) (off : BitVec 12) (t : Thread), s.start.fetches th (encM 0x11 rd rb space size off) t →
      space.val = 3 →
      exec (.st th rd rb space size off) s = .next (s.done (s.start.trap th .illegal 0 0xFF 0))) ∧
  (∀ (s : State) (th : Thr) (rd rb : Fin 32) (space size : Fin 4) (off : BitVec 12) (t : Thread) (a n : Nat), s.start.fetches th (encM 0x11 rd rb space size off) t →
      space.val ≠ 3 →
      a = (t.reg rb + off.signExtend 64).toNat →
      n = 2 ^ size.val →
      a % n ≠ 0 →
      exec (.st th rd rb space size off) s = .next (s.done (s.start.trap th .align a space.val 0))) ∧
  (∀ (s : State) (th : Thr) (rd rb : Fin 32) (space size : Fin 4) (off : BitVec 12) (t : Thread) (a n : Nat), s.start.fetches th (encM 0x11 rd rb space size off) t →
      space.val = 0 →
      a = (t.reg rb + off.signExtend 64).toNat →
      n = 2 ^ size.val →
      a % n = 0 →
      t.win < a + n →
      exec (.st th rd rb space size off) s = .next (s.done (s.start.trap th .lsRange a 0 0))) ∧
  (∀ (s : State) (th : Thr) (rd rb : Fin 32) (space size : Fin 4) (off : BitVec 12) (t : Thread) (a n : Nat), s.start.fetches th (encM 0x11 rd rb space size off) t →
      space.val = 1 →
      a = (t.reg rb + off.signExtend 64).toNat →
      n = 2 ^ size.val →
      a % n = 0 →
      s.start.dmLimit t < a + n ∨ s.start.dmGuarded t a n = true →
      exec (.st th rd rb space size off) s = .next (s.done (s.start.trap th .dmRange a 1 0))) ∧
  (∀ (s : State) (th : Thr) (rd rb : Fin 32) (space size : Fin 4) (off : BitVec 12) (t : Thread) (a n : Nat) (x : Nat) (m : Mach), s.start.fetches th (encM 0x11 rd rb space size off) t →
      space.val = 2 →
      a = (t.reg rb + off.signExtend 64).toNat →
      n = 2 ^ size.val →
      a % n = 0 →
      t.outW.length < 32 →
      s.start.fmCheck th t (lineWrite (.thread th.val) a (leBytes n (t.reg rd).toNat)) n = some (x, m) →
      exec (.st th rd rb space size off) s = .next (s.done (m.trap th .fmRefused x 2 0))) ∧
  (∀ (s : State) (th : Thr) (rl rb : Fin 32) (space n : Fin 4) (off : BitVec 12) (t : Thread), s.start.fetches th (encM 0x13 rl rb space n off) t →
      space.val = 0 ∨ space.val = 3 →
      exec (.fld th rl rb space n off) s = .next (s.done (s.start.trap th .illegal 0 0xFF 0))) ∧
  (∀ (s : State) (th : Thr) (rl rb : Fin 32) (space n : Fin 4) (off : BitVec 12) (t : Thread) (far ls len : Nat), s.start.fetches th (encM 0x13 rl rb space n off) t →
      space.val = 1 ∨ space.val = 2 →
      far = (t.reg rb + off.signExtend 64).toNat →
      ls = (t.reg rl).toNat →
      len = 64 * 2 ^ n.val →
      far % len ≠ 0 →
      exec (.fld th rl rb space n off) s = .next (s.done (s.start.trap th .align far space.val 0))) ∧
  (∀ (s : State) (th : Thr) (rl rb : Fin 32) (space n : Fin 4) (off : BitVec 12) (t : Thread) (far ls len : Nat), s.start.fetches th (encM 0x13 rl rb space n off) t →
      space.val = 1 ∨ space.val = 2 →
      far = (t.reg rb + off.signExtend 64).toNat →
      ls = (t.reg rl).toNat →
      len = 64 * 2 ^ n.val →
      far % len = 0 →
      ls % 64 ≠ 0 →
      exec (.fld th rl rb space n off) s = .next (s.done (s.start.trap th .align ls 0 0))) ∧
  (∀ (s : State) (th : Thr) (rl rb : Fin 32) (space n : Fin 4) (off : BitVec 12) (t : Thread) (far ls len : Nat), s.start.fetches th (encM 0x13 rl rb space n off) t →
      space.val = 1 ∨ space.val = 2 →
      far = (t.reg rb + off.signExtend 64).toNat →
      ls = (t.reg rl).toNat →
      len = 64 * 2 ^ n.val →
      far % len = 0 →
      ls % 64 = 0 →
      t.win < ls + len →
      exec (.fld th rl rb space n off) s = .next (s.done (s.start.trap th .lsRange ls 0 0))) ∧
  (∀ (s : State) (th : Thr) (rl rb : Fin 32) (space n : Fin 4) (off : BitVec 12) (t : Thread) (far ls len : Nat), s.start.fetches th (encM 0x13 rl rb space n off) t →
      space.val = 1 →
      far = (t.reg rb + off.signExtend 64).toNat →
      ls = (t.reg rl).toNat →
      len = 64 * 2 ^ n.val →
      far % len = 0 →
      ls % 64 = 0 →
      ls + len ≤ t.win →
      s.start.dmLimit t < far + len →
      exec (.fld th rl rb space n off) s = .next (s.done (s.start.trap th .dmRange far 1 0))) ∧
  (∀ (s : State) (th : Thr) (rl rb : Fin 32) (space n : Fin 4) (off : BitVec 12) (t : Thread) (far ls len : Nat) (x : Nat) (m : Mach), s.start.fetches th (encM 0x13 rl rb space n off) t →
      space.val = 2 →
      far = (t.reg rb + off.signExtend 64).toNat →
      ls = (t.reg rl).toNat →
      len = 64 * 2 ^ n.val →
      far % len = 0 →
      ls % 64 = 0 →
      ls + len ≤ t.win →
      t.writing far len = false →
      s.start.fmCheck th t { src := .thread th.val, kind := .ncRead, addr := far } len = some (x, m) →
      exec (.fld th rl rb space n off) s = .next (s.done (m.trap th .fmRefused x 2 0))) ∧
  (∀ (s : State) (th : Thr) (rl rb : Fin 32) (space n : Fin 4) (off : BitVec 12) (t : Thread), s.start.fetches th (encM 0x14 rl rb space n off) t →
      space.val = 0 ∨ space.val = 3 →
      exec (.fst th rl rb space n off) s = .next (s.done (s.start.trap th .illegal 0 0xFF 0))) ∧
  (∀ (s : State) (th : Thr) (rl rb : Fin 32) (space n : Fin 4) (off : BitVec 12) (t : Thread) (far ls len : Nat), s.start.fetches th (encM 0x14 rl rb space n off) t →
      space.val = 1 ∨ space.val = 2 →
      far = (t.reg rb + off.signExtend 64).toNat →
      ls = (t.reg rl).toNat →
      len = 64 * 2 ^ n.val →
      far % len ≠ 0 →
      exec (.fst th rl rb space n off) s = .next (s.done (s.start.trap th .align far space.val 0))) ∧
  (∀ (s : State) (th : Thr) (rl rb : Fin 32) (space n : Fin 4) (off : BitVec 12) (t : Thread) (far ls len : Nat), s.start.fetches th (encM 0x14 rl rb space n off) t →
      space.val = 1 ∨ space.val = 2 →
      far = (t.reg rb + off.signExtend 64).toNat →
      ls = (t.reg rl).toNat →
      len = 64 * 2 ^ n.val →
      far % len = 0 →
      ls % 64 ≠ 0 →
      exec (.fst th rl rb space n off) s = .next (s.done (s.start.trap th .align ls 0 0))) ∧
  (∀ (s : State) (th : Thr) (rl rb : Fin 32) (space n : Fin 4) (off : BitVec 12) (t : Thread) (far ls len : Nat), s.start.fetches th (encM 0x14 rl rb space n off) t →
      space.val = 1 ∨ space.val = 2 →
      far = (t.reg rb + off.signExtend 64).toNat →
      ls = (t.reg rl).toNat →
      len = 64 * 2 ^ n.val →
      far % len = 0 →
      ls % 64 = 0 →
      t.win < ls + len →
      exec (.fst th rl rb space n off) s = .next (s.done (s.start.trap th .lsRange ls 0 0))) ∧
  (∀ (s : State) (th : Thr) (rl rb : Fin 32) (space n : Fin 4) (off : BitVec 12) (t : Thread) (far ls len : Nat), s.start.fetches th (encM 0x14 rl rb space n off) t →
      space.val = 1 →
      far = (t.reg rb + off.signExtend 64).toNat →
      ls = (t.reg rl).toNat →
      len = 64 * 2 ^ n.val →
      far % len = 0 →
      ls % 64 = 0 →
      ls + len ≤ t.win →
      s.start.dmLimit t < far + len ∨ s.start.dmGuarded t far len = true →
      exec (.fst th rl rb space n off) s = .next (s.done (s.start.trap th .dmRange far 1 0))) ∧
  (∀ (s : State) (th : Thr) (rl rb : Fin 32) (space n : Fin 4) (off : BitVec 12) (t : Thread) (far ls len : Nat) (x : Nat) (m : Mach), s.start.fetches th (encM 0x14 rl rb space n off) t →
      space.val = 2 →
      far = (t.reg rb + off.signExtend 64).toNat →
      ls = (t.reg rl).toNat →
      len = 64 * 2 ^ n.val →
      far % len = 0 →
      ls % 64 = 0 →
      ls + len ≤ t.win →
      t.outW.length + len / 64 ≤ 32 →
      s.start.fmCheck th t { src := .thread th.val, kind := .ncWrite true, addr := far } len = some (x, m) →
      exec (.fst th rl rb space n off) s = .next (s.done (m.trap th .fmRefused x 2 0))) ∧
  (∀ (s : State) (th : Thr) (rd rb ra rc : Fin 32) (op : Fin 16) (size : Fin 4) (t : Thread) (n : Nat), s.start.fetches th (encI 0x15 rd rb (ra.val * 2 ^ 11 + rc.val * 2 ^ 6 + op.val * 4 + size)) t →
      n = 4 * 2 ^ size.val →
      9 < op.val ∨ (n = 16 ∧ op.val ≠ 9) ∨ n = 32 →
      exec (.fat th rd rb ra rc op size) s = .next (s.done (s.start.trap th .atomic 0 2 0))) ∧
  (∀ (s : State) (th : Thr) (rd rb ra rc : Fin 32) (op : Fin 16) (size : Fin 4) (t : Thread) (n : Nat), s.start.fetches th (encI 0x15 rd rb (ra.val * 2 ^ 11 + rc.val * 2 ^ 6 + op.val * 4 + size)) t →
      n = 4 * 2 ^ size.val →
      op.val = 9 →
      n = 16 →
      rd.val % 2 = 1 ∨ ra.val % 2 = 1 ∨ rc.val % 2 = 1 →
      exec (.fat th rd rb ra rc op size) s = .next (s.done (s.start.trap th .illegal 0 0xFF 0))) ∧
  (∀ (s : State) (th : Thr) (rd rb ra rc : Fin 32) (op : Fin 16) (size : Fin 4) (t : Thread) (a n : Nat), s.start.fetches th (encI 0x15 rd rb (ra.val * 2 ^ 11 + rc.val * 2 ^ 6 + op.val * 4 + size)) t →
      a = (t.reg rb).toNat →
      n = 4 * 2 ^ size.val →
      (op.val ≤ 9 ∧ n ≤ 8) ∨ (op.val = 9 ∧ n = 16 ∧ rd.val % 2 = 0 ∧ ra.val % 2 = 0 ∧ rc.val % 2 = 0) →
      a % n ≠ 0 →
      exec (.fat th rd rb ra rc op size) s = .next (s.done (s.start.trap th .align a 2 0))) ∧
  (∀ (s : State) (th : Thr) (rd rb ra rc : Fin 32) (op : Fin 16) (size : Fin 4) (t : Thread) (a n : Nat) (va vc x : Nat) (m : Mach), s.start.fetches th (encI 0x15 rd rb (ra.val * 2 ^ 11 + rc.val * 2 ^ 6 + op.val * 4 + size)) t →
      a = (t.reg rb).toNat →
      n = 4 * 2 ^ size.val →
      (op.val ≤ 9 ∧ n ≤ 8) ∨ (op.val = 9 ∧ n = 16 ∧ rd.val % 2 = 0 ∧ ra.val % 2 = 0 ∧ rc.val % 2 = 0) →
      a % n = 0 →
      t.writing a n = false →
      (va = (if n = 16 then (t.reg ra).toNat + 2 ^ 64 * (t.reg (ra.val + 1)).toNat else (t.reg ra).toNat % 2 ^ (8 * n))) →
      (vc = (if n = 16 then (t.reg rc).toNat + 2 ^ 64 * (t.reg (rc.val + 1)).toNat else (t.reg rc).toNat % 2 ^ (8 * n))) →
      s.start.fmCheck th t { src := .thread th.val, kind := .atomic op n va vc, addr := a, len := n } n = some (x, m) →
      exec (.fat th rd rb ra rc op size) s = .next (s.done (m.trap th .fmRefused x 2 0))) ∧
  (∀ (s : State) (th : Thr) (rs rb : Fin 32) (imm : BitVec 16) (t : Thread), s.start.fetches th (encI 0x21 rs rb imm.toNat) t →
      t.manager = false →
      exec (.twr th rs rb imm) s = .next (s.done (s.start.trap th .priv 0 3 0))) ∧
  (∀ (s : State) (th : Thr) (rs rb : Fin 32) (imm : BitVec 16) (t : Thread) (a : Nat), s.start.fetches th (encI 0x21 rs rb imm.toNat) t →
      t.manager = true →
      a = (t.reg rb + imm.zeroExtend 64).toNat →
      a % 8 ≠ 0 →
      exec (.twr th rs rb imm) s = .next (s.done (s.start.trap th .align a 3 0))) ∧
  (∀ (s : State) (th : Thr) (rs rb : Fin 32) (imm : BitVec 16) (t : Thread) (a : Nat), s.start.fetches th (encI 0x21 rs rb imm.toNat) t →
      t.manager = true →
      a = (t.reg rb + imm.zeroExtend 64).toNat →
      a % 8 = 0 →
      0x80000 ≤ a →
      exec (.twr th rs rb imm) s = .next (s.done (s.start.trap th .tbRange a 3 0)))

/-- The mode latch changes only at a cold reset and as the boot that follows one takes its image's mode. Whatever command runs, the mode latch stays, or a
cold reset clears it (the boot progress is back at its start, STAGE reads 0, no thread is left), or nothing was latched since the last cold reset and
the slot under verification is taken and gives its mode; the commands of core, tile, domain and queue resets never change it. Rules: R4. -/
def Obligations.ModeLatchChangesOnlyAtAColdReset : Prop :=
  (∀ (c : Instr) (s t : State), exec c s = .next t →
      t.latch = s.latch ∨
      (t.latch = {} ∧ t.m.boot = {} ∧ t.m.rd WKT_BOOT_STATUS_STAGE = 0 ∧ t.m.threads = [] ∧ t.m.ddr = []) ∨
      (c = .slotVerifyDone ∧ s.latch.latched = false ∧ ∃ b, s.m.boot.trying = some b ∧ t.latch = (s.m.flash.slot b).modeLatch)) ∧
  (∀ (c : Instr) (s t : State), exec c s = .next t →
      ((∃ d q idx, c = .domainReset d q idx) ∨ (∃ d q idx, c = .resetQueue d q idx) ∨ c = .orderlyCoreReset ∨ (∃ x, c = .disorderlyCoreReset x) ∨
       c = .orderlyResetDeadline ∨ (∃ t x, c = .resetCtrlTile t x) ∨ (∃ x, c = .resetCtrlOrderlyCore x) ∨ (∃ x, c = .resetCtrlImmediateCore x) ∨ c = .warmResetNFall) →
      t.latch = s.latch)

/-- From every state with a legal mode latch, every step leaves a legal one. The mode latch is legal where nothing is latched and it reads as in R3, or
TF-256 mode is latched with 1 to 4 personalities, or native mode with 0. Every step, whatever command is at the front of the queue and whatever image
stands in the flash, keeps it so. Rules: R3, R4, R7. -/
def Obligations.EveryStepKeepsTheModeLegal : Prop :=
  ∀ (s t : State), s.latch.legal = true → step s = .next t → t.latch.legal = true

/-- A store of a thread writes exactly the bytes that its address and size name. ST to local scratch, ST and FST to DM, TWR, and the end of an FLD from DM
change exactly the bytes of their target, each to the byte of the source register or of the other memory, least significant first; every other byte of
local scratch, local DDR5 and table space stays, and a canonical memory stays canonical. Rules: R450, R451, R453, R487, R489, R494. -/
def Obligations.StoresWriteExactlyTheirBytes : Prop :=
  (∀ (s : State) (th : Thr) (rs rb : Fin 32) (size : Fin 4) (off : BitVec 12) (t : Thread) (a n : Nat),
      s.start.fetches th (encM 0x11 rs rb 0 size off) t → a = (t.reg rb + off.signExtend 64).toNat → n = 2 ^ size.val → a % n = 0 → a + n ≤ t.win →
      ∃ u, exec (.st th rs rb 0 size off) s = .next u ∧
        (∀ i, i < n → (u.m.scratch th).byte (t.base + a + i) = BitVec.ofNat 8 ((t.reg rs).toNat / 256 ^ i)) ∧
        (∀ b, b < t.base + a ∨ t.base + a + n ≤ b → (u.m.scratch th).byte b = (s.m.scratch th).byte b) ∧
        (∀ k, k ≠ th.val / 8 → SMap.get [] u.m.ls k = SMap.get [] s.m.ls k) ∧
        u.m.ddr = s.m.ddr ∧ u.m.tbl = s.m.tbl ∧ ((s.m.scratch th).wf = true → (u.m.scratch th).wf = true)) ∧
  (∀ (s : State) (th : Thr) (rs rb : Fin 32) (size : Fin 4) (off : BitVec 12) (t : Thread) (a n : Nat),
      s.start.fetches th (encM 0x11 rs rb 1 size off) t → a = (t.reg rb + off.signExtend 64).toNat → n = 2 ^ size.val → a % n = 0 →
      a + n ≤ s.start.dmLimit t → s.start.dmGuarded t a n = false →
      ∃ u, exec (.st th rs rb 1 size off) s = .next u ∧
        (∀ i, i < n → u.m.ddr.byte (s.start.dmAt t a + i) = BitVec.ofNat 8 ((t.reg rs).toNat / 256 ^ i)) ∧
        (∀ b, b < s.start.dmAt t a ∨ s.start.dmAt t a + n ≤ b → u.m.ddr.byte b = s.m.ddr.byte b) ∧
        u.m.ls = s.m.ls ∧ u.m.tbl = s.m.tbl ∧ (s.m.ddr.wf = true → u.m.ddr.wf = true)) ∧
  (∀ (s : State) (th : Thr) (rl rb : Fin 32) (n : Fin 4) (off : BitVec 12) (t : Thread) (far ls len : Nat),
      s.start.fetches th (encM 0x14 rl rb 1 n off) t → far = (t.reg rb + off.signExtend 64).toNat → ls = (t.reg rl).toNat → len = 64 * 2 ^ n.val →
      far % len = 0 → ls % 64 = 0 → ls + len ≤ t.win → far + len ≤ s.start.dmLimit t → s.start.dmGuarded t far len = false →
      ∃ u, exec (.fst th rl rb 1 n off) s = .next u ∧
        (∀ i, i < len → u.m.ddr.byte (s.start.dmAt t far + i) = (s.m.scratch th).byte (t.base + ls + i)) ∧
        (∀ b, b < s.start.dmAt t far ∨ s.start.dmAt t far + len ≤ b → u.m.ddr.byte b = s.m.ddr.byte b) ∧
        u.m.ls = s.m.ls ∧ u.m.tbl = s.m.tbl ∧ (s.m.memWf = true → u.m.ddr.wf = true)) ∧
  (∀ (s : State) (th : Thr) (t : Thread) (ls n far : Nat),
      (s.start.threadTake th).thr th = some t → (s.start.threadTake th).staleThread t = false → t.hold = some (.fld false ls n far) →
      (s.start.threadTake th).ddrBadAt ((s.start.threadTake th).dmAt t far) n = false →
      ∃ u, exec (.threadAccessComplete th false) s = .next u ∧
        (∀ i, i < n → (u.m.scratch th).byte (t.base + ls + i) = s.m.ddr.byte (s.start.dmAt t far + i)) ∧
        (∀ b, b < t.base + ls ∨ t.base + ls + n ≤ b → (u.m.scratch th).byte b = (s.m.scratch th).byte b) ∧
        (∀ k, k ≠ th.val / 8 → SMap.get [] u.m.ls k = SMap.get [] s.m.ls k) ∧
        u.m.ddr = s.m.ddr ∧ u.m.tbl = s.m.tbl ∧ (s.m.memWf = true → (u.m.scratch th).wf = true)) ∧
  (∀ (s : State) (th : Thr) (rs rb : Fin 32) (imm : BitVec 16) (t : Thread) (a : Nat),
      s.start.fetches th (encI 0x21 rs rb imm.toNat) t → t.manager = true → a = (t.reg rb + imm.zeroExtend 64).toNat → a % 8 = 0 → a < 0x80000 →
      ∃ u, exec (.twr th rs rb imm) s = .next u ∧
        (∀ i, i < 8 → u.m.tbl.byte (a + i) = BitVec.ofNat 8 ((t.reg rs).toNat / 256 ^ i)) ∧
        (∀ b, b < a ∨ a + 8 ≤ b → u.m.tbl.byte b = s.m.tbl.byte b) ∧
        u.m.ls = s.m.ls ∧ u.m.ddr = s.m.ddr ∧ (s.m.tbl.wf = true → u.m.tbl.wf = true))

/-- An arithmetic, compare or control instruction of a thread changes its destination, its PC and its core's counters alone. ADD to MAXU, POPC, CLZ,
BSWAP, the immediate forms, SHLI, SHRI, SARI, LUI, CMP (but its reserved condition), CMPI, BR, JAL and NOP, in a thread that may go on: the mode latch
and the queue stay, every other thread stays, every general register and predicate but the destination stays, and so does every register of the
register map but the counters of the thread's core, and all memory. Rules: R449, R478, R485, R486, R491, R510, R516. -/
def Obligations.RegisterInstructionsLeaveEverythingElse : Prop :=
  ∀ (i : Instr) (s t : State) (th : Thr) (rd : Fin 32) (pd : Fin 8) (u : Thread),
      inThread i = some (th, rd, pd) → s.start.thr th = some u → u.running = true → s.start.staleThread u = false → s.start.overBudget u = false →
      exec i s = .next t →
      t.latch = s.latch ∧ t.pending = s.pending ∧ t.m.onlyThreads s.m ∧ (∀ x : Nat, x ≠ th.val → t.m.thr x = s.m.thr x) ∧
      (∃ v, t.m.thr th = some v ∧ v = { u with g := v.g, pred := v.pred, pc := v.pc, got := v.got } ∧
        (∀ r, r ≠ rd.val → v.reg r = u.reg r) ∧ (∀ p, p ≠ pd.val → v.pr p = u.pr p)) ∧
      (∀ off, off ≠ CNT_CORE (th.val / 8) (8 * (th.val % 8)) → (∀ n, n < 8 → off ≠ CNT_FB_CNT (th.val / 8) n) → off ≠ CNT_FB_OVF (th.val / 8) →
        t.m.reg off = s.m.reg off)

/-- A trap of a manager thread fills its trap record and goes to the handler, or stops the thread. The record holds the fault address, the time, the PC,
the instruction word, the cause, the thread, SELF_DOMAIN and its generation, and the space, and is valid. With a handler set and the record clear
before, the thread goes on at SELF_TVEC with its registers as they were; else it is gone, MGR_TRAP is raised, and with coalescing on an error 0x7,3 of
the thread waits for the journal. Rules: R468, R469, R470. -/
def Obligations.ManagerTrapGoesToItsHandlerOrStops : Prop :=
  (∀ (m : Mach) (th : Nat) (c : Trap) (addr space imm : Nat) (t : Thread),
      m.thr th = some t → t.manager = true → t.pc + 4 ≤ t.win → t.tvec ≠ 0 → t.trec.valid = false →
      ∃ v, (m.trap th c addr space imm).thr th = some v ∧ v.pc = t.tvec ∧ v.hold = none ∧ v.g = t.g ∧ v.pred = t.pred ∧ v.inbox = t.inbox ∧
        v.trec = { addr := addr, time := m.tbNs, pc := t.pc, instr := m.word th t t.pc, cause := c.code, thread := th, dom := t.selfDom,
                   gen := (m.dom t.selfDom).gen, space := space, manager := true, valid := true } ∧
        (∀ x, x ≠ th → (m.trap th c addr space imm).thr x = m.thr x) ∧ (m.trap th c addr space imm).ddr = m.ddr ∧ (m.trap th c addr space imm).ls = m.ls) ∧
  (∀ (m : Mach) (th : Nat) (c : Trap) (addr space imm : Nat) (t : Thread),
      m.thr th = some t → t.manager = true → t.tvec = 0 ∨ t.trec.valid = true →
      (m.trap th c addr space imm).thr th = none ∧ (∀ x, x ≠ th → (m.trap th c addr space imm).thr x = m.thr x) ∧
      (m.trap th c addr space imm).rd SEQ_EVENT_MGR_TRAP = 1 ∧ (m.trap th c addr space imm).rd ERR_EVENT_RECORD = 1 ∧
      (m.rd ERR_CTRL_COALESCE ≠ 0 → ∃ g ∈ (m.trap th c addr space imm).merging, g.e.block = 7 ∧ g.e.code = 3 ∧ g.e.loc = th))

/-- A trap of a tenant thread goes into its domain's trap ring and ends its RUN entry. The 32 bytes of the record stand in the slot COUNT mod 128 of the
ring at the bottom of the domain's slice and every other byte of local DDR5 stays; COUNT rises by 1; the thread is gone; the RUN entry's operation is
over with the cause's status, sub-code 64 + cause, the PC in dword 2 and the low half of the fault address, or the TRAP immediate, in dword 3. Rules:
R468, R469. -/
def Obligations.TenantTrapIsRecordedAndEndsTheEntry : Prop :=
  (∀ (m : Mach) (th : Nat) (c : Trap) (addr space imm : Nat) (t : Thread) (r : List Byte) (at_ : Nat),
      m.thr th = some t → t.manager = false → m.staleThread t = false → t.pc + 4 ≤ t.win →
      r = TrapRec.bytes { addr := addr, time := m.tbNs, pc := t.pc, instr := m.word th t t.pc, cause := c.code, thread := th, dom := t.dom,
                          gen := (m.dom t.dom).gen, space := space, manager := false, valid := true } →
      at_ = (m.seqd t.dom).at + 32 * ((m.seqd t.dom).traps % 128) →
      (m.trap th c addr space imm).thr th = none ∧ (∀ x, x ≠ th → (m.trap th c addr space imm).thr x = m.thr x) ∧
      ((m.trap th c addr space imm).seqd t.dom).traps = ((m.seqd t.dom).traps + 1) % 2 ^ 32 ∧
      (∀ i, i < 32 → (m.trap th c addr space imm).ddr.byte (at_ + i) = r.getD i 0) ∧
      (∀ b, b < at_ ∨ at_ + 32 ≤ b → (m.trap th c addr space imm).ddr.byte b = m.ddr.byte b)) ∧
  (∀ (m : Mach) (th : Nat) (c : Trap) (addr space imm : Nat) (t : Thread) (e : EntryRef) (q : Sq) (k : Nat) (r : Run),
      m.thr th = some t → t.manager = false → m.staleThread t = false → t.pc + 4 ≤ t.win → t.entry = some e → m.sq e.dom e.q = some q →
      q.run[k]? = some r → r.idx = e.idx → r.done = false →
      ∃ p, (m.trap th c addr space imm).sq e.dom e.q = some p ∧
        p.run[k]? = some { r with work := .finished { status := c.status, sub := 64 + c.code, result := t.pc + 2 ^ 32 * ((if c = .trap then imm else addr) % 2 ^ 32) } })

/-- The error journal writes a record at its HEAD with its CRC and counts it, or counts the drop. While the ring has room (below 15/16 of it for a
corrected record), the 60 bytes of R588 and their CRC-32C stand at BASE + 64 × (HEAD mod 2^n), HEAD counts 1 and every other byte of local DDR5 stays;
without room DROP counts, saturating, and JRN_FULL is raised for a class above corrected; with LOG2_ENTRIES 0 nothing changes. Rules: R587, R588. -/
def Obligations.JournalKeepsARecordOrDropsIt : Prop :=
  (∀ (m : Mach) (e : ErrRec) (time gen count n head : Nat),
      n = m.rd ERR_JRN_CFG_LOG2_ENTRIES → 10 ≤ n → n ≤ 24 → head = m.rd ERR_JRN_HEAD_COUNT →
      (e.cls = .corrected → (head + 2 ^ 32 - m.rd ERR_JRN_TAIL_COUNT) % 2 ^ 32 * 16 < 15 * 2 ^ n) →
      (head + 2 ^ 32 - m.rd ERR_JRN_TAIL_COUNT) % 2 ^ 32 < 2 ^ n →
      (m.journal e time gen count).2 = head ∧ (m.journal e time gen count).1.rd ERR_JRN_HEAD_COUNT = (head + 1) % 2 ^ 32 ∧
      (∀ i, i < 60 → (m.journal e time gen count).1.ddr.byte (m.rd ERR_JRN_BASE_BASE * 64 + 64 * (head % 2 ^ n) + i) =
        (journalBody e time gen count head).getD i 0) ∧
      (m.journal e time gen count).1.ddr.read (m.rd ERR_JRN_BASE_BASE * 64 + 64 * (head % 2 ^ n) + 60) 4 = (crc32c (journalBody e time gen count head)).toNat ∧
      (∀ b, b < m.rd ERR_JRN_BASE_BASE * 64 + 64 * (head % 2 ^ n) ∨ m.rd ERR_JRN_BASE_BASE * 64 + 64 * (head % 2 ^ n) + 64 ≤ b →
        (m.journal e time gen count).1.ddr.byte b = m.ddr.byte b) ∧
      (∀ off, off ≠ ERR_JRN_HEAD → (m.journal e time gen count).1.reg off = m.reg off)) ∧
  (∀ (m : Mach) (e : ErrRec) (time gen count n fill : Nat),
      n = m.rd ERR_JRN_CFG_LOG2_ENTRIES → 10 ≤ n → n ≤ 24 → fill = (m.rd ERR_JRN_HEAD_COUNT + 2 ^ 32 - m.rd ERR_JRN_TAIL_COUNT) % 2 ^ 32 →
      (if e.cls = .corrected then 15 * 2 ^ n ≤ fill * 16 else 2 ^ n ≤ fill) →
      (m.journal e time gen count).1.ddr = m.ddr ∧ (m.journal e time gen count).1.rd ERR_JRN_HEAD_COUNT = m.rd ERR_JRN_HEAD_COUNT ∧
      (m.journal e time gen count).1.rd ERR_JRN_DROP_COUNT = min (m.rd ERR_JRN_DROP_COUNT + 1) (2 ^ 32 - 1) ∧
      (e.cls ≠ .corrected → (m.journal e time gen count).1.rd ERR_EVENT_JRN_FULL = 1) ∧
      (e.cls = .corrected → (m.journal e time gen count).1.rd ERR_EVENT_JRN_FULL = m.rd ERR_EVENT_JRN_FULL)) ∧
  (∀ (m : Mach) (e : ErrRec) (time gen count : Nat), m.rd ERR_JRN_CFG_LOG2_ENTRIES = 0 → (m.journal e time gen count).1 = m)

/-- The access check allows an access exactly when it allows every byte, and names the first byte that it does not. An allowed access has every byte
allowed and the translation of its first byte; a refused one of up to 2,048 bytes names the lowest byte that is not allowed, with that byte's cause,
and every byte below it is allowed. Casements of the domain and of D0 do not overlap (R326). Rules: R329, R337, R339. -/
def Obligations.AccessCheckIsByteWise : Prop :=
  (∀ (m : Mach) (d : Nat) (priv : Bool) (n : Need) (a len : Nat) (x : Xlat), disjointCas (m.dom d).cas → disjointCas (m.dom 0).cas →
      m.check d priv n a len = .allow x →
      (m.checkByte d priv n a).1 = .allow x ∧ (∀ b, a ≤ b → b < a + len → ∃ y, (m.checkByte d priv n b).1 = .allow y)) ∧
  (∀ (m : Mach) (d : Nat) (priv : Bool) (n : Need) (a len b c slot : Nat), disjointCas (m.dom d).cas → disjointCas (m.dom 0).cas →
      1 ≤ len → len ≤ 2048 → m.check d priv n a len = .refuse b c slot →
      a ≤ b ∧ b < a + len ∧ (m.checkByte d priv n b).1 = .refuse b c slot ∧
      (∀ i, a ≤ i → i < b → ∃ y, (m.checkByte d priv n i).1 = .allow y))

/-- The first refused access of a domain fills its violation record; further ones are counted. With VALID clear the record takes the access, the time and
the generation, COUNT 0, and VIOLATION is raised; with VALID set COUNT rises by 1, saturating at 0xFFFF_FFFF, and the rest of the record stays. No
other domain's record changes. Rules: R341. -/
def Obligations.RefusedAccessFillsOrCountsTheViolation : Prop :=
  (∀ (m : Mach) (d : Nat) (v : Viol), (m.dom d).viol.valid = false →
      ((m.violation d v).dom d).viol = { v with time := m.tbNs, valid := true, gen := (m.dom d).gen, count := 0 } ∧
      (m.violation d v).rd DOM_EVENT_VIOLATION = 1 ∧ (∀ x, x ≠ d → (m.violation d v).dom x = m.dom x) ∧
      ((m.violation d v).dom d).cas = (m.dom d).cas ∧ ((m.violation d v).dom d).gen = (m.dom d).gen) ∧
  (∀ (m : Mach) (d : Nat) (v : Viol), (m.dom d).viol.valid = true →
      ((m.violation d v).dom d).viol = { (m.dom d).viol with count := min ((m.dom d).viol.count + 1) 0xFFFFFFFF } ∧
      (∀ x, x ≠ d → (m.violation d v).dom x = m.dom x))

/-- A short on a standard channel turns it off, latches the cause and raises TRIP. In the Ramping, Qualifying or Power good state: PG and ON read 0,
TRIP_CAUSE reads SHORT_IN_RAMP or SHORT, STATE reads Retry wait where a retry is due and Off elsewhere, TRIP is raised, and the channel waits for no
admission. The standard channels alone have the comparator. Rules: R533, R536, R547. -/
def Obligations.ShortTripTurnsTheChannelOff : Prop :=
  ∀ (s : State) (c : Chan), c.val < 64 → 2 ≤ s.m.spcSt c → s.m.spcSt c ≤ 4 →
      Completes (.shortComparator c) s fun t =>
        t.m.rd (SPC_STATUS_PG c) = 0 ∧ t.m.rd (SPC_CTRL_ON c) = 0 ∧ t.m.rd (SPC_STATUS_TRIP_CAUSE c) = (if s.m.spcSt c = 2 then 1 else 2) ∧
        t.m.spcSt c = (if s.m.mayRetry c (if s.m.spcSt c = 2 then 1 else 2) then 5 else 0) ∧ t.m.rd (SPC_EVENT_TRIP c) = 1 ∧ ¬ c.val ∈ t.m.slotWait

/-- A summary bit that rises past the mask while a command runs is owed its vector. C_v of R627 is bit v of the summary with the mask applied. Whatever a
command leaves, a vector whose C was 0 before and is 1 after is owed, one that was owed before stays owed, and none is owed whose C did not rise.
Rules: R627. -/
def Obligations.RisenSummaryBitsAreOwedTheirVector : Prop :=
  ∀ (s : State) (m : Mach) (v : Nat), v < 11 →
      (bit (s.done m).m.irqOwed v = true ↔ bit m.irqOwed v = true ∨ (bit m.irqOn v = true ∧ bit s.m.irqOn v = false))

/-- A matched address translates to its device and DPA as the rule's formulas give. With s = a − BASE + OFFSET: a device target goes to TARGET's port (and
LD) at DPA s; an interleave set to member g mod ways, g = s / gran, at that member's base + (g / ways) × gran + s mod gran; a mirror pair to a
member's base + s; the coherence address of a COH Casement is COH_BASE + (a − BASE). No capacity is compared. Rules: R331. -/
def Obligations.TranslationFollowsTheCasement : Prop :=
  (∀ (m : Mach) (c : Casement) (a s : Nat), c.base ≤ a → s = a - c.base + c.offset → c.ilv = false → c.mirror = false →
      (m.translate c a).port = c.target % 1024 ∧ (m.translate c a).ld = (if bit c.target 14 then some (c.target / 1024 % 16) else none) ∧
      (m.translate c a).dpa = s) ∧
  (∀ (m : Mach) (c : Casement) (a s g : Nat) (t : IlvSet) (b : Member), c.base ≤ a → s = a - c.base + c.offset → c.ilv = true →
      t = m.ilvSet (c.target % 1024) → g = s / (256 * 2 ^ t.gran) → b = SMap.get {} t.members (g % 2 ^ t.ways) →
      (m.translate c a).port = b.port ∧ (m.translate c a).ld = (if b.mld then some b.ld else none) ∧
      (m.translate c a).dpa = b.dpaBase + g / 2 ^ t.ways * (256 * 2 ^ t.gran) + s % (256 * 2 ^ t.gran)) ∧
  (∀ (m : Mach) (c : Casement) (a s w : Nat) (p : MirPair), c.base ≤ a → s = a - c.base + c.offset → c.ilv = false → c.mirror = true →
      p = m.mirPair (c.target % 512) → w = p.readFrom a →
      (m.translate c a).port = (p.mem w).port ∧ (m.translate c a).ld = (if (p.mem w).mld then some (p.mem w).ld else none) ∧
      (m.translate c a).dpa = (p.mem w).dpaBase + s) ∧
  (∀ (m : Mach) (c : Casement) (a : Nat), c.base ≤ a → (m.translate c a).coh = (if c.coh then some (c.cohBase + (a - c.base)) else none))

/-- Two addresses of an interleaved Casement never reach one device byte. Where the members of the set differ in port or LD, the translation of a Casement
with ILV set gives different addresses different places. Rules: R331, R332. -/
def Obligations.InterleaveSetsTranslateInjectively : Prop :=
  ∀ (m : Mach) (c : Casement) (a b : Nat) (t : IlvSet), c.ilv = true → t = m.ilvSet (c.target % 1024) →
      (∀ i, i < 2 ^ t.ways → ∀ j, j < 2 ^ t.ways → (SMap.get {} t.members i).port = (SMap.get {} t.members j).port →
        (if (SMap.get {} t.members i).mld then some (SMap.get {} t.members i).ld else none) =
          (if (SMap.get {} t.members j).mld then some (SMap.get {} t.members j).ld else none) → i = j) →
      c.base ≤ a → c.base ≤ b → (m.translate c a).port = (m.translate c b).port → (m.translate c a).ld = (m.translate c b).ld →
      (m.translate c a).dpa = (m.translate c b).dpa → a = b

/-- A CQ entry's 16 bytes are its fields at the offsets of the layout, with the phase of its index. TAG, STATUS, SUB, SQ_HEAD, GEN and SQ_ID stand where
R407 places them, 0 between, and PHASE is 1 when the index has been around the ring an even number of times. Rules: R407. -/
def Obligations.CompletionEntryHasItsLayout : Prop :=
  ∀ (e : CqEnt) (j size : Nat), (e.bytes j size).length = 16 ∧ bget (e.bytes j size) 0 2 = e.tag % 2 ^ 16 ∧ bget (e.bytes j size) 2 1 = e.status % 256 ∧
      bget (e.bytes j size) 3 1 = e.sub % 256 ∧ bget (e.bytes j size) 4 4 = e.sqHead % 2 ^ 32 ∧ bget (e.bytes j size) 8 2 = e.gen % 2 ^ 16 ∧
      bget (e.bytes j size) 10 1 = e.sqId % 64 ∧ bget (e.bytes j size) 11 4 = 0 ∧ bget (e.bytes j size) 15 1 = (if j / size % 2 = 0 then 1 else 0)

/-- A write of SEQ_CTRL leaves a locked LOCKSTEP, notes an attempt to change it, and locks after taking the write's own value. Unlocked, LOCKSTEP takes
bit 0; locked, it stays, and LOCKED of GLB_ACC_EVENT rises only where the written value differs; LOCK stays set and is set by bit 1. Rules: R473,
R622. -/
def Obligations.LockedLockstepStays : Prop :=
  (∀ (s : State) (v : BitVec 32), s.start.rd SEQ_CTRL_LOCK = 0 →
      Completes (.seqCtrlLock v) s fun t => t.m.rd SEQ_CTRL_LOCKSTEP = v.toNat % 2 ∧ t.m.rd SEQ_CTRL_LOCK = v.toNat / 2 % 2 ∧ t.m.rd GLB_ACC_EVENT_LOCKED = s.m.rd GLB_ACC_EVENT_LOCKED) ∧
  (∀ (s : State) (v : BitVec 32), s.start.rd SEQ_CTRL_LOCK = 1 →
      v.toNat % 2 = s.start.rd SEQ_CTRL_LOCKSTEP →
      Completes (.seqCtrlLock v) s fun t => t.m.rd SEQ_CTRL_LOCKSTEP = s.m.rd SEQ_CTRL_LOCKSTEP ∧ t.m.rd SEQ_CTRL_LOCK = 1 ∧ t.m.rd GLB_ACC_EVENT_LOCKED = s.m.rd GLB_ACC_EVENT_LOCKED) ∧
  (∀ (s : State) (v : BitVec 32), s.start.rd SEQ_CTRL_LOCK = 1 →
      v.toNat % 2 ≠ s.start.rd SEQ_CTRL_LOCKSTEP →
      Completes (.seqCtrlLock v) s fun t => t.m.rd SEQ_CTRL_LOCKSTEP = s.m.rd SEQ_CTRL_LOCKSTEP ∧ t.m.rd SEQ_CTRL_LOCK = 1 ∧ t.m.rd GLB_ACC_EVENT_LOCKED = 1 ∧
      t.m.rd GLB_ACC_ADDR_OFFSET = SEQ_CTRL)
end

