-- ==== Sys2Proof/Laws/Map.lean ====
section
/-! SUPPORT. Sys2Proof/Laws/Map.lean: sparse tables and byte memories: a read after a write, and that every operation keeps the canonical form. -/
namespace Sys2Proof.Machine

variable {α : Type}

@[simp] theorem SMap.find_nil (x : Nat) : SMap.find ([] : SMap α) x = none := rfl

theorem SMap.find_ins_same (m : SMap α) (k : Nat) (v : α) : SMap.find (SMap.ins m k v) k = some v := by
  induction m with
  | nil => simp [SMap.ins, SMap.find]
  | cons e t ih =>
    obtain ⟨k', v'⟩ := e
    simp only [SMap.ins]
    split
    · simp [SMap.find]
    · split
      · simp [SMap.find]
      · rename_i h1 h2; simp [SMap.find, ih, Ne.symm h2]

theorem SMap.find_ins_ne (m : SMap α) {k x : Nat} (v : α) (h : x ≠ k) : SMap.find (SMap.ins m k v) x = SMap.find m x := by
  induction m with
  | nil => simp [SMap.ins, SMap.find, Ne.symm h]
  | cons e t ih =>
    obtain ⟨k', v'⟩ := e
    simp only [SMap.ins]
    split
    · simp [SMap.find, Ne.symm h]
    · split
      · rename_i h2; subst h2; simp [SMap.find, Ne.symm h]
      · simp [SMap.find, ih]

theorem SMap.find_filter (m : SMap α) (p : Nat → Bool) (x : Nat) :
    SMap.find (m.filter fun e => p e.1) x = if p x then SMap.find m x else none := by
  induction m with
  | nil => simp [SMap.find]
  | cons e t ih =>
    obtain ⟨k', v'⟩ := e
    rw [List.filter_cons]
    by_cases h : p k' = true
    · rw [if_pos h]
      simp only [SMap.find, ih]
      by_cases h2 : k' = x
      · subst h2; simp [h]
      · simp [h2]
    · rw [if_neg h, ih]
      simp only [SMap.find]
      by_cases h2 : k' = x
      · subst h2; simp [h]
      · simp [h2]

theorem SMap.find_del_same (m : SMap α) (k : Nat) : SMap.find (SMap.del m k) k = none := by
  simp [SMap.del, SMap.find_filter m (fun a => a != k)]

theorem SMap.find_del_ne (m : SMap α) {k x : Nat} (h : x ≠ k) : SMap.find (SMap.del m k) x = SMap.find m x := by
  simp [SMap.del, SMap.find_filter m (fun a => a != k), h]

theorem SMap.find_drop (m : SMap α) (lo hi x : Nat) : SMap.find (SMap.drop m lo hi) x = if lo ≤ x ∧ x < hi then none else SMap.find m x := by
  rw [SMap.drop, SMap.find_filter m (fun a => !(decide (lo ≤ a) && decide (a < hi)))]
  by_cases h1 : lo ≤ x <;> by_cases h2 : x < hi <;> simp [h1, h2]

theorem SMap.get_set_same [DecidableEq α] (d : α) (m : SMap α) (k : Nat) (v : α) : SMap.get d (SMap.set d m k v) k = v := by
  unfold SMap.set
  split
  · rename_i h; simp [SMap.get, SMap.find_del_same, h]
  · simp [SMap.get, SMap.find_ins_same]

theorem SMap.get_set_ne [DecidableEq α] (d e : α) (m : SMap α) {k x : Nat} (v : α) (h : x ≠ k) : SMap.get e (SMap.set d m k v) x = SMap.get e m x := by
  unfold SMap.set
  split <;> simp [SMap.get, SMap.find_del_ne, SMap.find_ins_ne, h]

/-! ### The canonical form -/

theorem SMap.rising_weaken {m : SMap α} {x y : Nat} (h : SMap.rising (some y) m = true) (hxy : x ≤ y) : SMap.rising (some x) m = true := by
  cases m with
  | nil => rfl
  | cons e t =>
    obtain ⟨k, v⟩ := e
    simp only [SMap.rising, Bool.and_eq_true, decide_eq_true_eq] at h ⊢
    exact ⟨by omega, h.2⟩

theorem SMap.rising_none {m : SMap α} {x : Nat} (h : SMap.rising (some x) m = true) : SMap.rising none m = true := by
  cases m with
  | nil => rfl
  | cons e t => obtain ⟨k, v⟩ := e; simp only [SMap.rising, Bool.and_eq_true] at h ⊢; exact ⟨trivial, h.2⟩

theorem SMap.rising_ins_some {m : SMap α} {b k : Nat} (v : α) (h : SMap.rising (some b) m = true) (hb : b < k) :
    SMap.rising (some b) (SMap.ins m k v) = true := by
  induction m generalizing b with
  | nil => simp [SMap.ins, SMap.rising, hb]
  | cons e t ih =>
    obtain ⟨k', v'⟩ := e
    simp only [SMap.rising, Bool.and_eq_true, decide_eq_true_eq] at h
    simp only [SMap.ins]
    split
    · simp [SMap.rising, *]
    · split
      · rename_i h2; subst h2; simp [SMap.rising, h.1, h.2]
      · have hk : k' < k := by omega
        simp [SMap.rising, h.1, ih h.2 hk]

theorem SMap.rising_ins {m : SMap α} {k : Nat} (v : α) (h : SMap.rising none m = true) : SMap.rising none (SMap.ins m k v) = true := by
  cases m with
  | nil => rfl
  | cons e t =>
    obtain ⟨k', v'⟩ := e
    simp only [SMap.rising, Bool.and_eq_true] at h
    simp only [SMap.ins]
    split
    · simp [SMap.rising, *]
    · split
      · rename_i h2; subst h2; simp [SMap.rising, h.2]
      · have hk : k' < k := by omega
        simp [SMap.rising, SMap.rising_ins_some v h.2 hk]

theorem SMap.rising_filter_some {m : SMap α} (p : Nat × α → Bool) {b : Nat} (h : SMap.rising (some b) m = true) :
    SMap.rising (some b) (m.filter p) = true := by
  induction m generalizing b with
  | nil => rfl
  | cons e t ih =>
    obtain ⟨k, v⟩ := e
    simp only [SMap.rising, Bool.and_eq_true, decide_eq_true_eq] at h
    rw [List.filter_cons]
    split
    · simp [SMap.rising, h.1, ih h.2]
    · exact ih (SMap.rising_weaken h.2 (Nat.le_of_lt h.1))

theorem SMap.rising_filter {m : SMap α} (p : Nat × α → Bool) (h : SMap.rising none m = true) : SMap.rising none (m.filter p) = true := by
  cases m with
  | nil => rfl
  | cons e t =>
    obtain ⟨k, v⟩ := e
    simp only [SMap.rising, Bool.and_eq_true] at h
    rw [List.filter_cons]
    split
    · simp [SMap.rising, SMap.rising_filter_some p h.2]
    · exact SMap.rising_none (SMap.rising_filter_some p h.2)

theorem SMap.all_ins (p : Nat × α → Bool) {m : SMap α} {k : Nat} {v : α} (h : m.all p = true) (hv : p (k, v) = true) :
    (SMap.ins m k v).all p = true := by
  induction m with
  | nil => simp [SMap.ins, hv]
  | cons e t ih =>
    obtain ⟨k', v'⟩ := e
    simp only [List.all_cons, Bool.and_eq_true] at h
    simp only [SMap.ins]
    split
    · simp [hv, h.1, h.2]
    · split
      · simp [hv, h.2]
      · rw [List.all_cons, Bool.and_eq_true]; exact ⟨h.1, ih h.2⟩

theorem SMap.wf_ins [DecidableEq α] {d : Nat → α} {m : SMap α} {k : Nat} {v : α} (h : SMap.wf d m = true) (hv : v ≠ d k) :
    SMap.wf d (SMap.ins m k v) = true := by
  simp only [SMap.wf, Bool.and_eq_true] at h ⊢
  exact ⟨SMap.rising_ins v h.1, SMap.all_ins _ h.2 (by simp [hv])⟩

theorem SMap.wf_filter [DecidableEq α] {d : Nat → α} {m : SMap α} (p : Nat × α → Bool) (h : SMap.wf d m = true) : SMap.wf d (m.filter p) = true := by
  simp only [SMap.wf, Bool.and_eq_true] at h ⊢
  refine ⟨SMap.rising_filter p h.1, ?_⟩
  rw [List.all_eq_true] at h ⊢
  intro x hx
  exact h.2 x (List.mem_filter.mp hx).1

theorem SMap.wf_set [DecidableEq α] {d : α} {m : SMap α} (k : Nat) (v : α) (h : SMap.wf (fun _ => d) m = true) :
    SMap.wf (fun _ => d) (SMap.set d m k v) = true := by
  unfold SMap.set
  split
  · exact SMap.wf_filter _ h
  · rename_i hv; exact SMap.wf_ins h hv

theorem SMap.wf_drop [DecidableEq α] {d : Nat → α} {m : SMap α} (lo hi : Nat) (h : SMap.wf d m = true) : SMap.wf d (SMap.drop m lo hi) = true :=
  SMap.wf_filter _ h

/-! ### Byte memories -/

theorem Mem.byte_setByte_same (m : Mem) (a : Nat) (b : Byte) : Mem.byte (Mem.setByte m a b) a = b := SMap.get_set_same _ _ _ _

theorem Mem.byte_setByte_ne (m : Mem) {a x : Nat} (b : Byte) (h : x ≠ a) : Mem.byte (Mem.setByte m a b) x = Mem.byte m x := SMap.get_set_ne _ _ _ _ h

theorem Mem.byte_write_out (m : Mem) (a n v x : Nat) (h : x < a ∨ a + n ≤ x) : Mem.byte (Mem.write m a n v) x = Mem.byte m x := by
  induction n generalizing m a v with
  | zero => rfl
  | succ n ih =>
    rw [Mem.write, ih _ _ _ (by omega), Mem.byte_setByte_ne _ _ (by omega)]

theorem Mem.byte_writeBytes_out (m : Mem) (a x : Nat) (l : List Byte) (h : x < a ∨ a + l.length ≤ x) :
    Mem.byte (Mem.writeBytes m a l) x = Mem.byte m x := by
  induction l generalizing m a with
  | nil => rfl
  | cons b t ih =>
    simp only [List.length_cons] at h
    rw [Mem.writeBytes, ih _ _ (by omega), Mem.byte_setByte_ne _ _ (by omega)]

theorem Mem.read_write_same (m : Mem) (a n v : Nat) : Mem.read (Mem.write m a n v) a n = v % 256 ^ n := by
  induction n generalizing m a v with
  | zero => simp [Mem.read, Nat.mod_one]
  | succ n ih =>
    rw [Mem.read, Mem.write, ih, Mem.byte_write_out _ _ _ _ _ (Or.inl (by omega)), Mem.byte_setByte_same]
    rw [Nat.pow_succ, Nat.mul_comm (256 ^ n) 256, Nat.mod_mul, BitVec.toNat_ofNat]

theorem Mem.wf_setByte {m : Mem} (a : Nat) (b : Byte) (h : Mem.wf m = true) : Mem.wf (Mem.setByte m a b) = true := SMap.wf_set a b h

theorem Mem.wf_write {m : Mem} (a n v : Nat) (h : Mem.wf m = true) : Mem.wf (Mem.write m a n v) = true := by
  induction n generalizing m a v with
  | zero => exact h
  | succ n ih => exact ih _ _ (Mem.wf_setByte a _ h)

theorem Mem.wf_writeBytes {m : Mem} (a : Nat) (l : List Byte) (h : Mem.wf m = true) : Mem.wf (Mem.writeBytes m a l) = true := by
  induction l generalizing m a with
  | nil => exact h
  | cons b t ih => exact ih _ (Mem.wf_setByte a b h)

theorem Mem.wf_foldr_ins (f : Nat → Nat) (l : Mem) (hl : ∀ c ∈ l, c.2 ≠ Mem.unwritten) (d : Mem) (h : Mem.wf d = true) :
    Mem.wf (l.foldr (fun (c : Nat × Byte) d => SMap.ins d (f c.1) c.2) d) = true := by
  induction l with
  | nil => exact h
  | cons c t ih => exact SMap.wf_ins (ih (fun x hx => hl x (List.mem_cons_of_mem _ hx))) (hl c List.mem_cons_self)

theorem Mem.wf_blit {dst src : Mem} (dest n from_ : Nat) (hd : Mem.wf dst = true) (hs : Mem.wf src = true) :
    Mem.wf (Mem.blit dst dest n src from_) = true := by
  unfold Mem.blit
  refine Mem.wf_foldr_ins (fun a => a - from_ + dest) _ ?_ _ (SMap.wf_drop _ _ hd)
  intro c hc
  have h2 := hs
  simp only [Mem.wf, SMap.wf, Bool.and_eq_true, List.all_eq_true] at h2
  simpa using h2.2 c (List.mem_filter.mp hc).1

/-- A copied byte is the source's. -/
theorem Mem.byte_blit_in (dst src : Mem) (dest n from_ i : Nat) (hi : i < n) : Mem.byte (Mem.blit dst dest n src from_) (dest + i) = Mem.byte src (from_ + i) := by
  unfold Mem.blit
  induction src with
  | nil => simp [Mem.byte, SMap.get, SMap.find_drop, SMap.find, hi]
  | cons c t ih =>
    obtain ⟨k, v⟩ := c
    rw [List.filter_cons]
    split
    · rename_i hk
      simp only [Bool.and_eq_true, decide_eq_true_eq] at hk
      rw [List.foldr_cons]
      by_cases h : k = from_ + i
      · subst h
        rw [show from_ + i - from_ + dest = dest + i by omega]
        simp [Mem.byte, SMap.get, SMap.find_ins_same, SMap.find]
      · simp only [Mem.byte, SMap.get] at ih ⊢
        rw [SMap.find_ins_ne _ _ (by omega), ih]
        simp [SMap.find, h]
    · rename_i hk
      rw [ih]
      have h : k ≠ from_ + i := by
        intro h; subst h; simp [hi] at hk
      simp [Mem.byte, SMap.get, SMap.find, h]

/-- Bytes outside a copy's target stay. -/
theorem Mem.byte_blit_out (dst src : Mem) (dest n from_ x : Nat) (h : x < dest ∨ dest + n ≤ x) : Mem.byte (Mem.blit dst dest n src from_) x = Mem.byte dst x := by
  unfold Mem.blit
  induction src with
  | nil => simp only [List.filter_nil, List.foldr_nil, Mem.byte, SMap.get, SMap.find_drop]; rw [if_neg (by omega)]
  | cons c t ih =>
    obtain ⟨k, v⟩ := c
    rw [List.filter_cons]
    split
    · rename_i hk
      simp only [Bool.and_eq_true, decide_eq_true_eq] at hk
      rw [List.foldr_cons]
      simp only [Mem.byte, SMap.get] at ih ⊢
      rw [SMap.find_ins_ne _ _ (by omega), ih]
    · exact ih

end Sys2Proof.Machine
end

