-- ==== Sys2Proof/Laws/Regs.lean ====
section
/-! SUPPORT. Sys2Proof/Laws/Regs.lean: registers and their fields: a read after a write of the same register, of another one, of another
field of the same one. -/
namespace Sys2Proof.Machine

theorem Mach.reg_setReg_same (m : Mach) (off : Nat) (v : Word) : (m.setReg off v).reg off = v := SMap.get_set_same _ _ _ _

theorem Mach.reg_setReg_ne (m : Mach) {off x : Nat} (v : Word) (h : x ≠ off) : (m.setReg off v).reg x = m.reg x := SMap.get_set_ne _ _ _ _ h

theorem Mach.reg_setReg (m : Mach) (off x : Nat) (v : Word) : (m.setReg off v).reg x = if x = off then v else m.reg x := by
  by_cases h : x = off
  · subst h; simp [Mach.reg_setReg_same]
  · simp [h, Mach.reg_setReg_ne]

/-- A bit of a word with one field replaced. -/
theorem testBit_putField (w : Word) (lo n v i : Nat) :
    (putField w lo n v).toNat.testBit i = if lo ≤ i ∧ i < lo + n ∧ i < 64 then v.testBit (i - lo) else w.toNat.testBit i := by
  have hm : ∀ j, (2 ^ n - 1).testBit j = decide (j < n) := fun j => Nat.testBit_two_pow_sub_one n j
  rw [BitVec.testBit_toNat, BitVec.testBit_toNat]
  by_cases hi : i < 64
  · simp only [putField, BitVec.getLsbD_or, BitVec.getLsbD_and, BitVec.getLsbD_not, BitVec.getLsbD_ofNat, Nat.testBit_shiftLeft, hm,
      Nat.testBit_mod_two_pow, hi, decide_true, Bool.true_and]
    by_cases h1 : lo ≤ i
    · by_cases h2 : i - lo < n
      · have h3 : i < lo + n := by omega
        simp [h1, h2, h3]
      · have h3 : ¬ i < lo + n := by omega
        simp [h1, h2, h3]
    · simp [h1]
  · simp [hi, BitVec.getLsbD_of_ge _ _ (Nat.le_of_not_lt hi)]

/-- A field of a word after that field is replaced. -/
theorem field_putField_same (w : Word) (lo n v : Nat) (h : lo + n ≤ 64) : ((putField w lo n v).toNat >>> lo) % 2 ^ n = v % 2 ^ n := by
  apply Nat.eq_of_testBit_eq
  intro i
  simp only [Nat.testBit_mod_two_pow, Nat.testBit_shiftRight, testBit_putField]
  by_cases hi : i < n
  · have h1 : lo ≤ lo + i ∧ lo + i < lo + n ∧ lo + i < 64 := by omega
    simp [hi, h1]
  · simp [hi]

/-- A field of a word after a field that does not meet it is replaced. -/
theorem field_putField_ne (w : Word) (lo n v lo' n' : Nat) (h : lo' + n' ≤ lo ∨ lo + n ≤ lo') :
    ((putField w lo n v).toNat >>> lo') % 2 ^ n' = (w.toNat >>> lo') % 2 ^ n' := by
  apply Nat.eq_of_testBit_eq
  intro i
  simp only [Nat.testBit_mod_two_pow, Nat.testBit_shiftRight, testBit_putField]
  by_cases hi : i < n'
  · have h1 : ¬ (lo ≤ lo' + i ∧ lo' + i < lo + n ∧ lo' + i < 64) := by omega
    simp [h1]
  · simp [hi]

theorem Mach.rd_wr_same (m : Mach) (f : Fld) (v : Nat) (h : f.lo + f.w ≤ 64) : (m.wr f v).rd f = v % 2 ^ f.w := by
  rw [Mach.rd, Mach.wr, Mach.reg_setReg_same]; exact field_putField_same _ _ _ _ h

theorem Mach.rd_wr_ne (m : Mach) (f g : Fld) (v : Nat) (h : g.off ≠ f.off ∨ g.lo + g.w ≤ f.lo ∨ f.lo + f.w ≤ g.lo) :
    (m.wr f v).rd g = m.rd g := by
  by_cases ho : g.off = f.off
  · rw [Mach.rd, Mach.wr, ho, Mach.reg_setReg_same, field_putField_ne _ _ _ _ _ _ (h.resolve_left (fun hn => hn ho)), Mach.rd, ho]
  · rw [Mach.rd, Mach.wr, Mach.reg_setReg_ne _ _ ho, Mach.rd]

theorem Mach.rd_raise_same (m : Mach) (f : Fld) (h : f.lo + f.w ≤ 64) (hw : f.w ≠ 0) : (m.raise f).rd f = 1 := by
  rw [Mach.raise, Mach.rd_wr_same _ _ _ h, Nat.mod_eq_of_lt (Nat.one_lt_two_pow hw)]

theorem Mach.rd_raise_ne (m : Mach) (f g : Fld) (h : g.off ≠ f.off ∨ g.lo + g.w ≤ f.lo ∨ f.lo + f.w ≤ g.lo) : (m.raise f).rd g = m.rd g :=
  Mach.rd_wr_ne m f g 1 h

theorem Mach.rd_setReg_ne (m : Mach) (off : Nat) (v : Word) (g : Fld) (h : g.off ≠ off) : (m.setReg off v).rd g = m.rd g := by
  rw [Mach.rd, Mach.reg_setReg_ne _ _ h, Mach.rd]

theorem Mach.reg_wr_ne (m : Mach) (f : Fld) (v x : Nat) (h : x ≠ f.off) : (m.wr f v).reg x = m.reg x := Mach.reg_setReg_ne _ _ h

/-! ### The state around a meaning -/

theorem act_start (f : Mach → Mach) (s : State) : act f s = .next (s.done (f s.start)) := rfl

theorem actL_start (f : ModeLatch → Mach → Mach) (s : State) : actL f s = .next (s.done (f s.latch s.start)) := rfl

theorem actW_start (f : ModeLatch → Mach → Mach) (s : State) (h : (f s.latch s.start).coldReq = none) :
    actW f s = .next (s.done (f s.latch s.start)) := by
  unfold actW
  simp only [State.start] at h
  simp only [h]
  rfl

@[simp] theorem State.done_latch (s : State) (m : Mach) : (s.done m).latch = s.latch := rfl
@[simp] theorem State.done_pending (s : State) (m : Mach) : (s.done m).pending = s.pending := rfl
@[simp] theorem State.done_reg (s : State) (m : Mach) (x : Nat) : (s.done m).m.reg x = m.reg x := rfl
@[simp] theorem State.done_rd (s : State) (m : Mach) (f : Fld) : (s.done m).m.rd f = m.rd f := rfl
@[simp] theorem State.done_flag (s : State) (m : Mach) (f : Fld) : (s.done m).m.flag f = m.flag f := rfl
theorem State.start_reg (s : State) (x : Nat) : s.start.reg x = s.m.reg x := rfl
theorem State.start_rd (s : State) (f : Fld) : s.start.rd f = s.m.rd f := rfl
theorem State.start_flag (s : State) (f : Fld) : s.start.flag f = s.m.flag f := rfl
theorem State.start_out (s : State) : s.start.out = [] := rfl

end Sys2Proof.Machine
end

