-- ==== Sys2Proof/Laws/State.lean ====
section
/-! SUPPORT. Sys2Proof/Laws/State.lean: what each update of the state leaves alone, one lemma for each field and update, by rfl. -/
namespace Sys2Proof.Machine

@[simp] theorem Mach.setReg_pins (m : Mach) (o : Nat) (v : Word) : (m.setReg o v).pins = m.pins := rfl
@[simp] theorem Mach.setReg_boot (m : Mach) (o : Nat) (v : Word) : (m.setReg o v).boot = m.boot := rfl
@[simp] theorem Mach.setReg_flash (m : Mach) (o : Nat) (v : Word) : (m.setReg o v).flash = m.flash := rfl
@[simp] theorem Mach.setReg_fuses (m : Mach) (o : Nat) (v : Word) : (m.setReg o v).fuses = m.fuses := rfl
@[simp] theorem Mach.setReg_pldm (m : Mach) (o : Nat) (v : Word) : (m.setReg o v).pldm = m.pldm := rfl
@[simp] theorem Mach.setReg_warnC (m : Mach) (o : Nat) (v : Word) : (m.setReg o v).warnC = m.warnC := rfl
@[simp] theorem Mach.setReg_ddr (m : Mach) (o : Nat) (v : Word) : (m.setReg o v).ddr = m.ddr := rfl
@[simp] theorem Mach.setReg_selfRefresh (m : Mach) (o : Nat) (v : Word) : (m.setReg o v).selfRefresh = m.selfRefresh := rfl
@[simp] theorem Mach.setReg_tb (m : Mach) (o : Nat) (v : Word) : (m.setReg o v).tb = m.tb := rfl
@[simp] theorem Mach.setReg_doms (m : Mach) (o : Nat) (v : Word) : (m.setReg o v).doms = m.doms := rfl
@[simp] theorem Mach.setReg_domPort (m : Mach) (o : Nat) (v : Word) : (m.setReg o v).domPort = m.domPort := rfl
@[simp] theorem Mach.setReg_domFabric (m : Mach) (o : Nat) (v : Word) : (m.setReg o v).domFabric = m.domFabric := rfl
@[simp] theorem Mach.setReg_epoch (m : Mach) (o : Nat) (v : Word) : (m.setReg o v).epoch = m.epoch := rfl
@[simp] theorem Mach.setReg_ilv (m : Mach) (o : Nat) (v : Word) : (m.setReg o v).ilv = m.ilv := rfl
@[simp] theorem Mach.setReg_mir (m : Mach) (o : Nat) (v : Word) : (m.setReg o v).mir = m.mir := rfl
@[simp] theorem Mach.setReg_changes (m : Mach) (o : Nat) (v : Word) : (m.setReg o v).changes = m.changes := rfl
@[simp] theorem Mach.setReg_fences (m : Mach) (o : Nat) (v : Word) : (m.setReg o v).fences = m.fences := rfl
@[simp] theorem Mach.setReg_merging (m : Mach) (o : Nat) (v : Word) : (m.setReg o v).merging = m.merging := rfl
@[simp] theorem Mach.setReg_freeIx (m : Mach) (o : Nat) (v : Word) : (m.setReg o v).freeIx = m.freeIx := rfl
@[simp] theorem Mach.setReg_out (m : Mach) (o : Nat) (v : Word) : (m.setReg o v).out = m.out := rfl
@[simp] theorem Mach.setReg_tfPrev (m : Mach) (o : Nat) (v : Word) : (m.setReg o v).tfPrev = m.tfPrev := rfl
@[simp] theorem Mach.setReg_tfLast (m : Mach) (o : Nat) (v : Word) : (m.setReg o v).tfLast = m.tfLast := rfl
@[simp] theorem Mach.setReg_coldReq (m : Mach) (o : Nat) (v : Word) : (m.setReg o v).coldReq = m.coldReq := rfl
@[simp] theorem Mach.setReg_ports (m : Mach) (o : Nat) (v : Word) : (m.setReg o v).ports = m.ports := rfl
@[simp] theorem Mach.setReg_binds (m : Mach) (o : Nat) (v : Word) : (m.setReg o v).binds = m.binds := rfl
@[simp] theorem Mach.setReg_vppbs (m : Mach) (o : Nat) (v : Word) : (m.setReg o v).vppbs = m.vppbs := rfl
@[simp] theorem Mach.setReg_fm (m : Mach) (o : Nat) (v : Word) : (m.setReg o v).fm = m.fm := rfl
@[simp] theorem Mach.setReg_expOut (m : Mach) (o : Nat) (v : Word) : (m.setReg o v).expOut = m.expOut := rfl
@[simp] theorem Mach.setReg_expIn (m : Mach) (o : Nat) (v : Word) : (m.setReg o v).expIn = m.expIn := rfl
@[simp] theorem Mach.setReg_trk (m : Mach) (o : Nat) (v : Word) : (m.setReg o v).trk = m.trk := rfl
@[simp] theorem Mach.setReg_trkWait (m : Mach) (o : Nat) (v : Word) : (m.setReg o v).trkWait = m.trkWait := rfl
@[simp] theorem Mach.setReg_trkRr (m : Mach) (o : Nat) (v : Word) : (m.setReg o v).trkRr = m.trkRr := rfl
@[simp] theorem Mach.setReg_voqs (m : Mach) (o : Nat) (v : Word) : (m.setReg o v).voqs = m.voqs := rfl
@[simp] theorem Mach.setReg_reseqs (m : Mach) (o : Nat) (v : Word) : (m.setReg o v).reseqs = m.reseqs := rfl
@[simp] theorem Mach.setReg_classes (m : Mach) (o : Nat) (v : Word) : (m.setReg o v).classes = m.classes := rfl
@[simp] theorem Mach.setReg_postedSent (m : Mach) (o : Nat) (v : Word) : (m.setReg o v).postedSent = m.postedSent := rfl
@[simp] theorem Mach.setReg_postedTx (m : Mach) (o : Nat) (v : Word) : (m.setReg o v).postedTx = m.postedTx := rfl
@[simp] theorem Mach.setReg_egress (m : Mach) (o : Nat) (v : Word) : (m.setReg o v).egress = m.egress := rfl
@[simp] theorem Mach.setReg_egOcc (m : Mach) (o : Nat) (v : Word) : (m.setReg o v).egOcc = m.egOcc := rfl
@[simp] theorem Mach.setReg_egDrr (m : Mach) (o : Nat) (v : Word) : (m.setReg o v).egDrr = m.egDrr := rfl
@[simp] theorem Mach.setReg_linkCr (m : Mach) (o : Nat) (v : Word) : (m.setReg o v).linkCr = m.linkCr := rfl
@[simp] theorem Mach.setReg_ibuf (m : Mach) (o : Nat) (v : Word) : (m.setReg o v).ibuf = m.ibuf := rfl
@[simp] theorem Mach.setReg_tags (m : Mach) (o : Nat) (v : Word) : (m.setReg o v).tags = m.tags := rfl
@[simp] theorem Mach.setReg_planeErr (m : Mach) (o : Nat) (v : Word) : (m.setReg o v).planeErr = m.planeErr := rfl
@[simp] theorem Mach.setReg_agentDone (m : Mach) (o : Nat) (v : Word) : (m.setReg o v).agentDone = m.agentDone := rfl
@[simp] theorem Mach.setReg_now (m : Mach) (o : Nat) (v : Word) : (m.setReg o v).now = m.now := rfl
@[simp] theorem Mach.setReg_lvr (m : Mach) (o : Nat) (v : Word) : (m.setReg o v).lvr = m.lvr := rfl
@[simp] theorem Mach.setReg_lkpWeight (m : Mach) (o : Nat) (v : Word) : (m.setReg o v).lkpWeight = m.lkpWeight := rfl
@[simp] theorem Mach.setReg_lkpDef (m : Mach) (o : Nat) (v : Word) : (m.setReg o v).lkpDef = m.lkpDef := rfl
@[simp] theorem Mach.setReg_lkpLast (m : Mach) (o : Nat) (v : Word) : (m.setReg o v).lkpLast = m.lkpLast := rfl
@[simp] theorem Mach.setReg_smp (m : Mach) (o : Nat) (v : Word) : (m.setReg o v).smp = m.smp := rfl
@[simp] theorem Mach.setReg_t1 (m : Mach) (o : Nat) (v : Word) : (m.setReg o v).t1 = m.t1 := rfl
@[simp] theorem Mach.setReg_t2 (m : Mach) (o : Nat) (v : Word) : (m.setReg o v).t2 = m.t2 := rfl
@[simp] theorem Mach.setReg_summary (m : Mach) (o : Nat) (v : Word) : (m.setReg o v).summary = m.summary := rfl
@[simp] theorem Mach.setReg_rebuilding (m : Mach) (o : Nat) (v : Word) : (m.setReg o v).rebuilding = m.rebuilding := rfl
@[simp] theorem Mach.setReg_lines (m : Mach) (o : Nat) (v : Word) : (m.setReg o v).lines = m.lines := rfl
@[simp] theorem Mach.setReg_busyWait (m : Mach) (o : Nat) (v : Word) : (m.setReg o v).busyWait = m.busyWait := rfl
@[simp] theorem Mach.setReg_toEvict (m : Mach) (o : Nat) (v : Word) : (m.setReg o v).toEvict = m.toEvict := rfl
@[simp] theorem Mach.setReg_quotaWalk (m : Mach) (o : Nat) (v : Word) : (m.setReg o v).quotaWalk = m.quotaWalk := rfl
@[simp] theorem Mach.setReg_tenures (m : Mach) (o : Nat) (v : Word) : (m.setReg o v).tenures = m.tenures := rfl
@[simp] theorem Mach.setReg_vc2Rx (m : Mach) (o : Nat) (v : Word) : (m.setReg o v).vc2Rx = m.vc2Rx := rfl
@[simp] theorem Mach.setReg_birsps (m : Mach) (o : Nat) (v : Word) : (m.setReg o v).birsps = m.birsps := rfl
@[simp] theorem Mach.setReg_flowCnt (m : Mach) (o : Nat) (v : Word) : (m.setReg o v).flowCnt = m.flowCnt := rfl
@[simp] theorem Mach.setReg_specWin (m : Mach) (o : Nat) (v : Word) : (m.setReg o v).specWin = m.specWin := rfl
@[simp] theorem Mach.setReg_deadWalks (m : Mach) (o : Nat) (v : Word) : (m.setReg o v).deadWalks = m.deadWalks := rfl
@[simp] theorem Mach.setReg_validWritten (m : Mach) (o : Nat) (v : Word) : (m.setReg o v).validWritten = m.validWritten := rfl
@[simp] theorem Mach.setReg_shadow (m : Mach) (o : Nat) (v : Word) : (m.setReg o v).shadow = m.shadow := rfl
@[simp] theorem Mach.setReg_ring (m : Mach) (o : Nat) (v : Word) : (m.setReg o v).ring = m.ring := rfl
@[simp] theorem Mach.setReg_changed (m : Mach) (o : Nat) (v : Word) : (m.setReg o v).changed = m.changed := rfl
@[simp] theorem Mach.setReg_recover (m : Mach) (o : Nat) (v : Word) : (m.setReg o v).recover = m.recover := rfl
@[simp] theorem Mach.setReg_recovering (m : Mach) (o : Nat) (v : Word) : (m.setReg o v).recovering = m.recovering := rfl
@[simp] theorem Mach.setReg_deadWays (m : Mach) (o : Nat) (v : Word) : (m.setReg o v).deadWays = m.deadWays := rfl
@[simp] theorem Mach.setReg_sparesUsed (m : Mach) (o : Nat) (v : Word) : (m.setReg o v).sparesUsed = m.sparesUsed := rfl
@[simp] theorem Mach.setReg_lostBuckets (m : Mach) (o : Nat) (v : Word) : (m.setReg o v).lostBuckets = m.lostBuckets := rfl
@[simp] theorem Mach.setReg_mirWait (m : Mach) (o : Nat) (v : Word) : (m.setReg o v).mirWait = m.mirWait := rfl
@[simp] theorem Mach.setReg_lanes (m : Mach) (o : Nat) (v : Word) : (m.setReg o v).lanes = m.lanes := rfl
@[simp] theorem Mach.setReg_zx (m : Mach) (o : Nat) (v : Word) : (m.setReg o v).zx = m.zx := rfl
@[simp] theorem Mach.setReg_d2d (m : Mach) (o : Nat) (v : Word) : (m.setReg o v).d2d = m.d2d := rfl
@[simp] theorem Mach.setReg_slots (m : Mach) (o : Nat) (v : Word) : (m.setReg o v).slots = m.slots := rfl
@[simp] theorem Mach.setReg_slotWait (m : Mach) (o : Nat) (v : Word) : (m.setReg o v).slotWait = m.slotWait := rfl
@[simp] theorem Mach.setReg_feeds (m : Mach) (o : Nat) (v : Word) : (m.setReg o v).feeds = m.feeds := rfl
@[simp] theorem Mach.setReg_busMv (m : Mach) (o : Nat) (v : Word) : (m.setReg o v).busMv = m.busMv := rfl
@[simp] theorem Mach.setReg_ibTimes (m : Mach) (o : Nat) (v : Word) : (m.setReg o v).ibTimes = m.ibTimes := rfl
@[simp] theorem Mach.setReg_ibCur (m : Mach) (o : Nat) (v : Word) : (m.setReg o v).ibCur = m.ibCur := rfl
@[simp] theorem Mach.setReg_ibNew (m : Mach) (o : Nat) (v : Word) : (m.setReg o v).ibNew = m.ibNew := rfl
@[simp] theorem Mach.setReg_pipes (m : Mach) (o : Nat) (v : Word) : (m.setReg o v).pipes = m.pipes := rfl
@[simp] theorem Mach.setReg_rp (m : Mach) (o : Nat) (v : Word) : (m.setReg o v).rp = m.rp := rfl
@[simp] theorem Mach.setReg_tbl (m : Mach) (o : Nat) (v : Word) : (m.setReg o v).tbl = m.tbl := rfl
@[simp] theorem Mach.setReg_sqs (m : Mach) (o : Nat) (v : Word) : (m.setReg o v).sqs = m.sqs := rfl
@[simp] theorem Mach.setReg_cqs (m : Mach) (o : Nat) (v : Word) : (m.setReg o v).cqs = m.cqs := rfl
@[simp] theorem Mach.setReg_qifs (m : Mach) (o : Nat) (v : Word) : (m.setReg o v).qifs = m.qifs := rfl
@[simp] theorem Mach.setReg_qLastDom (m : Mach) (o : Nat) (v : Word) : (m.setReg o v).qLastDom = m.qLastDom := rfl
@[simp] theorem Mach.setReg_qLast (m : Mach) (o : Nat) (v : Word) : (m.setReg o v).qLast = m.qLast := rfl
@[simp] theorem Mach.setReg_cpeLastDom (m : Mach) (o : Nat) (v : Word) : (m.setReg o v).cpeLastDom = m.cpeLastDom := rfl
@[simp] theorem Mach.setReg_cpeLast (m : Mach) (o : Nat) (v : Word) : (m.setReg o v).cpeLast = m.cpeLast := rfl
@[simp] theorem Mach.setReg_runLastDom (m : Mach) (o : Nat) (v : Word) : (m.setReg o v).runLastDom = m.runLastDom := rfl
@[simp] theorem Mach.setReg_cpeRdDom (m : Mach) (o : Nat) (v : Word) : (m.setReg o v).cpeRdDom = m.cpeRdDom := rfl
@[simp] theorem Mach.setReg_cpeRd (m : Mach) (o : Nat) (v : Word) : (m.setReg o v).cpeRd = m.cpeRd := rfl
@[simp] theorem Mach.setReg_cpeWrDom (m : Mach) (o : Nat) (v : Word) : (m.setReg o v).cpeWrDom = m.cpeWrDom := rfl
@[simp] theorem Mach.setReg_cpeWr (m : Mach) (o : Nat) (v : Word) : (m.setReg o v).cpeWr = m.cpeWr := rfl
@[simp] theorem Mach.setReg_fnTbl (m : Mach) (o : Nat) (v : Word) : (m.setReg o v).fnTbl = m.fnTbl := rfl
@[simp] theorem Mach.setReg_fnPend (m : Mach) (o : Nat) (v : Word) : (m.setReg o v).fnPend = m.fnPend := rfl
@[simp] theorem Mach.setReg_chans (m : Mach) (o : Nat) (v : Word) : (m.setReg o v).chans = m.chans := rfl
@[simp] theorem Mach.setReg_threads (m : Mach) (o : Nat) (v : Word) : (m.setReg o v).threads = m.threads := rfl
@[simp] theorem Mach.setReg_ls (m : Mach) (o : Nat) (v : Word) : (m.setReg o v).ls = m.ls := rfl
@[simp] theorem Mach.setReg_frozen (m : Mach) (o : Nat) (v : Word) : (m.setReg o v).frozen = m.frozen := rfl
@[simp] theorem Mach.setReg_seqDom (m : Mach) (o : Nat) (v : Word) : (m.setReg o v).seqDom = m.seqDom := rfl
@[simp] theorem Mach.setReg_fwDown (m : Mach) (o : Nat) (v : Word) : (m.setReg o v).fwDown = m.fwDown := rfl
@[simp] theorem Mach.setReg_lockAt (m : Mach) (o : Nat) (v : Word) : (m.setReg o v).lockAt = m.lockAt := rfl
@[simp] theorem Mach.setReg_hinges (m : Mach) (o : Nat) (v : Word) : (m.setReg o v).hinges = m.hinges := rfl
@[simp] theorem Mach.setReg_ppsAge (m : Mach) (o : Nat) (v : Word) : (m.setReg o v).ppsAge = m.ppsAge := rfl
@[simp] theorem Mach.setReg_ppsSeen (m : Mach) (o : Nat) (v : Word) : (m.setReg o v).ppsSeen = m.ppsSeen := rfl
@[simp] theorem Mach.setReg_ppsLost (m : Mach) (o : Nat) (v : Word) : (m.setReg o v).ppsLost = m.ppsLost := rfl
@[simp] theorem Mach.setReg_hdm (m : Mach) (o : Nat) (v : Word) : (m.setReg o v).hdm = m.hdm := rfl
@[simp] theorem Mach.setReg_tfCtr (m : Mach) (o : Nat) (v : Word) : (m.setReg o v).tfCtr = m.tfCtr := rfl
@[simp] theorem Mach.setReg_vcsRouted (m : Mach) (o : Nat) (v : Word) : (m.setReg o v).vcsRouted = m.vcsRouted := rfl
@[simp] theorem Mach.setReg_pw (m : Mach) (o : Nat) (v : Word) : (m.setReg o v).pw = m.pw := rfl
@[simp] theorem Mach.setReg_keepLost (m : Mach) (o : Nat) (v : Word) : (m.setReg o v).keepLost = m.keepLost := rfl
@[simp] theorem Mach.setReg_ddrBad (m : Mach) (o : Nat) (v : Word) : (m.setReg o v).ddrBad = m.ddrBad := rfl
@[simp] theorem Mach.setReg_latches (m : Mach) (o : Nat) (v : Word) : (m.setReg o v).latches = m.latches := rfl
@[simp] theorem Mach.setReg_irqOwed (m : Mach) (o : Nat) (v : Word) : (m.setReg o v).irqOwed = m.irqOwed := rfl
@[simp] theorem Mach.setReg_shutWr (m : Mach) (o : Nat) (v : Word) : (m.setReg o v).shutWr = m.shutWr := rfl

@[simp] theorem Mach.wr_pins (m : Mach) (g : Fld) (v : Nat) : (m.wr g v).pins = m.pins := rfl
@[simp] theorem Mach.wr_boot (m : Mach) (g : Fld) (v : Nat) : (m.wr g v).boot = m.boot := rfl
@[simp] theorem Mach.wr_flash (m : Mach) (g : Fld) (v : Nat) : (m.wr g v).flash = m.flash := rfl
@[simp] theorem Mach.wr_fuses (m : Mach) (g : Fld) (v : Nat) : (m.wr g v).fuses = m.fuses := rfl
@[simp] theorem Mach.wr_pldm (m : Mach) (g : Fld) (v : Nat) : (m.wr g v).pldm = m.pldm := rfl
@[simp] theorem Mach.wr_warnC (m : Mach) (g : Fld) (v : Nat) : (m.wr g v).warnC = m.warnC := rfl
@[simp] theorem Mach.wr_ddr (m : Mach) (g : Fld) (v : Nat) : (m.wr g v).ddr = m.ddr := rfl
@[simp] theorem Mach.wr_selfRefresh (m : Mach) (g : Fld) (v : Nat) : (m.wr g v).selfRefresh = m.selfRefresh := rfl
@[simp] theorem Mach.wr_tb (m : Mach) (g : Fld) (v : Nat) : (m.wr g v).tb = m.tb := rfl
@[simp] theorem Mach.wr_doms (m : Mach) (g : Fld) (v : Nat) : (m.wr g v).doms = m.doms := rfl
@[simp] theorem Mach.wr_domPort (m : Mach) (g : Fld) (v : Nat) : (m.wr g v).domPort = m.domPort := rfl
@[simp] theorem Mach.wr_domFabric (m : Mach) (g : Fld) (v : Nat) : (m.wr g v).domFabric = m.domFabric := rfl
@[simp] theorem Mach.wr_epoch (m : Mach) (g : Fld) (v : Nat) : (m.wr g v).epoch = m.epoch := rfl
@[simp] theorem Mach.wr_ilv (m : Mach) (g : Fld) (v : Nat) : (m.wr g v).ilv = m.ilv := rfl
@[simp] theorem Mach.wr_mir (m : Mach) (g : Fld) (v : Nat) : (m.wr g v).mir = m.mir := rfl
@[simp] theorem Mach.wr_changes (m : Mach) (g : Fld) (v : Nat) : (m.wr g v).changes = m.changes := rfl
@[simp] theorem Mach.wr_fences (m : Mach) (g : Fld) (v : Nat) : (m.wr g v).fences = m.fences := rfl
@[simp] theorem Mach.wr_merging (m : Mach) (g : Fld) (v : Nat) : (m.wr g v).merging = m.merging := rfl
@[simp] theorem Mach.wr_freeIx (m : Mach) (g : Fld) (v : Nat) : (m.wr g v).freeIx = m.freeIx := rfl
@[simp] theorem Mach.wr_out (m : Mach) (g : Fld) (v : Nat) : (m.wr g v).out = m.out := rfl
@[simp] theorem Mach.wr_tfPrev (m : Mach) (g : Fld) (v : Nat) : (m.wr g v).tfPrev = m.tfPrev := rfl
@[simp] theorem Mach.wr_tfLast (m : Mach) (g : Fld) (v : Nat) : (m.wr g v).tfLast = m.tfLast := rfl
@[simp] theorem Mach.wr_coldReq (m : Mach) (g : Fld) (v : Nat) : (m.wr g v).coldReq = m.coldReq := rfl
@[simp] theorem Mach.wr_ports (m : Mach) (g : Fld) (v : Nat) : (m.wr g v).ports = m.ports := rfl
@[simp] theorem Mach.wr_binds (m : Mach) (g : Fld) (v : Nat) : (m.wr g v).binds = m.binds := rfl
@[simp] theorem Mach.wr_vppbs (m : Mach) (g : Fld) (v : Nat) : (m.wr g v).vppbs = m.vppbs := rfl
@[simp] theorem Mach.wr_fm (m : Mach) (g : Fld) (v : Nat) : (m.wr g v).fm = m.fm := rfl
@[simp] theorem Mach.wr_expOut (m : Mach) (g : Fld) (v : Nat) : (m.wr g v).expOut = m.expOut := rfl
@[simp] theorem Mach.wr_expIn (m : Mach) (g : Fld) (v : Nat) : (m.wr g v).expIn = m.expIn := rfl
@[simp] theorem Mach.wr_trk (m : Mach) (g : Fld) (v : Nat) : (m.wr g v).trk = m.trk := rfl
@[simp] theorem Mach.wr_trkWait (m : Mach) (g : Fld) (v : Nat) : (m.wr g v).trkWait = m.trkWait := rfl
@[simp] theorem Mach.wr_trkRr (m : Mach) (g : Fld) (v : Nat) : (m.wr g v).trkRr = m.trkRr := rfl
@[simp] theorem Mach.wr_voqs (m : Mach) (g : Fld) (v : Nat) : (m.wr g v).voqs = m.voqs := rfl
@[simp] theorem Mach.wr_reseqs (m : Mach) (g : Fld) (v : Nat) : (m.wr g v).reseqs = m.reseqs := rfl
@[simp] theorem Mach.wr_classes (m : Mach) (g : Fld) (v : Nat) : (m.wr g v).classes = m.classes := rfl
@[simp] theorem Mach.wr_postedSent (m : Mach) (g : Fld) (v : Nat) : (m.wr g v).postedSent = m.postedSent := rfl
@[simp] theorem Mach.wr_postedTx (m : Mach) (g : Fld) (v : Nat) : (m.wr g v).postedTx = m.postedTx := rfl
@[simp] theorem Mach.wr_egress (m : Mach) (g : Fld) (v : Nat) : (m.wr g v).egress = m.egress := rfl
@[simp] theorem Mach.wr_egOcc (m : Mach) (g : Fld) (v : Nat) : (m.wr g v).egOcc = m.egOcc := rfl
@[simp] theorem Mach.wr_egDrr (m : Mach) (g : Fld) (v : Nat) : (m.wr g v).egDrr = m.egDrr := rfl
@[simp] theorem Mach.wr_linkCr (m : Mach) (g : Fld) (v : Nat) : (m.wr g v).linkCr = m.linkCr := rfl
@[simp] theorem Mach.wr_ibuf (m : Mach) (g : Fld) (v : Nat) : (m.wr g v).ibuf = m.ibuf := rfl
@[simp] theorem Mach.wr_tags (m : Mach) (g : Fld) (v : Nat) : (m.wr g v).tags = m.tags := rfl
@[simp] theorem Mach.wr_planeErr (m : Mach) (g : Fld) (v : Nat) : (m.wr g v).planeErr = m.planeErr := rfl
@[simp] theorem Mach.wr_agentDone (m : Mach) (g : Fld) (v : Nat) : (m.wr g v).agentDone = m.agentDone := rfl
@[simp] theorem Mach.wr_now (m : Mach) (g : Fld) (v : Nat) : (m.wr g v).now = m.now := rfl
@[simp] theorem Mach.wr_lvr (m : Mach) (g : Fld) (v : Nat) : (m.wr g v).lvr = m.lvr := rfl
@[simp] theorem Mach.wr_lkpWeight (m : Mach) (g : Fld) (v : Nat) : (m.wr g v).lkpWeight = m.lkpWeight := rfl
@[simp] theorem Mach.wr_lkpDef (m : Mach) (g : Fld) (v : Nat) : (m.wr g v).lkpDef = m.lkpDef := rfl
@[simp] theorem Mach.wr_lkpLast (m : Mach) (g : Fld) (v : Nat) : (m.wr g v).lkpLast = m.lkpLast := rfl
@[simp] theorem Mach.wr_smp (m : Mach) (g : Fld) (v : Nat) : (m.wr g v).smp = m.smp := rfl
@[simp] theorem Mach.wr_t1 (m : Mach) (g : Fld) (v : Nat) : (m.wr g v).t1 = m.t1 := rfl
@[simp] theorem Mach.wr_t2 (m : Mach) (g : Fld) (v : Nat) : (m.wr g v).t2 = m.t2 := rfl
@[simp] theorem Mach.wr_summary (m : Mach) (g : Fld) (v : Nat) : (m.wr g v).summary = m.summary := rfl
@[simp] theorem Mach.wr_rebuilding (m : Mach) (g : Fld) (v : Nat) : (m.wr g v).rebuilding = m.rebuilding := rfl
@[simp] theorem Mach.wr_lines (m : Mach) (g : Fld) (v : Nat) : (m.wr g v).lines = m.lines := rfl
@[simp] theorem Mach.wr_busyWait (m : Mach) (g : Fld) (v : Nat) : (m.wr g v).busyWait = m.busyWait := rfl
@[simp] theorem Mach.wr_toEvict (m : Mach) (g : Fld) (v : Nat) : (m.wr g v).toEvict = m.toEvict := rfl
@[simp] theorem Mach.wr_quotaWalk (m : Mach) (g : Fld) (v : Nat) : (m.wr g v).quotaWalk = m.quotaWalk := rfl
@[simp] theorem Mach.wr_tenures (m : Mach) (g : Fld) (v : Nat) : (m.wr g v).tenures = m.tenures := rfl
@[simp] theorem Mach.wr_vc2Rx (m : Mach) (g : Fld) (v : Nat) : (m.wr g v).vc2Rx = m.vc2Rx := rfl
@[simp] theorem Mach.wr_birsps (m : Mach) (g : Fld) (v : Nat) : (m.wr g v).birsps = m.birsps := rfl
@[simp] theorem Mach.wr_flowCnt (m : Mach) (g : Fld) (v : Nat) : (m.wr g v).flowCnt = m.flowCnt := rfl
@[simp] theorem Mach.wr_specWin (m : Mach) (g : Fld) (v : Nat) : (m.wr g v).specWin = m.specWin := rfl
@[simp] theorem Mach.wr_deadWalks (m : Mach) (g : Fld) (v : Nat) : (m.wr g v).deadWalks = m.deadWalks := rfl
@[simp] theorem Mach.wr_validWritten (m : Mach) (g : Fld) (v : Nat) : (m.wr g v).validWritten = m.validWritten := rfl
@[simp] theorem Mach.wr_shadow (m : Mach) (g : Fld) (v : Nat) : (m.wr g v).shadow = m.shadow := rfl
@[simp] theorem Mach.wr_ring (m : Mach) (g : Fld) (v : Nat) : (m.wr g v).ring = m.ring := rfl
@[simp] theorem Mach.wr_changed (m : Mach) (g : Fld) (v : Nat) : (m.wr g v).changed = m.changed := rfl
@[simp] theorem Mach.wr_recover (m : Mach) (g : Fld) (v : Nat) : (m.wr g v).recover = m.recover := rfl
@[simp] theorem Mach.wr_recovering (m : Mach) (g : Fld) (v : Nat) : (m.wr g v).recovering = m.recovering := rfl
@[simp] theorem Mach.wr_deadWays (m : Mach) (g : Fld) (v : Nat) : (m.wr g v).deadWays = m.deadWays := rfl
@[simp] theorem Mach.wr_sparesUsed (m : Mach) (g : Fld) (v : Nat) : (m.wr g v).sparesUsed = m.sparesUsed := rfl
@[simp] theorem Mach.wr_lostBuckets (m : Mach) (g : Fld) (v : Nat) : (m.wr g v).lostBuckets = m.lostBuckets := rfl
@[simp] theorem Mach.wr_mirWait (m : Mach) (g : Fld) (v : Nat) : (m.wr g v).mirWait = m.mirWait := rfl
@[simp] theorem Mach.wr_lanes (m : Mach) (g : Fld) (v : Nat) : (m.wr g v).lanes = m.lanes := rfl
@[simp] theorem Mach.wr_zx (m : Mach) (g : Fld) (v : Nat) : (m.wr g v).zx = m.zx := rfl
@[simp] theorem Mach.wr_d2d (m : Mach) (g : Fld) (v : Nat) : (m.wr g v).d2d = m.d2d := rfl
@[simp] theorem Mach.wr_slots (m : Mach) (g : Fld) (v : Nat) : (m.wr g v).slots = m.slots := rfl
@[simp] theorem Mach.wr_slotWait (m : Mach) (g : Fld) (v : Nat) : (m.wr g v).slotWait = m.slotWait := rfl
@[simp] theorem Mach.wr_feeds (m : Mach) (g : Fld) (v : Nat) : (m.wr g v).feeds = m.feeds := rfl
@[simp] theorem Mach.wr_busMv (m : Mach) (g : Fld) (v : Nat) : (m.wr g v).busMv = m.busMv := rfl
@[simp] theorem Mach.wr_ibTimes (m : Mach) (g : Fld) (v : Nat) : (m.wr g v).ibTimes = m.ibTimes := rfl
@[simp] theorem Mach.wr_ibCur (m : Mach) (g : Fld) (v : Nat) : (m.wr g v).ibCur = m.ibCur := rfl
@[simp] theorem Mach.wr_ibNew (m : Mach) (g : Fld) (v : Nat) : (m.wr g v).ibNew = m.ibNew := rfl
@[simp] theorem Mach.wr_pipes (m : Mach) (g : Fld) (v : Nat) : (m.wr g v).pipes = m.pipes := rfl
@[simp] theorem Mach.wr_rp (m : Mach) (g : Fld) (v : Nat) : (m.wr g v).rp = m.rp := rfl
@[simp] theorem Mach.wr_tbl (m : Mach) (g : Fld) (v : Nat) : (m.wr g v).tbl = m.tbl := rfl
@[simp] theorem Mach.wr_sqs (m : Mach) (g : Fld) (v : Nat) : (m.wr g v).sqs = m.sqs := rfl
@[simp] theorem Mach.wr_cqs (m : Mach) (g : Fld) (v : Nat) : (m.wr g v).cqs = m.cqs := rfl
@[simp] theorem Mach.wr_qifs (m : Mach) (g : Fld) (v : Nat) : (m.wr g v).qifs = m.qifs := rfl
@[simp] theorem Mach.wr_qLastDom (m : Mach) (g : Fld) (v : Nat) : (m.wr g v).qLastDom = m.qLastDom := rfl
@[simp] theorem Mach.wr_qLast (m : Mach) (g : Fld) (v : Nat) : (m.wr g v).qLast = m.qLast := rfl
@[simp] theorem Mach.wr_cpeLastDom (m : Mach) (g : Fld) (v : Nat) : (m.wr g v).cpeLastDom = m.cpeLastDom := rfl
@[simp] theorem Mach.wr_cpeLast (m : Mach) (g : Fld) (v : Nat) : (m.wr g v).cpeLast = m.cpeLast := rfl
@[simp] theorem Mach.wr_runLastDom (m : Mach) (g : Fld) (v : Nat) : (m.wr g v).runLastDom = m.runLastDom := rfl
@[simp] theorem Mach.wr_cpeRdDom (m : Mach) (g : Fld) (v : Nat) : (m.wr g v).cpeRdDom = m.cpeRdDom := rfl
@[simp] theorem Mach.wr_cpeRd (m : Mach) (g : Fld) (v : Nat) : (m.wr g v).cpeRd = m.cpeRd := rfl
@[simp] theorem Mach.wr_cpeWrDom (m : Mach) (g : Fld) (v : Nat) : (m.wr g v).cpeWrDom = m.cpeWrDom := rfl
@[simp] theorem Mach.wr_cpeWr (m : Mach) (g : Fld) (v : Nat) : (m.wr g v).cpeWr = m.cpeWr := rfl
@[simp] theorem Mach.wr_fnTbl (m : Mach) (g : Fld) (v : Nat) : (m.wr g v).fnTbl = m.fnTbl := rfl
@[simp] theorem Mach.wr_fnPend (m : Mach) (g : Fld) (v : Nat) : (m.wr g v).fnPend = m.fnPend := rfl
@[simp] theorem Mach.wr_chans (m : Mach) (g : Fld) (v : Nat) : (m.wr g v).chans = m.chans := rfl
@[simp] theorem Mach.wr_threads (m : Mach) (g : Fld) (v : Nat) : (m.wr g v).threads = m.threads := rfl
@[simp] theorem Mach.wr_ls (m : Mach) (g : Fld) (v : Nat) : (m.wr g v).ls = m.ls := rfl
@[simp] theorem Mach.wr_frozen (m : Mach) (g : Fld) (v : Nat) : (m.wr g v).frozen = m.frozen := rfl
@[simp] theorem Mach.wr_seqDom (m : Mach) (g : Fld) (v : Nat) : (m.wr g v).seqDom = m.seqDom := rfl
@[simp] theorem Mach.wr_fwDown (m : Mach) (g : Fld) (v : Nat) : (m.wr g v).fwDown = m.fwDown := rfl
@[simp] theorem Mach.wr_lockAt (m : Mach) (g : Fld) (v : Nat) : (m.wr g v).lockAt = m.lockAt := rfl
@[simp] theorem Mach.wr_hinges (m : Mach) (g : Fld) (v : Nat) : (m.wr g v).hinges = m.hinges := rfl
@[simp] theorem Mach.wr_ppsAge (m : Mach) (g : Fld) (v : Nat) : (m.wr g v).ppsAge = m.ppsAge := rfl
@[simp] theorem Mach.wr_ppsSeen (m : Mach) (g : Fld) (v : Nat) : (m.wr g v).ppsSeen = m.ppsSeen := rfl
@[simp] theorem Mach.wr_ppsLost (m : Mach) (g : Fld) (v : Nat) : (m.wr g v).ppsLost = m.ppsLost := rfl
@[simp] theorem Mach.wr_hdm (m : Mach) (g : Fld) (v : Nat) : (m.wr g v).hdm = m.hdm := rfl
@[simp] theorem Mach.wr_tfCtr (m : Mach) (g : Fld) (v : Nat) : (m.wr g v).tfCtr = m.tfCtr := rfl
@[simp] theorem Mach.wr_vcsRouted (m : Mach) (g : Fld) (v : Nat) : (m.wr g v).vcsRouted = m.vcsRouted := rfl
@[simp] theorem Mach.wr_pw (m : Mach) (g : Fld) (v : Nat) : (m.wr g v).pw = m.pw := rfl
@[simp] theorem Mach.wr_keepLost (m : Mach) (g : Fld) (v : Nat) : (m.wr g v).keepLost = m.keepLost := rfl
@[simp] theorem Mach.wr_ddrBad (m : Mach) (g : Fld) (v : Nat) : (m.wr g v).ddrBad = m.ddrBad := rfl
@[simp] theorem Mach.wr_latches (m : Mach) (g : Fld) (v : Nat) : (m.wr g v).latches = m.latches := rfl
@[simp] theorem Mach.wr_irqOwed (m : Mach) (g : Fld) (v : Nat) : (m.wr g v).irqOwed = m.irqOwed := rfl
@[simp] theorem Mach.wr_shutWr (m : Mach) (g : Fld) (v : Nat) : (m.wr g v).shutWr = m.shutWr := rfl

@[simp] theorem Mach.raise_pins (m : Mach) (g : Fld) : (m.raise g).pins = m.pins := rfl
@[simp] theorem Mach.raise_boot (m : Mach) (g : Fld) : (m.raise g).boot = m.boot := rfl
@[simp] theorem Mach.raise_flash (m : Mach) (g : Fld) : (m.raise g).flash = m.flash := rfl
@[simp] theorem Mach.raise_fuses (m : Mach) (g : Fld) : (m.raise g).fuses = m.fuses := rfl
@[simp] theorem Mach.raise_pldm (m : Mach) (g : Fld) : (m.raise g).pldm = m.pldm := rfl
@[simp] theorem Mach.raise_warnC (m : Mach) (g : Fld) : (m.raise g).warnC = m.warnC := rfl
@[simp] theorem Mach.raise_ddr (m : Mach) (g : Fld) : (m.raise g).ddr = m.ddr := rfl
@[simp] theorem Mach.raise_selfRefresh (m : Mach) (g : Fld) : (m.raise g).selfRefresh = m.selfRefresh := rfl
@[simp] theorem Mach.raise_tb (m : Mach) (g : Fld) : (m.raise g).tb = m.tb := rfl
@[simp] theorem Mach.raise_doms (m : Mach) (g : Fld) : (m.raise g).doms = m.doms := rfl
@[simp] theorem Mach.raise_domPort (m : Mach) (g : Fld) : (m.raise g).domPort = m.domPort := rfl
@[simp] theorem Mach.raise_domFabric (m : Mach) (g : Fld) : (m.raise g).domFabric = m.domFabric := rfl
@[simp] theorem Mach.raise_epoch (m : Mach) (g : Fld) : (m.raise g).epoch = m.epoch := rfl
@[simp] theorem Mach.raise_ilv (m : Mach) (g : Fld) : (m.raise g).ilv = m.ilv := rfl
@[simp] theorem Mach.raise_mir (m : Mach) (g : Fld) : (m.raise g).mir = m.mir := rfl
@[simp] theorem Mach.raise_changes (m : Mach) (g : Fld) : (m.raise g).changes = m.changes := rfl
@[simp] theorem Mach.raise_fences (m : Mach) (g : Fld) : (m.raise g).fences = m.fences := rfl
@[simp] theorem Mach.raise_merging (m : Mach) (g : Fld) : (m.raise g).merging = m.merging := rfl
@[simp] theorem Mach.raise_freeIx (m : Mach) (g : Fld) : (m.raise g).freeIx = m.freeIx := rfl
@[simp] theorem Mach.raise_out (m : Mach) (g : Fld) : (m.raise g).out = m.out := rfl
@[simp] theorem Mach.raise_tfPrev (m : Mach) (g : Fld) : (m.raise g).tfPrev = m.tfPrev := rfl
@[simp] theorem Mach.raise_tfLast (m : Mach) (g : Fld) : (m.raise g).tfLast = m.tfLast := rfl
@[simp] theorem Mach.raise_coldReq (m : Mach) (g : Fld) : (m.raise g).coldReq = m.coldReq := rfl
@[simp] theorem Mach.raise_ports (m : Mach) (g : Fld) : (m.raise g).ports = m.ports := rfl
@[simp] theorem Mach.raise_binds (m : Mach) (g : Fld) : (m.raise g).binds = m.binds := rfl
@[simp] theorem Mach.raise_vppbs (m : Mach) (g : Fld) : (m.raise g).vppbs = m.vppbs := rfl
@[simp] theorem Mach.raise_fm (m : Mach) (g : Fld) : (m.raise g).fm = m.fm := rfl
@[simp] theorem Mach.raise_expOut (m : Mach) (g : Fld) : (m.raise g).expOut = m.expOut := rfl
@[simp] theorem Mach.raise_expIn (m : Mach) (g : Fld) : (m.raise g).expIn = m.expIn := rfl
@[simp] theorem Mach.raise_trk (m : Mach) (g : Fld) : (m.raise g).trk = m.trk := rfl
@[simp] theorem Mach.raise_trkWait (m : Mach) (g : Fld) : (m.raise g).trkWait = m.trkWait := rfl
@[simp] theorem Mach.raise_trkRr (m : Mach) (g : Fld) : (m.raise g).trkRr = m.trkRr := rfl
@[simp] theorem Mach.raise_voqs (m : Mach) (g : Fld) : (m.raise g).voqs = m.voqs := rfl
@[simp] theorem Mach.raise_reseqs (m : Mach) (g : Fld) : (m.raise g).reseqs = m.reseqs := rfl
@[simp] theorem Mach.raise_classes (m : Mach) (g : Fld) : (m.raise g).classes = m.classes := rfl
@[simp] theorem Mach.raise_postedSent (m : Mach) (g : Fld) : (m.raise g).postedSent = m.postedSent := rfl
@[simp] theorem Mach.raise_postedTx (m : Mach) (g : Fld) : (m.raise g).postedTx = m.postedTx := rfl
@[simp] theorem Mach.raise_egress (m : Mach) (g : Fld) : (m.raise g).egress = m.egress := rfl
@[simp] theorem Mach.raise_egOcc (m : Mach) (g : Fld) : (m.raise g).egOcc = m.egOcc := rfl
@[simp] theorem Mach.raise_egDrr (m : Mach) (g : Fld) : (m.raise g).egDrr = m.egDrr := rfl
@[simp] theorem Mach.raise_linkCr (m : Mach) (g : Fld) : (m.raise g).linkCr = m.linkCr := rfl
@[simp] theorem Mach.raise_ibuf (m : Mach) (g : Fld) : (m.raise g).ibuf = m.ibuf := rfl
@[simp] theorem Mach.raise_tags (m : Mach) (g : Fld) : (m.raise g).tags = m.tags := rfl
@[simp] theorem Mach.raise_planeErr (m : Mach) (g : Fld) : (m.raise g).planeErr = m.planeErr := rfl
@[simp] theorem Mach.raise_agentDone (m : Mach) (g : Fld) : (m.raise g).agentDone = m.agentDone := rfl
@[simp] theorem Mach.raise_now (m : Mach) (g : Fld) : (m.raise g).now = m.now := rfl
@[simp] theorem Mach.raise_lvr (m : Mach) (g : Fld) : (m.raise g).lvr = m.lvr := rfl
@[simp] theorem Mach.raise_lkpWeight (m : Mach) (g : Fld) : (m.raise g).lkpWeight = m.lkpWeight := rfl
@[simp] theorem Mach.raise_lkpDef (m : Mach) (g : Fld) : (m.raise g).lkpDef = m.lkpDef := rfl
@[simp] theorem Mach.raise_lkpLast (m : Mach) (g : Fld) : (m.raise g).lkpLast = m.lkpLast := rfl
@[simp] theorem Mach.raise_smp (m : Mach) (g : Fld) : (m.raise g).smp = m.smp := rfl
@[simp] theorem Mach.raise_t1 (m : Mach) (g : Fld) : (m.raise g).t1 = m.t1 := rfl
@[simp] theorem Mach.raise_t2 (m : Mach) (g : Fld) : (m.raise g).t2 = m.t2 := rfl
@[simp] theorem Mach.raise_summary (m : Mach) (g : Fld) : (m.raise g).summary = m.summary := rfl
@[simp] theorem Mach.raise_rebuilding (m : Mach) (g : Fld) : (m.raise g).rebuilding = m.rebuilding := rfl
@[simp] theorem Mach.raise_lines (m : Mach) (g : Fld) : (m.raise g).lines = m.lines := rfl
@[simp] theorem Mach.raise_busyWait (m : Mach) (g : Fld) : (m.raise g).busyWait = m.busyWait := rfl
@[simp] theorem Mach.raise_toEvict (m : Mach) (g : Fld) : (m.raise g).toEvict = m.toEvict := rfl
@[simp] theorem Mach.raise_quotaWalk (m : Mach) (g : Fld) : (m.raise g).quotaWalk = m.quotaWalk := rfl
@[simp] theorem Mach.raise_tenures (m : Mach) (g : Fld) : (m.raise g).tenures = m.tenures := rfl
@[simp] theorem Mach.raise_vc2Rx (m : Mach) (g : Fld) : (m.raise g).vc2Rx = m.vc2Rx := rfl
@[simp] theorem Mach.raise_birsps (m : Mach) (g : Fld) : (m.raise g).birsps = m.birsps := rfl
@[simp] theorem Mach.raise_flowCnt (m : Mach) (g : Fld) : (m.raise g).flowCnt = m.flowCnt := rfl
@[simp] theorem Mach.raise_specWin (m : Mach) (g : Fld) : (m.raise g).specWin = m.specWin := rfl
@[simp] theorem Mach.raise_deadWalks (m : Mach) (g : Fld) : (m.raise g).deadWalks = m.deadWalks := rfl
@[simp] theorem Mach.raise_validWritten (m : Mach) (g : Fld) : (m.raise g).validWritten = m.validWritten := rfl
@[simp] theorem Mach.raise_shadow (m : Mach) (g : Fld) : (m.raise g).shadow = m.shadow := rfl
@[simp] theorem Mach.raise_ring (m : Mach) (g : Fld) : (m.raise g).ring = m.ring := rfl
@[simp] theorem Mach.raise_changed (m : Mach) (g : Fld) : (m.raise g).changed = m.changed := rfl
@[simp] theorem Mach.raise_recover (m : Mach) (g : Fld) : (m.raise g).recover = m.recover := rfl
@[simp] theorem Mach.raise_recovering (m : Mach) (g : Fld) : (m.raise g).recovering = m.recovering := rfl
@[simp] theorem Mach.raise_deadWays (m : Mach) (g : Fld) : (m.raise g).deadWays = m.deadWays := rfl
@[simp] theorem Mach.raise_sparesUsed (m : Mach) (g : Fld) : (m.raise g).sparesUsed = m.sparesUsed := rfl
@[simp] theorem Mach.raise_lostBuckets (m : Mach) (g : Fld) : (m.raise g).lostBuckets = m.lostBuckets := rfl
@[simp] theorem Mach.raise_mirWait (m : Mach) (g : Fld) : (m.raise g).mirWait = m.mirWait := rfl
@[simp] theorem Mach.raise_lanes (m : Mach) (g : Fld) : (m.raise g).lanes = m.lanes := rfl
@[simp] theorem Mach.raise_zx (m : Mach) (g : Fld) : (m.raise g).zx = m.zx := rfl
@[simp] theorem Mach.raise_d2d (m : Mach) (g : Fld) : (m.raise g).d2d = m.d2d := rfl
@[simp] theorem Mach.raise_slots (m : Mach) (g : Fld) : (m.raise g).slots = m.slots := rfl
@[simp] theorem Mach.raise_slotWait (m : Mach) (g : Fld) : (m.raise g).slotWait = m.slotWait := rfl
@[simp] theorem Mach.raise_feeds (m : Mach) (g : Fld) : (m.raise g).feeds = m.feeds := rfl
@[simp] theorem Mach.raise_busMv (m : Mach) (g : Fld) : (m.raise g).busMv = m.busMv := rfl
@[simp] theorem Mach.raise_ibTimes (m : Mach) (g : Fld) : (m.raise g).ibTimes = m.ibTimes := rfl
@[simp] theorem Mach.raise_ibCur (m : Mach) (g : Fld) : (m.raise g).ibCur = m.ibCur := rfl
@[simp] theorem Mach.raise_ibNew (m : Mach) (g : Fld) : (m.raise g).ibNew = m.ibNew := rfl
@[simp] theorem Mach.raise_pipes (m : Mach) (g : Fld) : (m.raise g).pipes = m.pipes := rfl
@[simp] theorem Mach.raise_rp (m : Mach) (g : Fld) : (m.raise g).rp = m.rp := rfl
@[simp] theorem Mach.raise_tbl (m : Mach) (g : Fld) : (m.raise g).tbl = m.tbl := rfl
@[simp] theorem Mach.raise_sqs (m : Mach) (g : Fld) : (m.raise g).sqs = m.sqs := rfl
@[simp] theorem Mach.raise_cqs (m : Mach) (g : Fld) : (m.raise g).cqs = m.cqs := rfl
@[simp] theorem Mach.raise_qifs (m : Mach) (g : Fld) : (m.raise g).qifs = m.qifs := rfl
@[simp] theorem Mach.raise_qLastDom (m : Mach) (g : Fld) : (m.raise g).qLastDom = m.qLastDom := rfl
@[simp] theorem Mach.raise_qLast (m : Mach) (g : Fld) : (m.raise g).qLast = m.qLast := rfl
@[simp] theorem Mach.raise_cpeLastDom (m : Mach) (g : Fld) : (m.raise g).cpeLastDom = m.cpeLastDom := rfl
@[simp] theorem Mach.raise_cpeLast (m : Mach) (g : Fld) : (m.raise g).cpeLast = m.cpeLast := rfl
@[simp] theorem Mach.raise_runLastDom (m : Mach) (g : Fld) : (m.raise g).runLastDom = m.runLastDom := rfl
@[simp] theorem Mach.raise_cpeRdDom (m : Mach) (g : Fld) : (m.raise g).cpeRdDom = m.cpeRdDom := rfl
@[simp] theorem Mach.raise_cpeRd (m : Mach) (g : Fld) : (m.raise g).cpeRd = m.cpeRd := rfl
@[simp] theorem Mach.raise_cpeWrDom (m : Mach) (g : Fld) : (m.raise g).cpeWrDom = m.cpeWrDom := rfl
@[simp] theorem Mach.raise_cpeWr (m : Mach) (g : Fld) : (m.raise g).cpeWr = m.cpeWr := rfl
@[simp] theorem Mach.raise_fnTbl (m : Mach) (g : Fld) : (m.raise g).fnTbl = m.fnTbl := rfl
@[simp] theorem Mach.raise_fnPend (m : Mach) (g : Fld) : (m.raise g).fnPend = m.fnPend := rfl
@[simp] theorem Mach.raise_chans (m : Mach) (g : Fld) : (m.raise g).chans = m.chans := rfl
@[simp] theorem Mach.raise_threads (m : Mach) (g : Fld) : (m.raise g).threads = m.threads := rfl
@[simp] theorem Mach.raise_ls (m : Mach) (g : Fld) : (m.raise g).ls = m.ls := rfl
@[simp] theorem Mach.raise_frozen (m : Mach) (g : Fld) : (m.raise g).frozen = m.frozen := rfl
@[simp] theorem Mach.raise_seqDom (m : Mach) (g : Fld) : (m.raise g).seqDom = m.seqDom := rfl
@[simp] theorem Mach.raise_fwDown (m : Mach) (g : Fld) : (m.raise g).fwDown = m.fwDown := rfl
@[simp] theorem Mach.raise_lockAt (m : Mach) (g : Fld) : (m.raise g).lockAt = m.lockAt := rfl
@[simp] theorem Mach.raise_hinges (m : Mach) (g : Fld) : (m.raise g).hinges = m.hinges := rfl
@[simp] theorem Mach.raise_ppsAge (m : Mach) (g : Fld) : (m.raise g).ppsAge = m.ppsAge := rfl
@[simp] theorem Mach.raise_ppsSeen (m : Mach) (g : Fld) : (m.raise g).ppsSeen = m.ppsSeen := rfl
@[simp] theorem Mach.raise_ppsLost (m : Mach) (g : Fld) : (m.raise g).ppsLost = m.ppsLost := rfl
@[simp] theorem Mach.raise_hdm (m : Mach) (g : Fld) : (m.raise g).hdm = m.hdm := rfl
@[simp] theorem Mach.raise_tfCtr (m : Mach) (g : Fld) : (m.raise g).tfCtr = m.tfCtr := rfl
@[simp] theorem Mach.raise_vcsRouted (m : Mach) (g : Fld) : (m.raise g).vcsRouted = m.vcsRouted := rfl
@[simp] theorem Mach.raise_pw (m : Mach) (g : Fld) : (m.raise g).pw = m.pw := rfl
@[simp] theorem Mach.raise_keepLost (m : Mach) (g : Fld) : (m.raise g).keepLost = m.keepLost := rfl
@[simp] theorem Mach.raise_ddrBad (m : Mach) (g : Fld) : (m.raise g).ddrBad = m.ddrBad := rfl
@[simp] theorem Mach.raise_latches (m : Mach) (g : Fld) : (m.raise g).latches = m.latches := rfl
@[simp] theorem Mach.raise_irqOwed (m : Mach) (g : Fld) : (m.raise g).irqOwed = m.irqOwed := rfl
@[simp] theorem Mach.raise_shutWr (m : Mach) (g : Fld) : (m.raise g).shutWr = m.shutWr := rfl

@[simp] theorem Mach.send_regs (m : Mach) (x : Msg) : (m.send x).regs = m.regs := rfl
@[simp] theorem Mach.send_pins (m : Mach) (x : Msg) : (m.send x).pins = m.pins := rfl
@[simp] theorem Mach.send_boot (m : Mach) (x : Msg) : (m.send x).boot = m.boot := rfl
@[simp] theorem Mach.send_flash (m : Mach) (x : Msg) : (m.send x).flash = m.flash := rfl
@[simp] theorem Mach.send_fuses (m : Mach) (x : Msg) : (m.send x).fuses = m.fuses := rfl
@[simp] theorem Mach.send_pldm (m : Mach) (x : Msg) : (m.send x).pldm = m.pldm := rfl
@[simp] theorem Mach.send_warnC (m : Mach) (x : Msg) : (m.send x).warnC = m.warnC := rfl
@[simp] theorem Mach.send_ddr (m : Mach) (x : Msg) : (m.send x).ddr = m.ddr := rfl
@[simp] theorem Mach.send_selfRefresh (m : Mach) (x : Msg) : (m.send x).selfRefresh = m.selfRefresh := rfl
@[simp] theorem Mach.send_tb (m : Mach) (x : Msg) : (m.send x).tb = m.tb := rfl
@[simp] theorem Mach.send_doms (m : Mach) (x : Msg) : (m.send x).doms = m.doms := rfl
@[simp] theorem Mach.send_domPort (m : Mach) (x : Msg) : (m.send x).domPort = m.domPort := rfl
@[simp] theorem Mach.send_domFabric (m : Mach) (x : Msg) : (m.send x).domFabric = m.domFabric := rfl
@[simp] theorem Mach.send_epoch (m : Mach) (x : Msg) : (m.send x).epoch = m.epoch := rfl
@[simp] theorem Mach.send_ilv (m : Mach) (x : Msg) : (m.send x).ilv = m.ilv := rfl
@[simp] theorem Mach.send_mir (m : Mach) (x : Msg) : (m.send x).mir = m.mir := rfl
@[simp] theorem Mach.send_changes (m : Mach) (x : Msg) : (m.send x).changes = m.changes := rfl
@[simp] theorem Mach.send_fences (m : Mach) (x : Msg) : (m.send x).fences = m.fences := rfl
@[simp] theorem Mach.send_merging (m : Mach) (x : Msg) : (m.send x).merging = m.merging := rfl
@[simp] theorem Mach.send_freeIx (m : Mach) (x : Msg) : (m.send x).freeIx = m.freeIx := rfl
@[simp] theorem Mach.send_tfPrev (m : Mach) (x : Msg) : (m.send x).tfPrev = m.tfPrev := rfl
@[simp] theorem Mach.send_tfLast (m : Mach) (x : Msg) : (m.send x).tfLast = m.tfLast := rfl
@[simp] theorem Mach.send_coldReq (m : Mach) (x : Msg) : (m.send x).coldReq = m.coldReq := rfl
@[simp] theorem Mach.send_ports (m : Mach) (x : Msg) : (m.send x).ports = m.ports := rfl
@[simp] theorem Mach.send_binds (m : Mach) (x : Msg) : (m.send x).binds = m.binds := rfl
@[simp] theorem Mach.send_vppbs (m : Mach) (x : Msg) : (m.send x).vppbs = m.vppbs := rfl
@[simp] theorem Mach.send_fm (m : Mach) (x : Msg) : (m.send x).fm = m.fm := rfl
@[simp] theorem Mach.send_expOut (m : Mach) (x : Msg) : (m.send x).expOut = m.expOut := rfl
@[simp] theorem Mach.send_expIn (m : Mach) (x : Msg) : (m.send x).expIn = m.expIn := rfl
@[simp] theorem Mach.send_trk (m : Mach) (x : Msg) : (m.send x).trk = m.trk := rfl
@[simp] theorem Mach.send_trkWait (m : Mach) (x : Msg) : (m.send x).trkWait = m.trkWait := rfl
@[simp] theorem Mach.send_trkRr (m : Mach) (x : Msg) : (m.send x).trkRr = m.trkRr := rfl
@[simp] theorem Mach.send_voqs (m : Mach) (x : Msg) : (m.send x).voqs = m.voqs := rfl
@[simp] theorem Mach.send_reseqs (m : Mach) (x : Msg) : (m.send x).reseqs = m.reseqs := rfl
@[simp] theorem Mach.send_classes (m : Mach) (x : Msg) : (m.send x).classes = m.classes := rfl
@[simp] theorem Mach.send_postedSent (m : Mach) (x : Msg) : (m.send x).postedSent = m.postedSent := rfl
@[simp] theorem Mach.send_postedTx (m : Mach) (x : Msg) : (m.send x).postedTx = m.postedTx := rfl
@[simp] theorem Mach.send_egress (m : Mach) (x : Msg) : (m.send x).egress = m.egress := rfl
@[simp] theorem Mach.send_egOcc (m : Mach) (x : Msg) : (m.send x).egOcc = m.egOcc := rfl
@[simp] theorem Mach.send_egDrr (m : Mach) (x : Msg) : (m.send x).egDrr = m.egDrr := rfl
@[simp] theorem Mach.send_linkCr (m : Mach) (x : Msg) : (m.send x).linkCr = m.linkCr := rfl
@[simp] theorem Mach.send_ibuf (m : Mach) (x : Msg) : (m.send x).ibuf = m.ibuf := rfl
@[simp] theorem Mach.send_tags (m : Mach) (x : Msg) : (m.send x).tags = m.tags := rfl
@[simp] theorem Mach.send_planeErr (m : Mach) (x : Msg) : (m.send x).planeErr = m.planeErr := rfl
@[simp] theorem Mach.send_agentDone (m : Mach) (x : Msg) : (m.send x).agentDone = m.agentDone := rfl
@[simp] theorem Mach.send_now (m : Mach) (x : Msg) : (m.send x).now = m.now := rfl
@[simp] theorem Mach.send_lvr (m : Mach) (x : Msg) : (m.send x).lvr = m.lvr := rfl
@[simp] theorem Mach.send_lkpWeight (m : Mach) (x : Msg) : (m.send x).lkpWeight = m.lkpWeight := rfl
@[simp] theorem Mach.send_lkpDef (m : Mach) (x : Msg) : (m.send x).lkpDef = m.lkpDef := rfl
@[simp] theorem Mach.send_lkpLast (m : Mach) (x : Msg) : (m.send x).lkpLast = m.lkpLast := rfl
@[simp] theorem Mach.send_smp (m : Mach) (x : Msg) : (m.send x).smp = m.smp := rfl
@[simp] theorem Mach.send_t1 (m : Mach) (x : Msg) : (m.send x).t1 = m.t1 := rfl
@[simp] theorem Mach.send_t2 (m : Mach) (x : Msg) : (m.send x).t2 = m.t2 := rfl
@[simp] theorem Mach.send_summary (m : Mach) (x : Msg) : (m.send x).summary = m.summary := rfl
@[simp] theorem Mach.send_rebuilding (m : Mach) (x : Msg) : (m.send x).rebuilding = m.rebuilding := rfl
@[simp] theorem Mach.send_lines (m : Mach) (x : Msg) : (m.send x).lines = m.lines := rfl
@[simp] theorem Mach.send_busyWait (m : Mach) (x : Msg) : (m.send x).busyWait = m.busyWait := rfl
@[simp] theorem Mach.send_toEvict (m : Mach) (x : Msg) : (m.send x).toEvict = m.toEvict := rfl
@[simp] theorem Mach.send_quotaWalk (m : Mach) (x : Msg) : (m.send x).quotaWalk = m.quotaWalk := rfl
@[simp] theorem Mach.send_tenures (m : Mach) (x : Msg) : (m.send x).tenures = m.tenures := rfl
@[simp] theorem Mach.send_vc2Rx (m : Mach) (x : Msg) : (m.send x).vc2Rx = m.vc2Rx := rfl
@[simp] theorem Mach.send_birsps (m : Mach) (x : Msg) : (m.send x).birsps = m.birsps := rfl
@[simp] theorem Mach.send_flowCnt (m : Mach) (x : Msg) : (m.send x).flowCnt = m.flowCnt := rfl
@[simp] theorem Mach.send_specWin (m : Mach) (x : Msg) : (m.send x).specWin = m.specWin := rfl
@[simp] theorem Mach.send_deadWalks (m : Mach) (x : Msg) : (m.send x).deadWalks = m.deadWalks := rfl
@[simp] theorem Mach.send_validWritten (m : Mach) (x : Msg) : (m.send x).validWritten = m.validWritten := rfl
@[simp] theorem Mach.send_shadow (m : Mach) (x : Msg) : (m.send x).shadow = m.shadow := rfl
@[simp] theorem Mach.send_ring (m : Mach) (x : Msg) : (m.send x).ring = m.ring := rfl
@[simp] theorem Mach.send_changed (m : Mach) (x : Msg) : (m.send x).changed = m.changed := rfl
@[simp] theorem Mach.send_recover (m : Mach) (x : Msg) : (m.send x).recover = m.recover := rfl
@[simp] theorem Mach.send_recovering (m : Mach) (x : Msg) : (m.send x).recovering = m.recovering := rfl
@[simp] theorem Mach.send_deadWays (m : Mach) (x : Msg) : (m.send x).deadWays = m.deadWays := rfl
@[simp] theorem Mach.send_sparesUsed (m : Mach) (x : Msg) : (m.send x).sparesUsed = m.sparesUsed := rfl
@[simp] theorem Mach.send_lostBuckets (m : Mach) (x : Msg) : (m.send x).lostBuckets = m.lostBuckets := rfl
@[simp] theorem Mach.send_mirWait (m : Mach) (x : Msg) : (m.send x).mirWait = m.mirWait := rfl
@[simp] theorem Mach.send_lanes (m : Mach) (x : Msg) : (m.send x).lanes = m.lanes := rfl
@[simp] theorem Mach.send_zx (m : Mach) (x : Msg) : (m.send x).zx = m.zx := rfl
@[simp] theorem Mach.send_d2d (m : Mach) (x : Msg) : (m.send x).d2d = m.d2d := rfl
@[simp] theorem Mach.send_slots (m : Mach) (x : Msg) : (m.send x).slots = m.slots := rfl
@[simp] theorem Mach.send_slotWait (m : Mach) (x : Msg) : (m.send x).slotWait = m.slotWait := rfl
@[simp] theorem Mach.send_feeds (m : Mach) (x : Msg) : (m.send x).feeds = m.feeds := rfl
@[simp] theorem Mach.send_busMv (m : Mach) (x : Msg) : (m.send x).busMv = m.busMv := rfl
@[simp] theorem Mach.send_ibTimes (m : Mach) (x : Msg) : (m.send x).ibTimes = m.ibTimes := rfl
@[simp] theorem Mach.send_ibCur (m : Mach) (x : Msg) : (m.send x).ibCur = m.ibCur := rfl
@[simp] theorem Mach.send_ibNew (m : Mach) (x : Msg) : (m.send x).ibNew = m.ibNew := rfl
@[simp] theorem Mach.send_pipes (m : Mach) (x : Msg) : (m.send x).pipes = m.pipes := rfl
@[simp] theorem Mach.send_rp (m : Mach) (x : Msg) : (m.send x).rp = m.rp := rfl
@[simp] theorem Mach.send_tbl (m : Mach) (x : Msg) : (m.send x).tbl = m.tbl := rfl
@[simp] theorem Mach.send_sqs (m : Mach) (x : Msg) : (m.send x).sqs = m.sqs := rfl
@[simp] theorem Mach.send_cqs (m : Mach) (x : Msg) : (m.send x).cqs = m.cqs := rfl
@[simp] theorem Mach.send_qifs (m : Mach) (x : Msg) : (m.send x).qifs = m.qifs := rfl
@[simp] theorem Mach.send_qLastDom (m : Mach) (x : Msg) : (m.send x).qLastDom = m.qLastDom := rfl
@[simp] theorem Mach.send_qLast (m : Mach) (x : Msg) : (m.send x).qLast = m.qLast := rfl
@[simp] theorem Mach.send_cpeLastDom (m : Mach) (x : Msg) : (m.send x).cpeLastDom = m.cpeLastDom := rfl
@[simp] theorem Mach.send_cpeLast (m : Mach) (x : Msg) : (m.send x).cpeLast = m.cpeLast := rfl
@[simp] theorem Mach.send_runLastDom (m : Mach) (x : Msg) : (m.send x).runLastDom = m.runLastDom := rfl
@[simp] theorem Mach.send_cpeRdDom (m : Mach) (x : Msg) : (m.send x).cpeRdDom = m.cpeRdDom := rfl
@[simp] theorem Mach.send_cpeRd (m : Mach) (x : Msg) : (m.send x).cpeRd = m.cpeRd := rfl
@[simp] theorem Mach.send_cpeWrDom (m : Mach) (x : Msg) : (m.send x).cpeWrDom = m.cpeWrDom := rfl
@[simp] theorem Mach.send_cpeWr (m : Mach) (x : Msg) : (m.send x).cpeWr = m.cpeWr := rfl
@[simp] theorem Mach.send_fnTbl (m : Mach) (x : Msg) : (m.send x).fnTbl = m.fnTbl := rfl
@[simp] theorem Mach.send_fnPend (m : Mach) (x : Msg) : (m.send x).fnPend = m.fnPend := rfl
@[simp] theorem Mach.send_chans (m : Mach) (x : Msg) : (m.send x).chans = m.chans := rfl
@[simp] theorem Mach.send_threads (m : Mach) (x : Msg) : (m.send x).threads = m.threads := rfl
@[simp] theorem Mach.send_ls (m : Mach) (x : Msg) : (m.send x).ls = m.ls := rfl
@[simp] theorem Mach.send_frozen (m : Mach) (x : Msg) : (m.send x).frozen = m.frozen := rfl
@[simp] theorem Mach.send_seqDom (m : Mach) (x : Msg) : (m.send x).seqDom = m.seqDom := rfl
@[simp] theorem Mach.send_fwDown (m : Mach) (x : Msg) : (m.send x).fwDown = m.fwDown := rfl
@[simp] theorem Mach.send_lockAt (m : Mach) (x : Msg) : (m.send x).lockAt = m.lockAt := rfl
@[simp] theorem Mach.send_hinges (m : Mach) (x : Msg) : (m.send x).hinges = m.hinges := rfl
@[simp] theorem Mach.send_ppsAge (m : Mach) (x : Msg) : (m.send x).ppsAge = m.ppsAge := rfl
@[simp] theorem Mach.send_ppsSeen (m : Mach) (x : Msg) : (m.send x).ppsSeen = m.ppsSeen := rfl
@[simp] theorem Mach.send_ppsLost (m : Mach) (x : Msg) : (m.send x).ppsLost = m.ppsLost := rfl
@[simp] theorem Mach.send_hdm (m : Mach) (x : Msg) : (m.send x).hdm = m.hdm := rfl
@[simp] theorem Mach.send_tfCtr (m : Mach) (x : Msg) : (m.send x).tfCtr = m.tfCtr := rfl
@[simp] theorem Mach.send_vcsRouted (m : Mach) (x : Msg) : (m.send x).vcsRouted = m.vcsRouted := rfl
@[simp] theorem Mach.send_pw (m : Mach) (x : Msg) : (m.send x).pw = m.pw := rfl
@[simp] theorem Mach.send_keepLost (m : Mach) (x : Msg) : (m.send x).keepLost = m.keepLost := rfl
@[simp] theorem Mach.send_ddrBad (m : Mach) (x : Msg) : (m.send x).ddrBad = m.ddrBad := rfl
@[simp] theorem Mach.send_latches (m : Mach) (x : Msg) : (m.send x).latches = m.latches := rfl
@[simp] theorem Mach.send_irqOwed (m : Mach) (x : Msg) : (m.send x).irqOwed = m.irqOwed := rfl
@[simp] theorem Mach.send_shutWr (m : Mach) (x : Msg) : (m.send x).shutWr = m.shutWr := rfl
@[simp] theorem Mach.send_out (m : Mach) (x : Msg) : (m.send x).out = m.out ++ [x] := rfl

@[simp] theorem State.done_regs (s : State) (m : Mach) : (s.done m).m.regs = m.regs := rfl
@[simp] theorem State.done_pins (s : State) (m : Mach) : (s.done m).m.pins = m.pins := rfl
@[simp] theorem State.done_boot (s : State) (m : Mach) : (s.done m).m.boot = m.boot := rfl
@[simp] theorem State.done_flash (s : State) (m : Mach) : (s.done m).m.flash = m.flash := rfl
@[simp] theorem State.done_fuses (s : State) (m : Mach) : (s.done m).m.fuses = m.fuses := rfl
@[simp] theorem State.done_pldm (s : State) (m : Mach) : (s.done m).m.pldm = m.pldm := rfl
@[simp] theorem State.done_warnC (s : State) (m : Mach) : (s.done m).m.warnC = m.warnC := rfl
@[simp] theorem State.done_ddr (s : State) (m : Mach) : (s.done m).m.ddr = m.ddr := rfl
@[simp] theorem State.done_selfRefresh (s : State) (m : Mach) : (s.done m).m.selfRefresh = m.selfRefresh := rfl
@[simp] theorem State.done_tb (s : State) (m : Mach) : (s.done m).m.tb = m.tb := rfl
@[simp] theorem State.done_doms (s : State) (m : Mach) : (s.done m).m.doms = m.doms := rfl
@[simp] theorem State.done_domPort (s : State) (m : Mach) : (s.done m).m.domPort = m.domPort := rfl
@[simp] theorem State.done_domFabric (s : State) (m : Mach) : (s.done m).m.domFabric = m.domFabric := rfl
@[simp] theorem State.done_epoch (s : State) (m : Mach) : (s.done m).m.epoch = m.epoch := rfl
@[simp] theorem State.done_ilv (s : State) (m : Mach) : (s.done m).m.ilv = m.ilv := rfl
@[simp] theorem State.done_mir (s : State) (m : Mach) : (s.done m).m.mir = m.mir := rfl
@[simp] theorem State.done_changes (s : State) (m : Mach) : (s.done m).m.changes = m.changes := rfl
@[simp] theorem State.done_fences (s : State) (m : Mach) : (s.done m).m.fences = m.fences := rfl
@[simp] theorem State.done_merging (s : State) (m : Mach) : (s.done m).m.merging = m.merging := rfl
@[simp] theorem State.done_freeIx (s : State) (m : Mach) : (s.done m).m.freeIx = m.freeIx := rfl
@[simp] theorem State.done_out (s : State) (m : Mach) : (s.done m).m.out = m.out := rfl
@[simp] theorem State.done_tfPrev (s : State) (m : Mach) : (s.done m).m.tfPrev = m.tfPrev := rfl
@[simp] theorem State.done_tfLast (s : State) (m : Mach) : (s.done m).m.tfLast = m.tfLast := rfl
@[simp] theorem State.done_coldReq (s : State) (m : Mach) : (s.done m).m.coldReq = m.coldReq := rfl
@[simp] theorem State.done_ports (s : State) (m : Mach) : (s.done m).m.ports = m.ports := rfl
@[simp] theorem State.done_binds (s : State) (m : Mach) : (s.done m).m.binds = m.binds := rfl
@[simp] theorem State.done_vppbs (s : State) (m : Mach) : (s.done m).m.vppbs = m.vppbs := rfl
@[simp] theorem State.done_fm (s : State) (m : Mach) : (s.done m).m.fm = m.fm := rfl
@[simp] theorem State.done_expOut (s : State) (m : Mach) : (s.done m).m.expOut = m.expOut := rfl
@[simp] theorem State.done_expIn (s : State) (m : Mach) : (s.done m).m.expIn = m.expIn := rfl
@[simp] theorem State.done_trk (s : State) (m : Mach) : (s.done m).m.trk = m.trk := rfl
@[simp] theorem State.done_trkWait (s : State) (m : Mach) : (s.done m).m.trkWait = m.trkWait := rfl
@[simp] theorem State.done_trkRr (s : State) (m : Mach) : (s.done m).m.trkRr = m.trkRr := rfl
@[simp] theorem State.done_voqs (s : State) (m : Mach) : (s.done m).m.voqs = m.voqs := rfl
@[simp] theorem State.done_reseqs (s : State) (m : Mach) : (s.done m).m.reseqs = m.reseqs := rfl
@[simp] theorem State.done_classes (s : State) (m : Mach) : (s.done m).m.classes = m.classes := rfl
@[simp] theorem State.done_postedSent (s : State) (m : Mach) : (s.done m).m.postedSent = m.postedSent := rfl
@[simp] theorem State.done_postedTx (s : State) (m : Mach) : (s.done m).m.postedTx = m.postedTx := rfl
@[simp] theorem State.done_egress (s : State) (m : Mach) : (s.done m).m.egress = m.egress := rfl
@[simp] theorem State.done_egOcc (s : State) (m : Mach) : (s.done m).m.egOcc = m.egOcc := rfl
@[simp] theorem State.done_egDrr (s : State) (m : Mach) : (s.done m).m.egDrr = m.egDrr := rfl
@[simp] theorem State.done_linkCr (s : State) (m : Mach) : (s.done m).m.linkCr = m.linkCr := rfl
@[simp] theorem State.done_ibuf (s : State) (m : Mach) : (s.done m).m.ibuf = m.ibuf := rfl
@[simp] theorem State.done_tags (s : State) (m : Mach) : (s.done m).m.tags = m.tags := rfl
@[simp] theorem State.done_planeErr (s : State) (m : Mach) : (s.done m).m.planeErr = m.planeErr := rfl
@[simp] theorem State.done_agentDone (s : State) (m : Mach) : (s.done m).m.agentDone = m.agentDone := rfl
@[simp] theorem State.done_now (s : State) (m : Mach) : (s.done m).m.now = m.now := rfl
@[simp] theorem State.done_lvr (s : State) (m : Mach) : (s.done m).m.lvr = m.lvr := rfl
@[simp] theorem State.done_lkpWeight (s : State) (m : Mach) : (s.done m).m.lkpWeight = m.lkpWeight := rfl
@[simp] theorem State.done_lkpDef (s : State) (m : Mach) : (s.done m).m.lkpDef = m.lkpDef := rfl
@[simp] theorem State.done_lkpLast (s : State) (m : Mach) : (s.done m).m.lkpLast = m.lkpLast := rfl
@[simp] theorem State.done_smp (s : State) (m : Mach) : (s.done m).m.smp = m.smp := rfl
@[simp] theorem State.done_t1 (s : State) (m : Mach) : (s.done m).m.t1 = m.t1 := rfl
@[simp] theorem State.done_t2 (s : State) (m : Mach) : (s.done m).m.t2 = m.t2 := rfl
@[simp] theorem State.done_summary (s : State) (m : Mach) : (s.done m).m.summary = m.summary := rfl
@[simp] theorem State.done_rebuilding (s : State) (m : Mach) : (s.done m).m.rebuilding = m.rebuilding := rfl
@[simp] theorem State.done_lines (s : State) (m : Mach) : (s.done m).m.lines = m.lines := rfl
@[simp] theorem State.done_busyWait (s : State) (m : Mach) : (s.done m).m.busyWait = m.busyWait := rfl
@[simp] theorem State.done_toEvict (s : State) (m : Mach) : (s.done m).m.toEvict = m.toEvict := rfl
@[simp] theorem State.done_quotaWalk (s : State) (m : Mach) : (s.done m).m.quotaWalk = m.quotaWalk := rfl
@[simp] theorem State.done_tenures (s : State) (m : Mach) : (s.done m).m.tenures = m.tenures := rfl
@[simp] theorem State.done_vc2Rx (s : State) (m : Mach) : (s.done m).m.vc2Rx = m.vc2Rx := rfl
@[simp] theorem State.done_birsps (s : State) (m : Mach) : (s.done m).m.birsps = m.birsps := rfl
@[simp] theorem State.done_flowCnt (s : State) (m : Mach) : (s.done m).m.flowCnt = m.flowCnt := rfl
@[simp] theorem State.done_specWin (s : State) (m : Mach) : (s.done m).m.specWin = m.specWin := rfl
@[simp] theorem State.done_deadWalks (s : State) (m : Mach) : (s.done m).m.deadWalks = m.deadWalks := rfl
@[simp] theorem State.done_validWritten (s : State) (m : Mach) : (s.done m).m.validWritten = m.validWritten := rfl
@[simp] theorem State.done_shadow (s : State) (m : Mach) : (s.done m).m.shadow = m.shadow := rfl
@[simp] theorem State.done_ring (s : State) (m : Mach) : (s.done m).m.ring = m.ring := rfl
@[simp] theorem State.done_changed (s : State) (m : Mach) : (s.done m).m.changed = m.changed := rfl
@[simp] theorem State.done_recover (s : State) (m : Mach) : (s.done m).m.recover = m.recover := rfl
@[simp] theorem State.done_recovering (s : State) (m : Mach) : (s.done m).m.recovering = m.recovering := rfl
@[simp] theorem State.done_deadWays (s : State) (m : Mach) : (s.done m).m.deadWays = m.deadWays := rfl
@[simp] theorem State.done_sparesUsed (s : State) (m : Mach) : (s.done m).m.sparesUsed = m.sparesUsed := rfl
@[simp] theorem State.done_lostBuckets (s : State) (m : Mach) : (s.done m).m.lostBuckets = m.lostBuckets := rfl
@[simp] theorem State.done_mirWait (s : State) (m : Mach) : (s.done m).m.mirWait = m.mirWait := rfl
@[simp] theorem State.done_lanes (s : State) (m : Mach) : (s.done m).m.lanes = m.lanes := rfl
@[simp] theorem State.done_zx (s : State) (m : Mach) : (s.done m).m.zx = m.zx := rfl
@[simp] theorem State.done_d2d (s : State) (m : Mach) : (s.done m).m.d2d = m.d2d := rfl
@[simp] theorem State.done_slots (s : State) (m : Mach) : (s.done m).m.slots = m.slots := rfl
@[simp] theorem State.done_slotWait (s : State) (m : Mach) : (s.done m).m.slotWait = m.slotWait := rfl
@[simp] theorem State.done_feeds (s : State) (m : Mach) : (s.done m).m.feeds = m.feeds := rfl
@[simp] theorem State.done_busMv (s : State) (m : Mach) : (s.done m).m.busMv = m.busMv := rfl
@[simp] theorem State.done_ibTimes (s : State) (m : Mach) : (s.done m).m.ibTimes = m.ibTimes := rfl
@[simp] theorem State.done_ibCur (s : State) (m : Mach) : (s.done m).m.ibCur = m.ibCur := rfl
@[simp] theorem State.done_ibNew (s : State) (m : Mach) : (s.done m).m.ibNew = m.ibNew := rfl
@[simp] theorem State.done_pipes (s : State) (m : Mach) : (s.done m).m.pipes = m.pipes := rfl
@[simp] theorem State.done_rp (s : State) (m : Mach) : (s.done m).m.rp = m.rp := rfl
@[simp] theorem State.done_tbl (s : State) (m : Mach) : (s.done m).m.tbl = m.tbl := rfl
@[simp] theorem State.done_sqs (s : State) (m : Mach) : (s.done m).m.sqs = m.sqs := rfl
@[simp] theorem State.done_cqs (s : State) (m : Mach) : (s.done m).m.cqs = m.cqs := rfl
@[simp] theorem State.done_qifs (s : State) (m : Mach) : (s.done m).m.qifs = m.qifs := rfl
@[simp] theorem State.done_qLastDom (s : State) (m : Mach) : (s.done m).m.qLastDom = m.qLastDom := rfl
@[simp] theorem State.done_qLast (s : State) (m : Mach) : (s.done m).m.qLast = m.qLast := rfl
@[simp] theorem State.done_cpeLastDom (s : State) (m : Mach) : (s.done m).m.cpeLastDom = m.cpeLastDom := rfl
@[simp] theorem State.done_cpeLast (s : State) (m : Mach) : (s.done m).m.cpeLast = m.cpeLast := rfl
@[simp] theorem State.done_runLastDom (s : State) (m : Mach) : (s.done m).m.runLastDom = m.runLastDom := rfl
@[simp] theorem State.done_cpeRdDom (s : State) (m : Mach) : (s.done m).m.cpeRdDom = m.cpeRdDom := rfl
@[simp] theorem State.done_cpeRd (s : State) (m : Mach) : (s.done m).m.cpeRd = m.cpeRd := rfl
@[simp] theorem State.done_cpeWrDom (s : State) (m : Mach) : (s.done m).m.cpeWrDom = m.cpeWrDom := rfl
@[simp] theorem State.done_cpeWr (s : State) (m : Mach) : (s.done m).m.cpeWr = m.cpeWr := rfl
@[simp] theorem State.done_fnTbl (s : State) (m : Mach) : (s.done m).m.fnTbl = m.fnTbl := rfl
@[simp] theorem State.done_fnPend (s : State) (m : Mach) : (s.done m).m.fnPend = m.fnPend := rfl
@[simp] theorem State.done_chans (s : State) (m : Mach) : (s.done m).m.chans = m.chans := rfl
@[simp] theorem State.done_threads (s : State) (m : Mach) : (s.done m).m.threads = m.threads := rfl
@[simp] theorem State.done_ls (s : State) (m : Mach) : (s.done m).m.ls = m.ls := rfl
@[simp] theorem State.done_frozen (s : State) (m : Mach) : (s.done m).m.frozen = m.frozen := rfl
@[simp] theorem State.done_seqDom (s : State) (m : Mach) : (s.done m).m.seqDom = m.seqDom := rfl
@[simp] theorem State.done_fwDown (s : State) (m : Mach) : (s.done m).m.fwDown = m.fwDown := rfl
@[simp] theorem State.done_lockAt (s : State) (m : Mach) : (s.done m).m.lockAt = m.lockAt := rfl
@[simp] theorem State.done_hinges (s : State) (m : Mach) : (s.done m).m.hinges = m.hinges := rfl
@[simp] theorem State.done_ppsAge (s : State) (m : Mach) : (s.done m).m.ppsAge = m.ppsAge := rfl
@[simp] theorem State.done_ppsSeen (s : State) (m : Mach) : (s.done m).m.ppsSeen = m.ppsSeen := rfl
@[simp] theorem State.done_ppsLost (s : State) (m : Mach) : (s.done m).m.ppsLost = m.ppsLost := rfl
@[simp] theorem State.done_hdm (s : State) (m : Mach) : (s.done m).m.hdm = m.hdm := rfl
@[simp] theorem State.done_tfCtr (s : State) (m : Mach) : (s.done m).m.tfCtr = m.tfCtr := rfl
@[simp] theorem State.done_vcsRouted (s : State) (m : Mach) : (s.done m).m.vcsRouted = m.vcsRouted := rfl
@[simp] theorem State.done_pw (s : State) (m : Mach) : (s.done m).m.pw = m.pw := rfl
@[simp] theorem State.done_keepLost (s : State) (m : Mach) : (s.done m).m.keepLost = m.keepLost := rfl
@[simp] theorem State.done_ddrBad (s : State) (m : Mach) : (s.done m).m.ddrBad = m.ddrBad := rfl
@[simp] theorem State.done_latches (s : State) (m : Mach) : (s.done m).m.latches = m.latches := rfl
@[simp] theorem State.done_shutWr (s : State) (m : Mach) : (s.done m).m.shutWr = m.shutWr := rfl

theorem State.start_regs (s : State) : s.start.regs = s.m.regs := rfl
theorem State.start_pins (s : State) : s.start.pins = s.m.pins := rfl
theorem State.start_boot (s : State) : s.start.boot = s.m.boot := rfl
theorem State.start_flash (s : State) : s.start.flash = s.m.flash := rfl
theorem State.start_fuses (s : State) : s.start.fuses = s.m.fuses := rfl
theorem State.start_pldm (s : State) : s.start.pldm = s.m.pldm := rfl
theorem State.start_warnC (s : State) : s.start.warnC = s.m.warnC := rfl
theorem State.start_ddr (s : State) : s.start.ddr = s.m.ddr := rfl
theorem State.start_selfRefresh (s : State) : s.start.selfRefresh = s.m.selfRefresh := rfl
theorem State.start_tb (s : State) : s.start.tb = s.m.tb := rfl
theorem State.start_doms (s : State) : s.start.doms = s.m.doms := rfl
theorem State.start_domPort (s : State) : s.start.domPort = s.m.domPort := rfl
theorem State.start_domFabric (s : State) : s.start.domFabric = s.m.domFabric := rfl
theorem State.start_epoch (s : State) : s.start.epoch = s.m.epoch := rfl
theorem State.start_ilv (s : State) : s.start.ilv = s.m.ilv := rfl
theorem State.start_mir (s : State) : s.start.mir = s.m.mir := rfl
theorem State.start_changes (s : State) : s.start.changes = s.m.changes := rfl
theorem State.start_fences (s : State) : s.start.fences = s.m.fences := rfl
theorem State.start_merging (s : State) : s.start.merging = s.m.merging := rfl
theorem State.start_freeIx (s : State) : s.start.freeIx = s.m.freeIx := rfl
theorem State.start_tfPrev (s : State) : s.start.tfPrev = s.m.tfPrev := rfl
theorem State.start_tfLast (s : State) : s.start.tfLast = s.m.tfLast := rfl
theorem State.start_coldReq (s : State) : s.start.coldReq = s.m.coldReq := rfl
theorem State.start_ports (s : State) : s.start.ports = s.m.ports := rfl
theorem State.start_binds (s : State) : s.start.binds = s.m.binds := rfl
theorem State.start_vppbs (s : State) : s.start.vppbs = s.m.vppbs := rfl
theorem State.start_fm (s : State) : s.start.fm = s.m.fm := rfl
theorem State.start_expOut (s : State) : s.start.expOut = s.m.expOut := rfl
theorem State.start_expIn (s : State) : s.start.expIn = s.m.expIn := rfl
theorem State.start_trk (s : State) : s.start.trk = s.m.trk := rfl
theorem State.start_trkWait (s : State) : s.start.trkWait = s.m.trkWait := rfl
theorem State.start_trkRr (s : State) : s.start.trkRr = s.m.trkRr := rfl
theorem State.start_voqs (s : State) : s.start.voqs = s.m.voqs := rfl
theorem State.start_reseqs (s : State) : s.start.reseqs = s.m.reseqs := rfl
theorem State.start_classes (s : State) : s.start.classes = s.m.classes := rfl
theorem State.start_postedSent (s : State) : s.start.postedSent = s.m.postedSent := rfl
theorem State.start_postedTx (s : State) : s.start.postedTx = s.m.postedTx := rfl
theorem State.start_egress (s : State) : s.start.egress = s.m.egress := rfl
theorem State.start_egOcc (s : State) : s.start.egOcc = s.m.egOcc := rfl
theorem State.start_egDrr (s : State) : s.start.egDrr = s.m.egDrr := rfl
theorem State.start_linkCr (s : State) : s.start.linkCr = s.m.linkCr := rfl
theorem State.start_ibuf (s : State) : s.start.ibuf = s.m.ibuf := rfl
theorem State.start_tags (s : State) : s.start.tags = s.m.tags := rfl
theorem State.start_planeErr (s : State) : s.start.planeErr = s.m.planeErr := rfl
theorem State.start_agentDone (s : State) : s.start.agentDone = s.m.agentDone := rfl
theorem State.start_now (s : State) : s.start.now = s.m.now := rfl
theorem State.start_lvr (s : State) : s.start.lvr = s.m.lvr := rfl
theorem State.start_lkpWeight (s : State) : s.start.lkpWeight = s.m.lkpWeight := rfl
theorem State.start_lkpDef (s : State) : s.start.lkpDef = s.m.lkpDef := rfl
theorem State.start_lkpLast (s : State) : s.start.lkpLast = s.m.lkpLast := rfl
theorem State.start_smp (s : State) : s.start.smp = s.m.smp := rfl
theorem State.start_t1 (s : State) : s.start.t1 = s.m.t1 := rfl
theorem State.start_t2 (s : State) : s.start.t2 = s.m.t2 := rfl
theorem State.start_summary (s : State) : s.start.summary = s.m.summary := rfl
theorem State.start_rebuilding (s : State) : s.start.rebuilding = s.m.rebuilding := rfl
theorem State.start_lines (s : State) : s.start.lines = s.m.lines := rfl
theorem State.start_busyWait (s : State) : s.start.busyWait = s.m.busyWait := rfl
theorem State.start_toEvict (s : State) : s.start.toEvict = s.m.toEvict := rfl
theorem State.start_quotaWalk (s : State) : s.start.quotaWalk = s.m.quotaWalk := rfl
theorem State.start_tenures (s : State) : s.start.tenures = s.m.tenures := rfl
theorem State.start_vc2Rx (s : State) : s.start.vc2Rx = s.m.vc2Rx := rfl
theorem State.start_birsps (s : State) : s.start.birsps = s.m.birsps := rfl
theorem State.start_flowCnt (s : State) : s.start.flowCnt = s.m.flowCnt := rfl
theorem State.start_specWin (s : State) : s.start.specWin = s.m.specWin := rfl
theorem State.start_deadWalks (s : State) : s.start.deadWalks = s.m.deadWalks := rfl
theorem State.start_validWritten (s : State) : s.start.validWritten = s.m.validWritten := rfl
theorem State.start_shadow (s : State) : s.start.shadow = s.m.shadow := rfl
theorem State.start_ring (s : State) : s.start.ring = s.m.ring := rfl
theorem State.start_changed (s : State) : s.start.changed = s.m.changed := rfl
theorem State.start_recover (s : State) : s.start.recover = s.m.recover := rfl
theorem State.start_recovering (s : State) : s.start.recovering = s.m.recovering := rfl
theorem State.start_deadWays (s : State) : s.start.deadWays = s.m.deadWays := rfl
theorem State.start_sparesUsed (s : State) : s.start.sparesUsed = s.m.sparesUsed := rfl
theorem State.start_lostBuckets (s : State) : s.start.lostBuckets = s.m.lostBuckets := rfl
theorem State.start_mirWait (s : State) : s.start.mirWait = s.m.mirWait := rfl
theorem State.start_lanes (s : State) : s.start.lanes = s.m.lanes := rfl
theorem State.start_zx (s : State) : s.start.zx = s.m.zx := rfl
theorem State.start_d2d (s : State) : s.start.d2d = s.m.d2d := rfl
theorem State.start_slots (s : State) : s.start.slots = s.m.slots := rfl
theorem State.start_slotWait (s : State) : s.start.slotWait = s.m.slotWait := rfl
theorem State.start_feeds (s : State) : s.start.feeds = s.m.feeds := rfl
theorem State.start_busMv (s : State) : s.start.busMv = s.m.busMv := rfl
theorem State.start_ibTimes (s : State) : s.start.ibTimes = s.m.ibTimes := rfl
theorem State.start_ibCur (s : State) : s.start.ibCur = s.m.ibCur := rfl
theorem State.start_ibNew (s : State) : s.start.ibNew = s.m.ibNew := rfl
theorem State.start_pipes (s : State) : s.start.pipes = s.m.pipes := rfl
theorem State.start_rp (s : State) : s.start.rp = s.m.rp := rfl
theorem State.start_tbl (s : State) : s.start.tbl = s.m.tbl := rfl
theorem State.start_sqs (s : State) : s.start.sqs = s.m.sqs := rfl
theorem State.start_cqs (s : State) : s.start.cqs = s.m.cqs := rfl
theorem State.start_qifs (s : State) : s.start.qifs = s.m.qifs := rfl
theorem State.start_qLastDom (s : State) : s.start.qLastDom = s.m.qLastDom := rfl
theorem State.start_qLast (s : State) : s.start.qLast = s.m.qLast := rfl
theorem State.start_cpeLastDom (s : State) : s.start.cpeLastDom = s.m.cpeLastDom := rfl
theorem State.start_cpeLast (s : State) : s.start.cpeLast = s.m.cpeLast := rfl
theorem State.start_runLastDom (s : State) : s.start.runLastDom = s.m.runLastDom := rfl
theorem State.start_cpeRdDom (s : State) : s.start.cpeRdDom = s.m.cpeRdDom := rfl
theorem State.start_cpeRd (s : State) : s.start.cpeRd = s.m.cpeRd := rfl
theorem State.start_cpeWrDom (s : State) : s.start.cpeWrDom = s.m.cpeWrDom := rfl
theorem State.start_cpeWr (s : State) : s.start.cpeWr = s.m.cpeWr := rfl
theorem State.start_fnTbl (s : State) : s.start.fnTbl = s.m.fnTbl := rfl
theorem State.start_fnPend (s : State) : s.start.fnPend = s.m.fnPend := rfl
theorem State.start_chans (s : State) : s.start.chans = s.m.chans := rfl
theorem State.start_threads (s : State) : s.start.threads = s.m.threads := rfl
theorem State.start_ls (s : State) : s.start.ls = s.m.ls := rfl
theorem State.start_frozen (s : State) : s.start.frozen = s.m.frozen := rfl
theorem State.start_seqDom (s : State) : s.start.seqDom = s.m.seqDom := rfl
theorem State.start_fwDown (s : State) : s.start.fwDown = s.m.fwDown := rfl
theorem State.start_lockAt (s : State) : s.start.lockAt = s.m.lockAt := rfl
theorem State.start_hinges (s : State) : s.start.hinges = s.m.hinges := rfl
theorem State.start_ppsAge (s : State) : s.start.ppsAge = s.m.ppsAge := rfl
theorem State.start_ppsSeen (s : State) : s.start.ppsSeen = s.m.ppsSeen := rfl
theorem State.start_ppsLost (s : State) : s.start.ppsLost = s.m.ppsLost := rfl
theorem State.start_hdm (s : State) : s.start.hdm = s.m.hdm := rfl
theorem State.start_tfCtr (s : State) : s.start.tfCtr = s.m.tfCtr := rfl
theorem State.start_vcsRouted (s : State) : s.start.vcsRouted = s.m.vcsRouted := rfl
theorem State.start_pw (s : State) : s.start.pw = s.m.pw := rfl
theorem State.start_keepLost (s : State) : s.start.keepLost = s.m.keepLost := rfl
theorem State.start_ddrBad (s : State) : s.start.ddrBad = s.m.ddrBad := rfl
theorem State.start_latches (s : State) : s.start.latches = s.m.latches := rfl
theorem State.start_irqOwed (s : State) : s.start.irqOwed = s.m.irqOwed := rfl
theorem State.start_shutWr (s : State) : s.start.shutWr = s.m.shutWr := rfl

@[simp] theorem Mach.setDom_regs (m : Mach) (d : Nat) (r : DomRec) : (m.setDom d r).regs = m.regs := rfl
@[simp] theorem Mach.setDom_pins (m : Mach) (d : Nat) (r : DomRec) : (m.setDom d r).pins = m.pins := rfl
@[simp] theorem Mach.setDom_boot (m : Mach) (d : Nat) (r : DomRec) : (m.setDom d r).boot = m.boot := rfl
@[simp] theorem Mach.setDom_flash (m : Mach) (d : Nat) (r : DomRec) : (m.setDom d r).flash = m.flash := rfl
@[simp] theorem Mach.setDom_fuses (m : Mach) (d : Nat) (r : DomRec) : (m.setDom d r).fuses = m.fuses := rfl
@[simp] theorem Mach.setDom_pldm (m : Mach) (d : Nat) (r : DomRec) : (m.setDom d r).pldm = m.pldm := rfl
@[simp] theorem Mach.setDom_warnC (m : Mach) (d : Nat) (r : DomRec) : (m.setDom d r).warnC = m.warnC := rfl
@[simp] theorem Mach.setDom_ddr (m : Mach) (d : Nat) (r : DomRec) : (m.setDom d r).ddr = m.ddr := rfl
@[simp] theorem Mach.setDom_selfRefresh (m : Mach) (d : Nat) (r : DomRec) : (m.setDom d r).selfRefresh = m.selfRefresh := rfl
@[simp] theorem Mach.setDom_tb (m : Mach) (d : Nat) (r : DomRec) : (m.setDom d r).tb = m.tb := rfl
@[simp] theorem Mach.setDom_domPort (m : Mach) (d : Nat) (r : DomRec) : (m.setDom d r).domPort = m.domPort := rfl
@[simp] theorem Mach.setDom_domFabric (m : Mach) (d : Nat) (r : DomRec) : (m.setDom d r).domFabric = m.domFabric := rfl
@[simp] theorem Mach.setDom_epoch (m : Mach) (d : Nat) (r : DomRec) : (m.setDom d r).epoch = m.epoch := rfl
@[simp] theorem Mach.setDom_ilv (m : Mach) (d : Nat) (r : DomRec) : (m.setDom d r).ilv = m.ilv := rfl
@[simp] theorem Mach.setDom_mir (m : Mach) (d : Nat) (r : DomRec) : (m.setDom d r).mir = m.mir := rfl
@[simp] theorem Mach.setDom_changes (m : Mach) (d : Nat) (r : DomRec) : (m.setDom d r).changes = m.changes := rfl
@[simp] theorem Mach.setDom_fences (m : Mach) (d : Nat) (r : DomRec) : (m.setDom d r).fences = m.fences := rfl
@[simp] theorem Mach.setDom_merging (m : Mach) (d : Nat) (r : DomRec) : (m.setDom d r).merging = m.merging := rfl
@[simp] theorem Mach.setDom_freeIx (m : Mach) (d : Nat) (r : DomRec) : (m.setDom d r).freeIx = m.freeIx := rfl
@[simp] theorem Mach.setDom_out (m : Mach) (d : Nat) (r : DomRec) : (m.setDom d r).out = m.out := rfl
@[simp] theorem Mach.setDom_tfPrev (m : Mach) (d : Nat) (r : DomRec) : (m.setDom d r).tfPrev = m.tfPrev := rfl
@[simp] theorem Mach.setDom_tfLast (m : Mach) (d : Nat) (r : DomRec) : (m.setDom d r).tfLast = m.tfLast := rfl
@[simp] theorem Mach.setDom_coldReq (m : Mach) (d : Nat) (r : DomRec) : (m.setDom d r).coldReq = m.coldReq := rfl
@[simp] theorem Mach.setDom_ports (m : Mach) (d : Nat) (r : DomRec) : (m.setDom d r).ports = m.ports := rfl
@[simp] theorem Mach.setDom_binds (m : Mach) (d : Nat) (r : DomRec) : (m.setDom d r).binds = m.binds := rfl
@[simp] theorem Mach.setDom_vppbs (m : Mach) (d : Nat) (r : DomRec) : (m.setDom d r).vppbs = m.vppbs := rfl
@[simp] theorem Mach.setDom_fm (m : Mach) (d : Nat) (r : DomRec) : (m.setDom d r).fm = m.fm := rfl
@[simp] theorem Mach.setDom_expOut (m : Mach) (d : Nat) (r : DomRec) : (m.setDom d r).expOut = m.expOut := rfl
@[simp] theorem Mach.setDom_expIn (m : Mach) (d : Nat) (r : DomRec) : (m.setDom d r).expIn = m.expIn := rfl
@[simp] theorem Mach.setDom_trk (m : Mach) (d : Nat) (r : DomRec) : (m.setDom d r).trk = m.trk := rfl
@[simp] theorem Mach.setDom_trkWait (m : Mach) (d : Nat) (r : DomRec) : (m.setDom d r).trkWait = m.trkWait := rfl
@[simp] theorem Mach.setDom_trkRr (m : Mach) (d : Nat) (r : DomRec) : (m.setDom d r).trkRr = m.trkRr := rfl
@[simp] theorem Mach.setDom_voqs (m : Mach) (d : Nat) (r : DomRec) : (m.setDom d r).voqs = m.voqs := rfl
@[simp] theorem Mach.setDom_reseqs (m : Mach) (d : Nat) (r : DomRec) : (m.setDom d r).reseqs = m.reseqs := rfl
@[simp] theorem Mach.setDom_classes (m : Mach) (d : Nat) (r : DomRec) : (m.setDom d r).classes = m.classes := rfl
@[simp] theorem Mach.setDom_postedSent (m : Mach) (d : Nat) (r : DomRec) : (m.setDom d r).postedSent = m.postedSent := rfl
@[simp] theorem Mach.setDom_postedTx (m : Mach) (d : Nat) (r : DomRec) : (m.setDom d r).postedTx = m.postedTx := rfl
@[simp] theorem Mach.setDom_egress (m : Mach) (d : Nat) (r : DomRec) : (m.setDom d r).egress = m.egress := rfl
@[simp] theorem Mach.setDom_egOcc (m : Mach) (d : Nat) (r : DomRec) : (m.setDom d r).egOcc = m.egOcc := rfl
@[simp] theorem Mach.setDom_egDrr (m : Mach) (d : Nat) (r : DomRec) : (m.setDom d r).egDrr = m.egDrr := rfl
@[simp] theorem Mach.setDom_linkCr (m : Mach) (d : Nat) (r : DomRec) : (m.setDom d r).linkCr = m.linkCr := rfl
@[simp] theorem Mach.setDom_ibuf (m : Mach) (d : Nat) (r : DomRec) : (m.setDom d r).ibuf = m.ibuf := rfl
@[simp] theorem Mach.setDom_tags (m : Mach) (d : Nat) (r : DomRec) : (m.setDom d r).tags = m.tags := rfl
@[simp] theorem Mach.setDom_planeErr (m : Mach) (d : Nat) (r : DomRec) : (m.setDom d r).planeErr = m.planeErr := rfl
@[simp] theorem Mach.setDom_agentDone (m : Mach) (d : Nat) (r : DomRec) : (m.setDom d r).agentDone = m.agentDone := rfl
@[simp] theorem Mach.setDom_now (m : Mach) (d : Nat) (r : DomRec) : (m.setDom d r).now = m.now := rfl
@[simp] theorem Mach.setDom_lvr (m : Mach) (d : Nat) (r : DomRec) : (m.setDom d r).lvr = m.lvr := rfl
@[simp] theorem Mach.setDom_lkpWeight (m : Mach) (d : Nat) (r : DomRec) : (m.setDom d r).lkpWeight = m.lkpWeight := rfl
@[simp] theorem Mach.setDom_lkpDef (m : Mach) (d : Nat) (r : DomRec) : (m.setDom d r).lkpDef = m.lkpDef := rfl
@[simp] theorem Mach.setDom_lkpLast (m : Mach) (d : Nat) (r : DomRec) : (m.setDom d r).lkpLast = m.lkpLast := rfl
@[simp] theorem Mach.setDom_smp (m : Mach) (d : Nat) (r : DomRec) : (m.setDom d r).smp = m.smp := rfl
@[simp] theorem Mach.setDom_t1 (m : Mach) (d : Nat) (r : DomRec) : (m.setDom d r).t1 = m.t1 := rfl
@[simp] theorem Mach.setDom_t2 (m : Mach) (d : Nat) (r : DomRec) : (m.setDom d r).t2 = m.t2 := rfl
@[simp] theorem Mach.setDom_summary (m : Mach) (d : Nat) (r : DomRec) : (m.setDom d r).summary = m.summary := rfl
@[simp] theorem Mach.setDom_rebuilding (m : Mach) (d : Nat) (r : DomRec) : (m.setDom d r).rebuilding = m.rebuilding := rfl
@[simp] theorem Mach.setDom_lines (m : Mach) (d : Nat) (r : DomRec) : (m.setDom d r).lines = m.lines := rfl
@[simp] theorem Mach.setDom_busyWait (m : Mach) (d : Nat) (r : DomRec) : (m.setDom d r).busyWait = m.busyWait := rfl
@[simp] theorem Mach.setDom_toEvict (m : Mach) (d : Nat) (r : DomRec) : (m.setDom d r).toEvict = m.toEvict := rfl
@[simp] theorem Mach.setDom_quotaWalk (m : Mach) (d : Nat) (r : DomRec) : (m.setDom d r).quotaWalk = m.quotaWalk := rfl
@[simp] theorem Mach.setDom_tenures (m : Mach) (d : Nat) (r : DomRec) : (m.setDom d r).tenures = m.tenures := rfl
@[simp] theorem Mach.setDom_vc2Rx (m : Mach) (d : Nat) (r : DomRec) : (m.setDom d r).vc2Rx = m.vc2Rx := rfl
@[simp] theorem Mach.setDom_birsps (m : Mach) (d : Nat) (r : DomRec) : (m.setDom d r).birsps = m.birsps := rfl
@[simp] theorem Mach.setDom_flowCnt (m : Mach) (d : Nat) (r : DomRec) : (m.setDom d r).flowCnt = m.flowCnt := rfl
@[simp] theorem Mach.setDom_specWin (m : Mach) (d : Nat) (r : DomRec) : (m.setDom d r).specWin = m.specWin := rfl
@[simp] theorem Mach.setDom_deadWalks (m : Mach) (d : Nat) (r : DomRec) : (m.setDom d r).deadWalks = m.deadWalks := rfl
@[simp] theorem Mach.setDom_validWritten (m : Mach) (d : Nat) (r : DomRec) : (m.setDom d r).validWritten = m.validWritten := rfl
@[simp] theorem Mach.setDom_shadow (m : Mach) (d : Nat) (r : DomRec) : (m.setDom d r).shadow = m.shadow := rfl
@[simp] theorem Mach.setDom_ring (m : Mach) (d : Nat) (r : DomRec) : (m.setDom d r).ring = m.ring := rfl
@[simp] theorem Mach.setDom_changed (m : Mach) (d : Nat) (r : DomRec) : (m.setDom d r).changed = m.changed := rfl
@[simp] theorem Mach.setDom_recover (m : Mach) (d : Nat) (r : DomRec) : (m.setDom d r).recover = m.recover := rfl
@[simp] theorem Mach.setDom_recovering (m : Mach) (d : Nat) (r : DomRec) : (m.setDom d r).recovering = m.recovering := rfl
@[simp] theorem Mach.setDom_deadWays (m : Mach) (d : Nat) (r : DomRec) : (m.setDom d r).deadWays = m.deadWays := rfl
@[simp] theorem Mach.setDom_sparesUsed (m : Mach) (d : Nat) (r : DomRec) : (m.setDom d r).sparesUsed = m.sparesUsed := rfl
@[simp] theorem Mach.setDom_lostBuckets (m : Mach) (d : Nat) (r : DomRec) : (m.setDom d r).lostBuckets = m.lostBuckets := rfl
@[simp] theorem Mach.setDom_mirWait (m : Mach) (d : Nat) (r : DomRec) : (m.setDom d r).mirWait = m.mirWait := rfl
@[simp] theorem Mach.setDom_lanes (m : Mach) (d : Nat) (r : DomRec) : (m.setDom d r).lanes = m.lanes := rfl
@[simp] theorem Mach.setDom_zx (m : Mach) (d : Nat) (r : DomRec) : (m.setDom d r).zx = m.zx := rfl
@[simp] theorem Mach.setDom_d2d (m : Mach) (d : Nat) (r : DomRec) : (m.setDom d r).d2d = m.d2d := rfl
@[simp] theorem Mach.setDom_slots (m : Mach) (d : Nat) (r : DomRec) : (m.setDom d r).slots = m.slots := rfl
@[simp] theorem Mach.setDom_slotWait (m : Mach) (d : Nat) (r : DomRec) : (m.setDom d r).slotWait = m.slotWait := rfl
@[simp] theorem Mach.setDom_feeds (m : Mach) (d : Nat) (r : DomRec) : (m.setDom d r).feeds = m.feeds := rfl
@[simp] theorem Mach.setDom_busMv (m : Mach) (d : Nat) (r : DomRec) : (m.setDom d r).busMv = m.busMv := rfl
@[simp] theorem Mach.setDom_ibTimes (m : Mach) (d : Nat) (r : DomRec) : (m.setDom d r).ibTimes = m.ibTimes := rfl
@[simp] theorem Mach.setDom_ibCur (m : Mach) (d : Nat) (r : DomRec) : (m.setDom d r).ibCur = m.ibCur := rfl
@[simp] theorem Mach.setDom_ibNew (m : Mach) (d : Nat) (r : DomRec) : (m.setDom d r).ibNew = m.ibNew := rfl
@[simp] theorem Mach.setDom_pipes (m : Mach) (d : Nat) (r : DomRec) : (m.setDom d r).pipes = m.pipes := rfl
@[simp] theorem Mach.setDom_rp (m : Mach) (d : Nat) (r : DomRec) : (m.setDom d r).rp = m.rp := rfl
@[simp] theorem Mach.setDom_tbl (m : Mach) (d : Nat) (r : DomRec) : (m.setDom d r).tbl = m.tbl := rfl
@[simp] theorem Mach.setDom_sqs (m : Mach) (d : Nat) (r : DomRec) : (m.setDom d r).sqs = m.sqs := rfl
@[simp] theorem Mach.setDom_cqs (m : Mach) (d : Nat) (r : DomRec) : (m.setDom d r).cqs = m.cqs := rfl
@[simp] theorem Mach.setDom_qifs (m : Mach) (d : Nat) (r : DomRec) : (m.setDom d r).qifs = m.qifs := rfl
@[simp] theorem Mach.setDom_qLastDom (m : Mach) (d : Nat) (r : DomRec) : (m.setDom d r).qLastDom = m.qLastDom := rfl
@[simp] theorem Mach.setDom_qLast (m : Mach) (d : Nat) (r : DomRec) : (m.setDom d r).qLast = m.qLast := rfl
@[simp] theorem Mach.setDom_cpeLastDom (m : Mach) (d : Nat) (r : DomRec) : (m.setDom d r).cpeLastDom = m.cpeLastDom := rfl
@[simp] theorem Mach.setDom_cpeLast (m : Mach) (d : Nat) (r : DomRec) : (m.setDom d r).cpeLast = m.cpeLast := rfl
@[simp] theorem Mach.setDom_runLastDom (m : Mach) (d : Nat) (r : DomRec) : (m.setDom d r).runLastDom = m.runLastDom := rfl
@[simp] theorem Mach.setDom_cpeRdDom (m : Mach) (d : Nat) (r : DomRec) : (m.setDom d r).cpeRdDom = m.cpeRdDom := rfl
@[simp] theorem Mach.setDom_cpeRd (m : Mach) (d : Nat) (r : DomRec) : (m.setDom d r).cpeRd = m.cpeRd := rfl
@[simp] theorem Mach.setDom_cpeWrDom (m : Mach) (d : Nat) (r : DomRec) : (m.setDom d r).cpeWrDom = m.cpeWrDom := rfl
@[simp] theorem Mach.setDom_cpeWr (m : Mach) (d : Nat) (r : DomRec) : (m.setDom d r).cpeWr = m.cpeWr := rfl
@[simp] theorem Mach.setDom_fnTbl (m : Mach) (d : Nat) (r : DomRec) : (m.setDom d r).fnTbl = m.fnTbl := rfl
@[simp] theorem Mach.setDom_fnPend (m : Mach) (d : Nat) (r : DomRec) : (m.setDom d r).fnPend = m.fnPend := rfl
@[simp] theorem Mach.setDom_chans (m : Mach) (d : Nat) (r : DomRec) : (m.setDom d r).chans = m.chans := rfl
@[simp] theorem Mach.setDom_threads (m : Mach) (d : Nat) (r : DomRec) : (m.setDom d r).threads = m.threads := rfl
@[simp] theorem Mach.setDom_ls (m : Mach) (d : Nat) (r : DomRec) : (m.setDom d r).ls = m.ls := rfl
@[simp] theorem Mach.setDom_frozen (m : Mach) (d : Nat) (r : DomRec) : (m.setDom d r).frozen = m.frozen := rfl
@[simp] theorem Mach.setDom_seqDom (m : Mach) (d : Nat) (r : DomRec) : (m.setDom d r).seqDom = m.seqDom := rfl
@[simp] theorem Mach.setDom_fwDown (m : Mach) (d : Nat) (r : DomRec) : (m.setDom d r).fwDown = m.fwDown := rfl
@[simp] theorem Mach.setDom_lockAt (m : Mach) (d : Nat) (r : DomRec) : (m.setDom d r).lockAt = m.lockAt := rfl
@[simp] theorem Mach.setDom_hinges (m : Mach) (d : Nat) (r : DomRec) : (m.setDom d r).hinges = m.hinges := rfl
@[simp] theorem Mach.setDom_ppsAge (m : Mach) (d : Nat) (r : DomRec) : (m.setDom d r).ppsAge = m.ppsAge := rfl
@[simp] theorem Mach.setDom_ppsSeen (m : Mach) (d : Nat) (r : DomRec) : (m.setDom d r).ppsSeen = m.ppsSeen := rfl
@[simp] theorem Mach.setDom_ppsLost (m : Mach) (d : Nat) (r : DomRec) : (m.setDom d r).ppsLost = m.ppsLost := rfl
@[simp] theorem Mach.setDom_hdm (m : Mach) (d : Nat) (r : DomRec) : (m.setDom d r).hdm = m.hdm := rfl
@[simp] theorem Mach.setDom_tfCtr (m : Mach) (d : Nat) (r : DomRec) : (m.setDom d r).tfCtr = m.tfCtr := rfl
@[simp] theorem Mach.setDom_vcsRouted (m : Mach) (d : Nat) (r : DomRec) : (m.setDom d r).vcsRouted = m.vcsRouted := rfl
@[simp] theorem Mach.setDom_pw (m : Mach) (d : Nat) (r : DomRec) : (m.setDom d r).pw = m.pw := rfl
@[simp] theorem Mach.setDom_keepLost (m : Mach) (d : Nat) (r : DomRec) : (m.setDom d r).keepLost = m.keepLost := rfl
@[simp] theorem Mach.setDom_ddrBad (m : Mach) (d : Nat) (r : DomRec) : (m.setDom d r).ddrBad = m.ddrBad := rfl
@[simp] theorem Mach.setDom_latches (m : Mach) (d : Nat) (r : DomRec) : (m.setDom d r).latches = m.latches := rfl
@[simp] theorem Mach.setDom_irqOwed (m : Mach) (d : Nat) (r : DomRec) : (m.setDom d r).irqOwed = m.irqOwed := rfl
@[simp] theorem Mach.setDom_shutWr (m : Mach) (d : Nat) (r : DomRec) : (m.setDom d r).shutWr = m.shutWr := rfl

@[simp] theorem Mach.setThr_regs (m : Mach) (k : Nat) (t : Thread) : (m.setThr k t).regs = m.regs := rfl
@[simp] theorem Mach.setThr_pins (m : Mach) (k : Nat) (t : Thread) : (m.setThr k t).pins = m.pins := rfl
@[simp] theorem Mach.setThr_boot (m : Mach) (k : Nat) (t : Thread) : (m.setThr k t).boot = m.boot := rfl
@[simp] theorem Mach.setThr_flash (m : Mach) (k : Nat) (t : Thread) : (m.setThr k t).flash = m.flash := rfl
@[simp] theorem Mach.setThr_fuses (m : Mach) (k : Nat) (t : Thread) : (m.setThr k t).fuses = m.fuses := rfl
@[simp] theorem Mach.setThr_pldm (m : Mach) (k : Nat) (t : Thread) : (m.setThr k t).pldm = m.pldm := rfl
@[simp] theorem Mach.setThr_warnC (m : Mach) (k : Nat) (t : Thread) : (m.setThr k t).warnC = m.warnC := rfl
@[simp] theorem Mach.setThr_ddr (m : Mach) (k : Nat) (t : Thread) : (m.setThr k t).ddr = m.ddr := rfl
@[simp] theorem Mach.setThr_selfRefresh (m : Mach) (k : Nat) (t : Thread) : (m.setThr k t).selfRefresh = m.selfRefresh := rfl
@[simp] theorem Mach.setThr_tb (m : Mach) (k : Nat) (t : Thread) : (m.setThr k t).tb = m.tb := rfl
@[simp] theorem Mach.setThr_doms (m : Mach) (k : Nat) (t : Thread) : (m.setThr k t).doms = m.doms := rfl
@[simp] theorem Mach.setThr_domPort (m : Mach) (k : Nat) (t : Thread) : (m.setThr k t).domPort = m.domPort := rfl
@[simp] theorem Mach.setThr_domFabric (m : Mach) (k : Nat) (t : Thread) : (m.setThr k t).domFabric = m.domFabric := rfl
@[simp] theorem Mach.setThr_epoch (m : Mach) (k : Nat) (t : Thread) : (m.setThr k t).epoch = m.epoch := rfl
@[simp] theorem Mach.setThr_ilv (m : Mach) (k : Nat) (t : Thread) : (m.setThr k t).ilv = m.ilv := rfl
@[simp] theorem Mach.setThr_mir (m : Mach) (k : Nat) (t : Thread) : (m.setThr k t).mir = m.mir := rfl
@[simp] theorem Mach.setThr_changes (m : Mach) (k : Nat) (t : Thread) : (m.setThr k t).changes = m.changes := rfl
@[simp] theorem Mach.setThr_fences (m : Mach) (k : Nat) (t : Thread) : (m.setThr k t).fences = m.fences := rfl
@[simp] theorem Mach.setThr_merging (m : Mach) (k : Nat) (t : Thread) : (m.setThr k t).merging = m.merging := rfl
@[simp] theorem Mach.setThr_freeIx (m : Mach) (k : Nat) (t : Thread) : (m.setThr k t).freeIx = m.freeIx := rfl
@[simp] theorem Mach.setThr_out (m : Mach) (k : Nat) (t : Thread) : (m.setThr k t).out = m.out := rfl
@[simp] theorem Mach.setThr_tfPrev (m : Mach) (k : Nat) (t : Thread) : (m.setThr k t).tfPrev = m.tfPrev := rfl
@[simp] theorem Mach.setThr_tfLast (m : Mach) (k : Nat) (t : Thread) : (m.setThr k t).tfLast = m.tfLast := rfl
@[simp] theorem Mach.setThr_coldReq (m : Mach) (k : Nat) (t : Thread) : (m.setThr k t).coldReq = m.coldReq := rfl
@[simp] theorem Mach.setThr_ports (m : Mach) (k : Nat) (t : Thread) : (m.setThr k t).ports = m.ports := rfl
@[simp] theorem Mach.setThr_binds (m : Mach) (k : Nat) (t : Thread) : (m.setThr k t).binds = m.binds := rfl
@[simp] theorem Mach.setThr_vppbs (m : Mach) (k : Nat) (t : Thread) : (m.setThr k t).vppbs = m.vppbs := rfl
@[simp] theorem Mach.setThr_fm (m : Mach) (k : Nat) (t : Thread) : (m.setThr k t).fm = m.fm := rfl
@[simp] theorem Mach.setThr_expOut (m : Mach) (k : Nat) (t : Thread) : (m.setThr k t).expOut = m.expOut := rfl
@[simp] theorem Mach.setThr_expIn (m : Mach) (k : Nat) (t : Thread) : (m.setThr k t).expIn = m.expIn := rfl
@[simp] theorem Mach.setThr_trk (m : Mach) (k : Nat) (t : Thread) : (m.setThr k t).trk = m.trk := rfl
@[simp] theorem Mach.setThr_trkWait (m : Mach) (k : Nat) (t : Thread) : (m.setThr k t).trkWait = m.trkWait := rfl
@[simp] theorem Mach.setThr_trkRr (m : Mach) (k : Nat) (t : Thread) : (m.setThr k t).trkRr = m.trkRr := rfl
@[simp] theorem Mach.setThr_voqs (m : Mach) (k : Nat) (t : Thread) : (m.setThr k t).voqs = m.voqs := rfl
@[simp] theorem Mach.setThr_reseqs (m : Mach) (k : Nat) (t : Thread) : (m.setThr k t).reseqs = m.reseqs := rfl
@[simp] theorem Mach.setThr_classes (m : Mach) (k : Nat) (t : Thread) : (m.setThr k t).classes = m.classes := rfl
@[simp] theorem Mach.setThr_postedSent (m : Mach) (k : Nat) (t : Thread) : (m.setThr k t).postedSent = m.postedSent := rfl
@[simp] theorem Mach.setThr_postedTx (m : Mach) (k : Nat) (t : Thread) : (m.setThr k t).postedTx = m.postedTx := rfl
@[simp] theorem Mach.setThr_egress (m : Mach) (k : Nat) (t : Thread) : (m.setThr k t).egress = m.egress := rfl
@[simp] theorem Mach.setThr_egOcc (m : Mach) (k : Nat) (t : Thread) : (m.setThr k t).egOcc = m.egOcc := rfl
@[simp] theorem Mach.setThr_egDrr (m : Mach) (k : Nat) (t : Thread) : (m.setThr k t).egDrr = m.egDrr := rfl
@[simp] theorem Mach.setThr_linkCr (m : Mach) (k : Nat) (t : Thread) : (m.setThr k t).linkCr = m.linkCr := rfl
@[simp] theorem Mach.setThr_ibuf (m : Mach) (k : Nat) (t : Thread) : (m.setThr k t).ibuf = m.ibuf := rfl
@[simp] theorem Mach.setThr_tags (m : Mach) (k : Nat) (t : Thread) : (m.setThr k t).tags = m.tags := rfl
@[simp] theorem Mach.setThr_planeErr (m : Mach) (k : Nat) (t : Thread) : (m.setThr k t).planeErr = m.planeErr := rfl
@[simp] theorem Mach.setThr_agentDone (m : Mach) (k : Nat) (t : Thread) : (m.setThr k t).agentDone = m.agentDone := rfl
@[simp] theorem Mach.setThr_now (m : Mach) (k : Nat) (t : Thread) : (m.setThr k t).now = m.now := rfl
@[simp] theorem Mach.setThr_lvr (m : Mach) (k : Nat) (t : Thread) : (m.setThr k t).lvr = m.lvr := rfl
@[simp] theorem Mach.setThr_lkpWeight (m : Mach) (k : Nat) (t : Thread) : (m.setThr k t).lkpWeight = m.lkpWeight := rfl
@[simp] theorem Mach.setThr_lkpDef (m : Mach) (k : Nat) (t : Thread) : (m.setThr k t).lkpDef = m.lkpDef := rfl
@[simp] theorem Mach.setThr_lkpLast (m : Mach) (k : Nat) (t : Thread) : (m.setThr k t).lkpLast = m.lkpLast := rfl
@[simp] theorem Mach.setThr_smp (m : Mach) (k : Nat) (t : Thread) : (m.setThr k t).smp = m.smp := rfl
@[simp] theorem Mach.setThr_t1 (m : Mach) (k : Nat) (t : Thread) : (m.setThr k t).t1 = m.t1 := rfl
@[simp] theorem Mach.setThr_t2 (m : Mach) (k : Nat) (t : Thread) : (m.setThr k t).t2 = m.t2 := rfl
@[simp] theorem Mach.setThr_summary (m : Mach) (k : Nat) (t : Thread) : (m.setThr k t).summary = m.summary := rfl
@[simp] theorem Mach.setThr_rebuilding (m : Mach) (k : Nat) (t : Thread) : (m.setThr k t).rebuilding = m.rebuilding := rfl
@[simp] theorem Mach.setThr_lines (m : Mach) (k : Nat) (t : Thread) : (m.setThr k t).lines = m.lines := rfl
@[simp] theorem Mach.setThr_busyWait (m : Mach) (k : Nat) (t : Thread) : (m.setThr k t).busyWait = m.busyWait := rfl
@[simp] theorem Mach.setThr_toEvict (m : Mach) (k : Nat) (t : Thread) : (m.setThr k t).toEvict = m.toEvict := rfl
@[simp] theorem Mach.setThr_quotaWalk (m : Mach) (k : Nat) (t : Thread) : (m.setThr k t).quotaWalk = m.quotaWalk := rfl
@[simp] theorem Mach.setThr_tenures (m : Mach) (k : Nat) (t : Thread) : (m.setThr k t).tenures = m.tenures := rfl
@[simp] theorem Mach.setThr_vc2Rx (m : Mach) (k : Nat) (t : Thread) : (m.setThr k t).vc2Rx = m.vc2Rx := rfl
@[simp] theorem Mach.setThr_birsps (m : Mach) (k : Nat) (t : Thread) : (m.setThr k t).birsps = m.birsps := rfl
@[simp] theorem Mach.setThr_flowCnt (m : Mach) (k : Nat) (t : Thread) : (m.setThr k t).flowCnt = m.flowCnt := rfl
@[simp] theorem Mach.setThr_specWin (m : Mach) (k : Nat) (t : Thread) : (m.setThr k t).specWin = m.specWin := rfl
@[simp] theorem Mach.setThr_deadWalks (m : Mach) (k : Nat) (t : Thread) : (m.setThr k t).deadWalks = m.deadWalks := rfl
@[simp] theorem Mach.setThr_validWritten (m : Mach) (k : Nat) (t : Thread) : (m.setThr k t).validWritten = m.validWritten := rfl
@[simp] theorem Mach.setThr_shadow (m : Mach) (k : Nat) (t : Thread) : (m.setThr k t).shadow = m.shadow := rfl
@[simp] theorem Mach.setThr_ring (m : Mach) (k : Nat) (t : Thread) : (m.setThr k t).ring = m.ring := rfl
@[simp] theorem Mach.setThr_changed (m : Mach) (k : Nat) (t : Thread) : (m.setThr k t).changed = m.changed := rfl
@[simp] theorem Mach.setThr_recover (m : Mach) (k : Nat) (t : Thread) : (m.setThr k t).recover = m.recover := rfl
@[simp] theorem Mach.setThr_recovering (m : Mach) (k : Nat) (t : Thread) : (m.setThr k t).recovering = m.recovering := rfl
@[simp] theorem Mach.setThr_deadWays (m : Mach) (k : Nat) (t : Thread) : (m.setThr k t).deadWays = m.deadWays := rfl
@[simp] theorem Mach.setThr_sparesUsed (m : Mach) (k : Nat) (t : Thread) : (m.setThr k t).sparesUsed = m.sparesUsed := rfl
@[simp] theorem Mach.setThr_lostBuckets (m : Mach) (k : Nat) (t : Thread) : (m.setThr k t).lostBuckets = m.lostBuckets := rfl
@[simp] theorem Mach.setThr_mirWait (m : Mach) (k : Nat) (t : Thread) : (m.setThr k t).mirWait = m.mirWait := rfl
@[simp] theorem Mach.setThr_lanes (m : Mach) (k : Nat) (t : Thread) : (m.setThr k t).lanes = m.lanes := rfl
@[simp] theorem Mach.setThr_zx (m : Mach) (k : Nat) (t : Thread) : (m.setThr k t).zx = m.zx := rfl
@[simp] theorem Mach.setThr_d2d (m : Mach) (k : Nat) (t : Thread) : (m.setThr k t).d2d = m.d2d := rfl
@[simp] theorem Mach.setThr_slots (m : Mach) (k : Nat) (t : Thread) : (m.setThr k t).slots = m.slots := rfl
@[simp] theorem Mach.setThr_slotWait (m : Mach) (k : Nat) (t : Thread) : (m.setThr k t).slotWait = m.slotWait := rfl
@[simp] theorem Mach.setThr_feeds (m : Mach) (k : Nat) (t : Thread) : (m.setThr k t).feeds = m.feeds := rfl
@[simp] theorem Mach.setThr_busMv (m : Mach) (k : Nat) (t : Thread) : (m.setThr k t).busMv = m.busMv := rfl
@[simp] theorem Mach.setThr_ibTimes (m : Mach) (k : Nat) (t : Thread) : (m.setThr k t).ibTimes = m.ibTimes := rfl
@[simp] theorem Mach.setThr_ibCur (m : Mach) (k : Nat) (t : Thread) : (m.setThr k t).ibCur = m.ibCur := rfl
@[simp] theorem Mach.setThr_ibNew (m : Mach) (k : Nat) (t : Thread) : (m.setThr k t).ibNew = m.ibNew := rfl
@[simp] theorem Mach.setThr_pipes (m : Mach) (k : Nat) (t : Thread) : (m.setThr k t).pipes = m.pipes := rfl
@[simp] theorem Mach.setThr_rp (m : Mach) (k : Nat) (t : Thread) : (m.setThr k t).rp = m.rp := rfl
@[simp] theorem Mach.setThr_tbl (m : Mach) (k : Nat) (t : Thread) : (m.setThr k t).tbl = m.tbl := rfl
@[simp] theorem Mach.setThr_sqs (m : Mach) (k : Nat) (t : Thread) : (m.setThr k t).sqs = m.sqs := rfl
@[simp] theorem Mach.setThr_cqs (m : Mach) (k : Nat) (t : Thread) : (m.setThr k t).cqs = m.cqs := rfl
@[simp] theorem Mach.setThr_qifs (m : Mach) (k : Nat) (t : Thread) : (m.setThr k t).qifs = m.qifs := rfl
@[simp] theorem Mach.setThr_qLastDom (m : Mach) (k : Nat) (t : Thread) : (m.setThr k t).qLastDom = m.qLastDom := rfl
@[simp] theorem Mach.setThr_qLast (m : Mach) (k : Nat) (t : Thread) : (m.setThr k t).qLast = m.qLast := rfl
@[simp] theorem Mach.setThr_cpeLastDom (m : Mach) (k : Nat) (t : Thread) : (m.setThr k t).cpeLastDom = m.cpeLastDom := rfl
@[simp] theorem Mach.setThr_cpeLast (m : Mach) (k : Nat) (t : Thread) : (m.setThr k t).cpeLast = m.cpeLast := rfl
@[simp] theorem Mach.setThr_runLastDom (m : Mach) (k : Nat) (t : Thread) : (m.setThr k t).runLastDom = m.runLastDom := rfl
@[simp] theorem Mach.setThr_cpeRdDom (m : Mach) (k : Nat) (t : Thread) : (m.setThr k t).cpeRdDom = m.cpeRdDom := rfl
@[simp] theorem Mach.setThr_cpeRd (m : Mach) (k : Nat) (t : Thread) : (m.setThr k t).cpeRd = m.cpeRd := rfl
@[simp] theorem Mach.setThr_cpeWrDom (m : Mach) (k : Nat) (t : Thread) : (m.setThr k t).cpeWrDom = m.cpeWrDom := rfl
@[simp] theorem Mach.setThr_cpeWr (m : Mach) (k : Nat) (t : Thread) : (m.setThr k t).cpeWr = m.cpeWr := rfl
@[simp] theorem Mach.setThr_fnTbl (m : Mach) (k : Nat) (t : Thread) : (m.setThr k t).fnTbl = m.fnTbl := rfl
@[simp] theorem Mach.setThr_fnPend (m : Mach) (k : Nat) (t : Thread) : (m.setThr k t).fnPend = m.fnPend := rfl
@[simp] theorem Mach.setThr_chans (m : Mach) (k : Nat) (t : Thread) : (m.setThr k t).chans = m.chans := rfl
@[simp] theorem Mach.setThr_ls (m : Mach) (k : Nat) (t : Thread) : (m.setThr k t).ls = m.ls := rfl
@[simp] theorem Mach.setThr_frozen (m : Mach) (k : Nat) (t : Thread) : (m.setThr k t).frozen = m.frozen := rfl
@[simp] theorem Mach.setThr_seqDom (m : Mach) (k : Nat) (t : Thread) : (m.setThr k t).seqDom = m.seqDom := rfl
@[simp] theorem Mach.setThr_fwDown (m : Mach) (k : Nat) (t : Thread) : (m.setThr k t).fwDown = m.fwDown := rfl
@[simp] theorem Mach.setThr_lockAt (m : Mach) (k : Nat) (t : Thread) : (m.setThr k t).lockAt = m.lockAt := rfl
@[simp] theorem Mach.setThr_hinges (m : Mach) (k : Nat) (t : Thread) : (m.setThr k t).hinges = m.hinges := rfl
@[simp] theorem Mach.setThr_ppsAge (m : Mach) (k : Nat) (t : Thread) : (m.setThr k t).ppsAge = m.ppsAge := rfl
@[simp] theorem Mach.setThr_ppsSeen (m : Mach) (k : Nat) (t : Thread) : (m.setThr k t).ppsSeen = m.ppsSeen := rfl
@[simp] theorem Mach.setThr_ppsLost (m : Mach) (k : Nat) (t : Thread) : (m.setThr k t).ppsLost = m.ppsLost := rfl
@[simp] theorem Mach.setThr_hdm (m : Mach) (k : Nat) (t : Thread) : (m.setThr k t).hdm = m.hdm := rfl
@[simp] theorem Mach.setThr_tfCtr (m : Mach) (k : Nat) (t : Thread) : (m.setThr k t).tfCtr = m.tfCtr := rfl
@[simp] theorem Mach.setThr_vcsRouted (m : Mach) (k : Nat) (t : Thread) : (m.setThr k t).vcsRouted = m.vcsRouted := rfl
@[simp] theorem Mach.setThr_pw (m : Mach) (k : Nat) (t : Thread) : (m.setThr k t).pw = m.pw := rfl
@[simp] theorem Mach.setThr_keepLost (m : Mach) (k : Nat) (t : Thread) : (m.setThr k t).keepLost = m.keepLost := rfl
@[simp] theorem Mach.setThr_ddrBad (m : Mach) (k : Nat) (t : Thread) : (m.setThr k t).ddrBad = m.ddrBad := rfl
@[simp] theorem Mach.setThr_latches (m : Mach) (k : Nat) (t : Thread) : (m.setThr k t).latches = m.latches := rfl
@[simp] theorem Mach.setThr_irqOwed (m : Mach) (k : Nat) (t : Thread) : (m.setThr k t).irqOwed = m.irqOwed := rfl
@[simp] theorem Mach.setThr_shutWr (m : Mach) (k : Nat) (t : Thread) : (m.setThr k t).shutWr = m.shutWr := rfl

@[simp] theorem Mach.free_regs (m : Mach) : (m.free).2.regs = m.regs := rfl
@[simp] theorem Mach.free_pins (m : Mach) : (m.free).2.pins = m.pins := rfl
@[simp] theorem Mach.free_boot (m : Mach) : (m.free).2.boot = m.boot := rfl
@[simp] theorem Mach.free_flash (m : Mach) : (m.free).2.flash = m.flash := rfl
@[simp] theorem Mach.free_fuses (m : Mach) : (m.free).2.fuses = m.fuses := rfl
@[simp] theorem Mach.free_pldm (m : Mach) : (m.free).2.pldm = m.pldm := rfl
@[simp] theorem Mach.free_warnC (m : Mach) : (m.free).2.warnC = m.warnC := rfl
@[simp] theorem Mach.free_ddr (m : Mach) : (m.free).2.ddr = m.ddr := rfl
@[simp] theorem Mach.free_selfRefresh (m : Mach) : (m.free).2.selfRefresh = m.selfRefresh := rfl
@[simp] theorem Mach.free_tb (m : Mach) : (m.free).2.tb = m.tb := rfl
@[simp] theorem Mach.free_doms (m : Mach) : (m.free).2.doms = m.doms := rfl
@[simp] theorem Mach.free_domPort (m : Mach) : (m.free).2.domPort = m.domPort := rfl
@[simp] theorem Mach.free_domFabric (m : Mach) : (m.free).2.domFabric = m.domFabric := rfl
@[simp] theorem Mach.free_epoch (m : Mach) : (m.free).2.epoch = m.epoch := rfl
@[simp] theorem Mach.free_ilv (m : Mach) : (m.free).2.ilv = m.ilv := rfl
@[simp] theorem Mach.free_mir (m : Mach) : (m.free).2.mir = m.mir := rfl
@[simp] theorem Mach.free_changes (m : Mach) : (m.free).2.changes = m.changes := rfl
@[simp] theorem Mach.free_fences (m : Mach) : (m.free).2.fences = m.fences := rfl
@[simp] theorem Mach.free_merging (m : Mach) : (m.free).2.merging = m.merging := rfl
@[simp] theorem Mach.free_out (m : Mach) : (m.free).2.out = m.out := rfl
@[simp] theorem Mach.free_tfPrev (m : Mach) : (m.free).2.tfPrev = m.tfPrev := rfl
@[simp] theorem Mach.free_tfLast (m : Mach) : (m.free).2.tfLast = m.tfLast := rfl
@[simp] theorem Mach.free_coldReq (m : Mach) : (m.free).2.coldReq = m.coldReq := rfl
@[simp] theorem Mach.free_ports (m : Mach) : (m.free).2.ports = m.ports := rfl
@[simp] theorem Mach.free_binds (m : Mach) : (m.free).2.binds = m.binds := rfl
@[simp] theorem Mach.free_vppbs (m : Mach) : (m.free).2.vppbs = m.vppbs := rfl
@[simp] theorem Mach.free_fm (m : Mach) : (m.free).2.fm = m.fm := rfl
@[simp] theorem Mach.free_expOut (m : Mach) : (m.free).2.expOut = m.expOut := rfl
@[simp] theorem Mach.free_expIn (m : Mach) : (m.free).2.expIn = m.expIn := rfl
@[simp] theorem Mach.free_trk (m : Mach) : (m.free).2.trk = m.trk := rfl
@[simp] theorem Mach.free_trkWait (m : Mach) : (m.free).2.trkWait = m.trkWait := rfl
@[simp] theorem Mach.free_trkRr (m : Mach) : (m.free).2.trkRr = m.trkRr := rfl
@[simp] theorem Mach.free_voqs (m : Mach) : (m.free).2.voqs = m.voqs := rfl
@[simp] theorem Mach.free_reseqs (m : Mach) : (m.free).2.reseqs = m.reseqs := rfl
@[simp] theorem Mach.free_classes (m : Mach) : (m.free).2.classes = m.classes := rfl
@[simp] theorem Mach.free_postedSent (m : Mach) : (m.free).2.postedSent = m.postedSent := rfl
@[simp] theorem Mach.free_postedTx (m : Mach) : (m.free).2.postedTx = m.postedTx := rfl
@[simp] theorem Mach.free_egress (m : Mach) : (m.free).2.egress = m.egress := rfl
@[simp] theorem Mach.free_egOcc (m : Mach) : (m.free).2.egOcc = m.egOcc := rfl
@[simp] theorem Mach.free_egDrr (m : Mach) : (m.free).2.egDrr = m.egDrr := rfl
@[simp] theorem Mach.free_linkCr (m : Mach) : (m.free).2.linkCr = m.linkCr := rfl
@[simp] theorem Mach.free_ibuf (m : Mach) : (m.free).2.ibuf = m.ibuf := rfl
@[simp] theorem Mach.free_tags (m : Mach) : (m.free).2.tags = m.tags := rfl
@[simp] theorem Mach.free_planeErr (m : Mach) : (m.free).2.planeErr = m.planeErr := rfl
@[simp] theorem Mach.free_agentDone (m : Mach) : (m.free).2.agentDone = m.agentDone := rfl
@[simp] theorem Mach.free_now (m : Mach) : (m.free).2.now = m.now := rfl
@[simp] theorem Mach.free_lvr (m : Mach) : (m.free).2.lvr = m.lvr := rfl
@[simp] theorem Mach.free_lkpWeight (m : Mach) : (m.free).2.lkpWeight = m.lkpWeight := rfl
@[simp] theorem Mach.free_lkpDef (m : Mach) : (m.free).2.lkpDef = m.lkpDef := rfl
@[simp] theorem Mach.free_lkpLast (m : Mach) : (m.free).2.lkpLast = m.lkpLast := rfl
@[simp] theorem Mach.free_smp (m : Mach) : (m.free).2.smp = m.smp := rfl
@[simp] theorem Mach.free_t1 (m : Mach) : (m.free).2.t1 = m.t1 := rfl
@[simp] theorem Mach.free_t2 (m : Mach) : (m.free).2.t2 = m.t2 := rfl
@[simp] theorem Mach.free_summary (m : Mach) : (m.free).2.summary = m.summary := rfl
@[simp] theorem Mach.free_rebuilding (m : Mach) : (m.free).2.rebuilding = m.rebuilding := rfl
@[simp] theorem Mach.free_lines (m : Mach) : (m.free).2.lines = m.lines := rfl
@[simp] theorem Mach.free_busyWait (m : Mach) : (m.free).2.busyWait = m.busyWait := rfl
@[simp] theorem Mach.free_toEvict (m : Mach) : (m.free).2.toEvict = m.toEvict := rfl
@[simp] theorem Mach.free_quotaWalk (m : Mach) : (m.free).2.quotaWalk = m.quotaWalk := rfl
@[simp] theorem Mach.free_tenures (m : Mach) : (m.free).2.tenures = m.tenures := rfl
@[simp] theorem Mach.free_vc2Rx (m : Mach) : (m.free).2.vc2Rx = m.vc2Rx := rfl
@[simp] theorem Mach.free_birsps (m : Mach) : (m.free).2.birsps = m.birsps := rfl
@[simp] theorem Mach.free_flowCnt (m : Mach) : (m.free).2.flowCnt = m.flowCnt := rfl
@[simp] theorem Mach.free_specWin (m : Mach) : (m.free).2.specWin = m.specWin := rfl
@[simp] theorem Mach.free_deadWalks (m : Mach) : (m.free).2.deadWalks = m.deadWalks := rfl
@[simp] theorem Mach.free_validWritten (m : Mach) : (m.free).2.validWritten = m.validWritten := rfl
@[simp] theorem Mach.free_shadow (m : Mach) : (m.free).2.shadow = m.shadow := rfl
@[simp] theorem Mach.free_ring (m : Mach) : (m.free).2.ring = m.ring := rfl
@[simp] theorem Mach.free_changed (m : Mach) : (m.free).2.changed = m.changed := rfl
@[simp] theorem Mach.free_recover (m : Mach) : (m.free).2.recover = m.recover := rfl
@[simp] theorem Mach.free_recovering (m : Mach) : (m.free).2.recovering = m.recovering := rfl
@[simp] theorem Mach.free_deadWays (m : Mach) : (m.free).2.deadWays = m.deadWays := rfl
@[simp] theorem Mach.free_sparesUsed (m : Mach) : (m.free).2.sparesUsed = m.sparesUsed := rfl
@[simp] theorem Mach.free_lostBuckets (m : Mach) : (m.free).2.lostBuckets = m.lostBuckets := rfl
@[simp] theorem Mach.free_mirWait (m : Mach) : (m.free).2.mirWait = m.mirWait := rfl
@[simp] theorem Mach.free_lanes (m : Mach) : (m.free).2.lanes = m.lanes := rfl
@[simp] theorem Mach.free_zx (m : Mach) : (m.free).2.zx = m.zx := rfl
@[simp] theorem Mach.free_d2d (m : Mach) : (m.free).2.d2d = m.d2d := rfl
@[simp] theorem Mach.free_slots (m : Mach) : (m.free).2.slots = m.slots := rfl
@[simp] theorem Mach.free_slotWait (m : Mach) : (m.free).2.slotWait = m.slotWait := rfl
@[simp] theorem Mach.free_feeds (m : Mach) : (m.free).2.feeds = m.feeds := rfl
@[simp] theorem Mach.free_busMv (m : Mach) : (m.free).2.busMv = m.busMv := rfl
@[simp] theorem Mach.free_ibTimes (m : Mach) : (m.free).2.ibTimes = m.ibTimes := rfl
@[simp] theorem Mach.free_ibCur (m : Mach) : (m.free).2.ibCur = m.ibCur := rfl
@[simp] theorem Mach.free_ibNew (m : Mach) : (m.free).2.ibNew = m.ibNew := rfl
@[simp] theorem Mach.free_pipes (m : Mach) : (m.free).2.pipes = m.pipes := rfl
@[simp] theorem Mach.free_rp (m : Mach) : (m.free).2.rp = m.rp := rfl
@[simp] theorem Mach.free_tbl (m : Mach) : (m.free).2.tbl = m.tbl := rfl
@[simp] theorem Mach.free_sqs (m : Mach) : (m.free).2.sqs = m.sqs := rfl
@[simp] theorem Mach.free_cqs (m : Mach) : (m.free).2.cqs = m.cqs := rfl
@[simp] theorem Mach.free_qifs (m : Mach) : (m.free).2.qifs = m.qifs := rfl
@[simp] theorem Mach.free_qLastDom (m : Mach) : (m.free).2.qLastDom = m.qLastDom := rfl
@[simp] theorem Mach.free_qLast (m : Mach) : (m.free).2.qLast = m.qLast := rfl
@[simp] theorem Mach.free_cpeLastDom (m : Mach) : (m.free).2.cpeLastDom = m.cpeLastDom := rfl
@[simp] theorem Mach.free_cpeLast (m : Mach) : (m.free).2.cpeLast = m.cpeLast := rfl
@[simp] theorem Mach.free_runLastDom (m : Mach) : (m.free).2.runLastDom = m.runLastDom := rfl
@[simp] theorem Mach.free_cpeRdDom (m : Mach) : (m.free).2.cpeRdDom = m.cpeRdDom := rfl
@[simp] theorem Mach.free_cpeRd (m : Mach) : (m.free).2.cpeRd = m.cpeRd := rfl
@[simp] theorem Mach.free_cpeWrDom (m : Mach) : (m.free).2.cpeWrDom = m.cpeWrDom := rfl
@[simp] theorem Mach.free_cpeWr (m : Mach) : (m.free).2.cpeWr = m.cpeWr := rfl
@[simp] theorem Mach.free_fnTbl (m : Mach) : (m.free).2.fnTbl = m.fnTbl := rfl
@[simp] theorem Mach.free_fnPend (m : Mach) : (m.free).2.fnPend = m.fnPend := rfl
@[simp] theorem Mach.free_chans (m : Mach) : (m.free).2.chans = m.chans := rfl
@[simp] theorem Mach.free_threads (m : Mach) : (m.free).2.threads = m.threads := rfl
@[simp] theorem Mach.free_ls (m : Mach) : (m.free).2.ls = m.ls := rfl
@[simp] theorem Mach.free_frozen (m : Mach) : (m.free).2.frozen = m.frozen := rfl
@[simp] theorem Mach.free_seqDom (m : Mach) : (m.free).2.seqDom = m.seqDom := rfl
@[simp] theorem Mach.free_fwDown (m : Mach) : (m.free).2.fwDown = m.fwDown := rfl
@[simp] theorem Mach.free_lockAt (m : Mach) : (m.free).2.lockAt = m.lockAt := rfl
@[simp] theorem Mach.free_hinges (m : Mach) : (m.free).2.hinges = m.hinges := rfl
@[simp] theorem Mach.free_ppsAge (m : Mach) : (m.free).2.ppsAge = m.ppsAge := rfl
@[simp] theorem Mach.free_ppsSeen (m : Mach) : (m.free).2.ppsSeen = m.ppsSeen := rfl
@[simp] theorem Mach.free_ppsLost (m : Mach) : (m.free).2.ppsLost = m.ppsLost := rfl
@[simp] theorem Mach.free_hdm (m : Mach) : (m.free).2.hdm = m.hdm := rfl
@[simp] theorem Mach.free_tfCtr (m : Mach) : (m.free).2.tfCtr = m.tfCtr := rfl
@[simp] theorem Mach.free_vcsRouted (m : Mach) : (m.free).2.vcsRouted = m.vcsRouted := rfl
@[simp] theorem Mach.free_pw (m : Mach) : (m.free).2.pw = m.pw := rfl
@[simp] theorem Mach.free_keepLost (m : Mach) : (m.free).2.keepLost = m.keepLost := rfl
@[simp] theorem Mach.free_ddrBad (m : Mach) : (m.free).2.ddrBad = m.ddrBad := rfl
@[simp] theorem Mach.free_latches (m : Mach) : (m.free).2.latches = m.latches := rfl
@[simp] theorem Mach.free_irqOwed (m : Mach) : (m.free).2.irqOwed = m.irqOwed := rfl
@[simp] theorem Mach.free_shutWr (m : Mach) : (m.free).2.shutWr = m.shutWr := rfl

end Sys2Proof.Machine
end

