-- ==== Sys2Proof/Laws/Briop.lean ====
section
/-! SUPPORT. Sys2Proof/Laws/Briop.lean: what the shared operations of Briop instructions do. -/
namespace Sys2Proof.Machine

/-- A thread that fetches a word carries out its instruction. -/
theorem Mach.instr_fetches (m : Mach) (th w : Nat) (t : Thread) (f : Mach → Thread → Mach) (h : m.fetches th w t) : m.instr th w f = f m t := by
  obtain ⟨h1, h2, h3, h4, h5, h6, h7, h8, h9⟩ := h
  simp [Mach.instr, h1, h2, h3, h4, h5, h6, h7, h8, h9]

/-- The head of a route pipe carries out the word at its PC. -/
theorem Mach.pipeInstr_piped (m : Mach) (p w : Nat) (x : Pipe) (rest : List Pipe) (f : Pipe → Pipe) (h : m.piped p w x rest) :
    m.pipeInstr p w f = { m with pipes := SMap.ins m.pipes p (f x :: rest) } := by
  obtain ⟨h1, h2⟩ := h
  simp [Mach.pipeInstr, h1, h2]

@[simp] theorem Pipe.setReg_pc (x : Pipe) (n : Nat) (v : Word) : (x.setReg n v).pc = x.pc := by unfold Pipe.setReg; split <;> rfl
@[simp] theorem Pipe.setPr_pc (x : Pipe) (n : Nat) (b : Bool) : (x.setPr n b).pc = x.pc := by unfold Pipe.setPr; split <;> rfl

/-- An instruction whose meaning is toReg writes its register. -/
theorem writesReg_of_toReg (i : Who → Instr) (w rd : Nat) (val : (Nat → Word) → Word)
    (h : ∀ who s, exec (i who) s = act (fun m => m.toReg who w rd val) s) : WritesReg i w rd val := by
  refine ⟨fun s th t ht => ?_, fun s p x rest hp => ?_⟩
  · rw [h, act_start]; simp only [Mach.toReg, Mach.instr_fetches _ _ _ _ _ ht]
  · rw [h, act_start]; simp only [Mach.toReg, Mach.pipeInstr_piped _ _ _ _ _ _ hp, Mach.pipeGoes, Pipe.setReg_pc]

/-- An instruction whose meaning is toPred writes its predicate. -/
theorem writesPred_of_toPred (i : Who → Instr) (w pd : Nat) (val : (Nat → Word) → Bool)
    (h : ∀ who s, exec (i who) s = act (fun m => m.toPred who w pd val) s) : WritesPred i w pd val := by
  refine ⟨fun s th t ht => ?_, fun s p x rest hp => ?_⟩
  · rw [h, act_start]; simp only [Mach.toPred, Mach.instr_fetches _ _ _ _ _ ht]
  · rw [h, act_start]; simp only [Mach.toPred, Mach.pipeInstr_piped _ _ _ _ _ _ hp, Mach.pipeGoes, Pipe.setPr_pc]

end Sys2Proof.Machine
end

