-- ==== Sys2Proof/Tests/Slice0.lean ====
section
/-! SUPPORT. Sys2Proof/Tests/Slice0.lean: the model's own tests: ill-formed commands, small steps and the manual's worked examples, and for every
clause of a statement that has hypotheses a state and operands that meet them (witness_<statement>_<clause>). -/
set_option maxRecDepth 20000
set_option linter.unusedVariables false
namespace Sys2Proof.Tests
open Machine

/-! ### States for the tests -/

/-- State.reset with its machine changed. -/
def st (f : Mach → Mach) : State := { State.reset with m := f State.reset.m }
/-- A section whose digest holds. -/
def goodSection : Section := { offset := 4096, size := 64, typ := 1, digestOk := true }
/-- An image whose header and loader verify under the key hash 7 in fuse slot 0. -/
def goodImage : Image := { magicOk := true, hdrVersion := 1, sectionCount := 2, sections := [goodSection, goodSection], keyHash := 7, sigOk := true }
/-- Fuses with the key hash 7 in slot 0. -/
def stKey : State := { State.reset with m := { State.reset.m with fuses := { key0 := 7 } } }
/-- Stage C with the rails' inputs as VCORE_EN waits for. -/
def stRails : State := st fun m => { m.wr WKT_BOOT_STATUS_STAGE 2 with pins := { m.pins with auxResetN := true, thermtripN := true, sysPwrgd := true } }
/-- Stage C with DDR5 powered and the loader up. -/
def stTrain : State := st fun m => { m.wr WKT_BOOT_STATUS_STAGE 2 with pins := { m.pins with vddqPg := true }, boot := { m.boot with loaderUp := true } }
/-- Port 0 as a 16-lane Zitch port in a link state. -/
def zPort (n : Nat) (m : Mach) : Mach :=
  ((((m.wr (TILE_PORTMAP_MAP 0) 5).wr (TILE_PORT_CTRL_ROLE 0) 2).wr (TILE_PORT_CTRL_PROTO 0) 1).wr (TILE_PORT_CTRL_LINK_DIS 0) 0).wr (TILE_ZL_STATUS_STATE 0) n
/-- Port 0 a Zitch port in a link state, its link fields as given. -/
def stZ (n : Nat) (z : Zx) : State := st fun m => (zPort n m).updZ 0 fun _ => z
/-- Port 0 as a 16-lane CXL port of a role, its link up or down. -/
def cPort (role : Nat) (up : Bool) (m : Mach) : Mach :=
  (((m.wr (TILE_PORTMAP_MAP 0) 5).wr (TILE_PORT_CTRL_ROLE 0) role).wr (TILE_PORT_CTRL_LINK_DIS 0) 0).wrB (TILE_PORT_STATUS_LINK_UP 0) up
/-- Port 0 an upstream port, port 16 a downstream port, both links up. -/
def twoPorts (m : Mach) : Mach :=
  (((cPort 1 true m).wr (TILE_PORTMAP_MAP 1) 5).wr (TILE_PORT_CTRL_LINK_DIS 16) 0).wr (TILE_PORT_STATUS_LINK_UP 16) 1
/-- Port 0 a downstream port whose slot is channel 5. -/
def slotPort (m : Mach) : Mach := ((cPort 0 false m).wr (TILE_PORT_SLOT_SLOT_EN 0) 1).wr (TILE_PORT_SLOT_CHANNEL 0) 5
/-- A read of an upstream port's host. -/
def aReq : Req := { src := .port 0, kind := .ncRead, addr := 4096 }
/-- Stage F, port 0 up and in D0, port 16 up. -/
def live (m : Mach) : Mach := { (twoPorts m).wr WKT_BOOT_STATUS_STAGE 3 with domPort := [(0, 0)] }
/-- A tracker entry for a read at port 16. -/
def anEntry : Trk := { req := aReq, dom := 0, gen := 0, epoch := 0, qclass := 0, x := { port := 16, dpa := 4096 }, tc := 1, phase := .wantLookup }
/-- Member 3 of hedgerow 0 is port 0; tracker entry 0 holds its request of a kind for line 64, whose flow is its own. -/
def pvtEntry (kind : ReqKind) : Trk :=
  { anEntry with req := { aReq with kind := kind }, x := { port := 16, dpa := 4096, coh := some 4096 }, phase := .privet }
def pvt (kind : ReqKind) (l : Line) (m : Mach) : Mach :=
  { (live m).wr (PVT_MEMBER_VALID 0 3) 1 with trk := [(0, pvtEntry kind)], lines := [(64, l)] }
/-- An entry of an opcode, of 64 bytes, its body as given. -/
def ent (op : Nat) (body : List Byte) : List Byte := [0, 0, BitVec.ofNat 8 op, 0x82, 0, 0, 0, 0, 0, 0, 0, 0, 0, 0, 0, 0] ++ body
/-- A started entry of index 0. -/
def aRun (op : Nat) (body : List Byte) : Run := { idx := 0, bytes := ent op body, gen := 0, posts := false }
def aSq : Sq := { num := 0, log2 := 12, ring := 0, tailSh := 0, headSh := 0, cq := some 0 }
def aCq : Cq := { num := 0, log2 := 12, ring := 0, headSh := 0, irq := true, coalN := 4, coalT := 1 }
/-- D0 has SQ 0 with a started entry, SQ 1, CQ 0 and CQ 1; D1 is an active host domain of port 0. -/
def que (op : Nat) (body : List Byte) (m : Mach) : Mach :=
  { live m with sqs := [(0, { aSq with run := [aRun op body] }), (1, aSq)], cqs := [(0, aCq), (1, aCq)],
                doms := [(0, { state := .active, kind := .d0 }), (1, { state := .active, kind := .host })], domPort := [(0, 1)] }
/-- A coherent Casement of 4 KiB at address 0. -/
def aCas : Casement :=
  { base := 0, k := 12, r := true, w := true, a := true, spec := true, coh := true, hedge := 0, privOnly := false, ilv := false, mirror := false,
    target := 16, offset := 0, cohBase := 0 }
/-- A whole image of 304 bytes of a function domain with nothing in it, before its trailer and with VALID 0. -/
def imageBody : List Byte :=
  [0x5A, 0x48, 0x4E, 0x47, 1, 0, 0, 5] ++ leBytes 8 304 ++ leBytes 48 0 ++ imgSection 1 1 (leBytes 64 0) ++ imgSection 2 0 [] ++
  imgSection 3 0 [] ++ imgSection 4 0 [] ++ imgSection 5 16 (leBytes 128 0)
def anImage : List Byte := imageBody.take 6 ++ [1] ++ imageBody.drop 7 ++ leBytes 4 1744247330 ++ leBytes 4 0
def bodyPart (i : Nat) : List Byte := (imageBody.drop (64 * i)).take 64
theorem crc_part0 : (bodyPart 0).foldl crcByte (~~~0) = 2181829612#32 := by decide +kernel
theorem crc_part1 : (bodyPart 1).foldl crcByte 2181829612#32 = 2375052248#32 := by decide +kernel
theorem crc_part2 : (bodyPart 2).foldl crcByte 2375052248#32 = 3730044974#32 := by decide +kernel
theorem crc_part3 : (bodyPart 3).foldl crcByte 3730044974#32 = 3984185800#32 := by decide +kernel
theorem crc_part4 : (bodyPart 4).foldl crcByte 3984185800#32 = 2550719965#32 := by decide +kernel
theorem crc_body : crc32c imageBody = 1744247330#32 := by
  rw [show imageBody = bodyPart 0 ++ bodyPart 1 ++ bodyPart 2 ++ bodyPart 3 ++ bodyPart 4 by decide +kernel]
  simp only [crc32c, crc32cFrom, List.foldl_append, crc_part0, crc_part1, crc_part2, crc_part3, crc_part4]
  decide
/-- Its sections. -/
def imageSecs : List ImgSec := (imgCut 5 ((anImage.take 296).drop 64)).getD []
theorem image_checks : imgCheck (anImage.take 512) = .ok imageSecs := by
  have hc : imgCut 5 ((anImage.take 296).drop 64) = some imageSecs := by
    have h : (imgCut 5 ((anImage.take 296).drop 64)).isSome = true := by decide +kernel
    unfold imageSecs; revert h; cases imgCut 5 ((anImage.take 296).drop 64) <;> simp
  have h0 : anImage.take 512 = anImage := by decide +kernel
  have h1 : bget anImage 8 8 = 304 := by decide +kernel
  have h2 : bget anImage 7 1 = 5 := by decide +kernel
  have h3 : (anImage.take 4 != [0x5A, 0x48, 0x4E, 0x47] || bget anImage 4 2 != 1) = false := by decide +kernel
  have h4 : bit (bget anImage 6 1) 0 = true := by decide +kernel
  have h5 : anImage.length = 304 := by decide +kernel
  have h6 : imageSecs.map (fun s => s.typ) = (List.range 5).map (· + 1) := by decide +kernel
  have h7 : (anImage.take 6) ++ [0] ++ ((anImage.take 296).drop 7) = imageBody := by decide +kernel
  have h8 : bget anImage 296 4 = 1744247330 := by decide +kernel
  rw [h0]
  simp only [imgCheck, h1, h2, h3, h4, h5, hc, h6, h7, h8, crc_body]
  rfl
/-- HINGE_RESTORE for host D1 and VF 0, from address 0, 512 bytes. -/
def restoreBody : List Byte := [1, 0, 0, 0, 0, 0, 0, 0, 0, 0, 0, 0, 0, 0, 0, 0, 0, 2]
/-- D0 may read address 0; port 0 of D1 has VF 0. -/
def stRestore : State := st fun m =>
  let m := que 0xA2 restoreBody m
  { m with doms := [(0, { state := .active, kind := .d0, cas := [(0, aCas)] }), (1, { state := .active, kind := .host })],
           boot := { m.boot with policy := { m.boot.policy with vfShare := [(0, 4)] } } }
/-- A copy channel of D0's entry 0 for 64 bytes, one chunk of it, and a state with the channel as number 9. -/
def aChan : CopyChan := { entry := { dom := 0, q := 0, idx := 0 }, sq := 0, gen := 0, len := 64, b := 4096 }
def aChunk : Chunk := { off := 0, len := 64, ports := [], reading := 0 }
def stChan (c : CopyChan) : State := st fun m => { que 0x10 [] m with chans := [(9, c)] }
/-- A thread of D1 at number 64 with a window of 4 KiB at scratch 0, its registers as given; a state in which it meets a word. -/
def aThr (g : SMap Word) : Thread := { manager := false, dom := 1, running := true, win := 4096, g := g }
def thrM (w : Nat) (t : Thread) (m : Mach) : Mach :=
  { live m with doms := [(1, { state := .active, kind := .host })], threads := [(64, t)], ls := [(8, Mem.write [] 0 4 w)] }
def stThr (w : Nat) (g : SMap Word) : State := st (thrM w (aThr g))
/-- A manager thread at number 0 of a stage F switch that meets a word. -/
def mThr (g : SMap Word) : Thread := { manager := true, running := true, win := 1048576, g := g }
def stMgr (w : Nat) (g : SMap Word) : State :=
  st fun m => { live m with doms := [(0, { state := .active, kind := .d0 })], threads := [(0, mThr g)], ls := [(0, Mem.write [] 0 4 w)] }
/-- A request in the route pipe of port 0, its program a word. -/
def aPipe (w : Nat) : Pipe := { req := aReq, dom := none, prog := [BitVec.ofNat 32 w] }
def stPipe (w : Nat) : State := st fun m => { live m with pipes := [(0, [aPipe w])] }
/-- Such a thread of D1, which may read, write and perform atomics at address 0. -/
def fmM (w : Nat) (t : Thread) (m : Mach) : Mach :=
  { thrM w t m with doms := [(1, { state := .active, kind := .host, cas := [(0, aCas)] })] }
/-- A good answer of thread 64's access at address 0. -/
def gotData : AgentDone := { src := .thread 64, addr := 0, rsp := .data 5 false 0, why := .real }
/-- A thread of D1, which has SQ 0. -/
def qposted (m : Mach) : Mach := { thrM 0 (aThr [(2, 32)]) m with sqs := [(64, aSq)] }
/-- The machine once an FM access of thread 64, or 0 bytes at an address, has been refused. -/
def refusedM (s : State) (r : Req) (n : Nat) : Mach :=
  match (s.start.thr 64).bind fun t => s.start.fmCheck 64 t r n with
  | some x => x.2
  | none => {}
/-- A merged error. -/
def aMerge : Merging := { e := { cls := .corrected, block := 5, code := 1 }, time := 0, gen := 0, count := 2 }
/-- Stage F of TF-256 mode with four personalities. -/
def stTf : State := { st live with latch := { latched := true, tf := true, personalities := 4 } }
/-- Likewise: port 0 heads VCS 0 of personality 0, whose domain is D1, and port 16 is bound to its vPPB 1. -/
def stTfHost : State :=
  { stTf with m := { stTf.m with doms := [(1, { state := .active, kind := .host })], domPort := [(0, 1)], binds := [(256, { up := 0, vppb := 1 })] } }
/-- Thread 64 meets any instruction word, its registers as given. -/
theorem fetches_any (w : Nat) (g : SMap Word) (h : w < 2 ^ 32) : (stThr w g).start.fetches 64 w (aThr g) := by
  refine ⟨rfl, rfl, rfl, rfl, rfl, rfl, ?_, rfl, ?_⟩
  · show 0 + 4 ≤ 4096; omega
  · show Mem.read (Mem.write [] 0 4 w) 0 4 = w
    rw [Mem.read_write_same]; omega
/-- The route program of port 0 meets any instruction word. -/
theorem piped_any (w : Nat) (h : w < 2 ^ 32) : (stPipe w).start.piped 0 w (aPipe w) [] := by
  refine ⟨rfl, ?_⟩
  show some (BitVec.ofNat 32 w).toNat = some w
  rw [BitVec.toNat_ofNat]; congr 1; omega

/-! ### Ill-formed commands -/

theorem test_wf_section : (Instr.sectionLoaded 64).wf = false := by decide
theorem test_wf_cause : (Instr.disorderlyCoreReset 256).wf = false := by decide
theorem test_wf_fatal : (Instr.deviceFatalError 16 0).wf = false ∧ (Instr.deviceFatalError 0 16).wf = false := by decide
theorem test_wf_thermal : (Instr.thermalSample []).wf = false := by decide
theorem test_wf_checker : (Instr.chkSyncLoss 0 5 6).wf = false := by decide
theorem test_wf_tracker_key :
    ([.readShared 131072, .readForOwnership 131072, .upgrade 131072, .nonCachingRead 131072, .cleanEvict 131072, .nonCachingWrite 131072,
      .writeBack 131072, .biconflict 131072, .memSpecRd 131072, .protocol 131072, .memoryReadData 131072, .memoryWriteComplete 131072,
      .atomicOp 131072, .mirrorRepair 131072, .completionTimeout 131072, .latePeriodEnd 131072] : List Instr).any Instr.wf = false := by decide
theorem test_wf_line_address :
    ([.birsp 0 0 0 (2 ^ 64) false, .ownerWritebackWaitEnd 0 (2 ^ 64), .tenureEnd 0 (2 ^ 64) 0, .lineFlowEnd 0 (2 ^ 64), .tier1Allocation 0 (2 ^ 64),
      .evictionFlow 0 (2 ^ 64), .snoopTimeout 0 (2 ^ 64) 0, .snoopResend 0 (2 ^ 64) 0, .atomicHoldEnd 0 (2 ^ 64)] : List Instr).any Instr.wf = false := by
  decide
theorem test_wf_csr : ([.csrrd 0 1 2 2, .csrwr 0 1 2 2 {}, .csrset 0 1 2 2 {}] : List Instr).any Instr.wf = false := by decide
theorem test_wf_function : (Instr.domFnClr 5119 0).wf = false := by decide
theorem test_wf_eeprom : (Instr.eepromInterfaceWrite 0 32767 [1, 2] true []).wf = false := by decide
theorem test_wf_fwa : (Instr.firmwareAssistedAccess 0 .sensor 401).wf = false := by decide
theorem test_wf_size_error : (Instr.accessSizeError .mctp 8 8 true).wf = false ∧ (Instr.accessSizeError .mctp 4 4 false).wf = false := by decide
theorem test_wf_long_write : (Instr.longWriteTlp 0 0 [0, 0] true {}).wf = false := by decide
theorem test_wf_mctp_read : (Instr.mctpRegisterRead 2 4 0 0).wf = false := by decide
theorem test_wf_vf_count : (Instr.vfEnable 0 4096).wf = false := by decide

/-! ### Words and the queue -/

/-- The table gives no row bits, so no word spells a command. -/
theorem test_no_word : decodeTableWord 32 0x12345678 = none ∧ State.reset.withFetchWord 8 0 = State.reset := ⟨rfl, rfl⟩

/-- The first command in the queue runs first. -/
theorem test_first_in_first_out : (match step { State.reset with pending := [.auxGood, .vauxPowerOn] } with
    | .next t => t.pending = [.vauxPowerOn] ∧ t.m.boot.auxGood = true | _ => False) := ⟨rfl, rfl⟩

/-! ### Worked examples of the manual -/

/-- 23_register_map.md, "a lane event reaches software": lane 401's window, its LANE_EVENT, its GLB_LANE_PEND dword, TILE_ZL_STATUS of port 400. -/
theorem test_lane_event_addresses :
    LANE_EVENT 401 = 0x20C8808 ∧ GLB_LANE_PEND 12 = 0x230 ∧ TILE_ZL_STATUS 400 = 0x1194004 := by decide

/-- The same example: LOL of lane 401 is summary bit 9, which passes the mask with bit 9 clear. -/
theorem test_lane_event_summary : (((({} : Mach).raise (LANE_EVENT_LOL 401)).wr GLB_IRQ_MASK_MASK 0x5FF).irqOn) = 0x200 := by decide

/-- R332's example: H5's read at 0x1000_0A5B_3CC0 goes to member 3, port 428, at DPA 0x14B_6CC0, coherence address 0x0A5B_3CC0. -/
def exampleSet : Mach :=
  { ilv := [(0, { ways := 3, gran := 4, members := [(0, { port := 416 }), (1, { port := 420 }), (2, { port := 424 }), (3, { port := 428 }),
                                                     (4, { port := 432 }), (5, { port := 436 }), (6, { port := 440 }), (7, { port := 444 })] })] }
def exampleCas : Casement := { aCas with base := 0x100000000000, k := 42, ilv := true, target := 0 }
theorem test_interleave_example :
    ((exampleSet.translate exampleCas 0x10000A5B3CC0).port, (exampleSet.translate exampleCas 0x10000A5B3CC0).dpa,
     (exampleSet.translate exampleCas 0x10000A5B3CC0).coh) = (428, 0x14B6CC0, some 0xA5B3CC0) := by decide

/-- 22_tf256_mode.md, "one decoder of one personality": the read at 0x10_9000_0040 reaches DPA 0x5000_0040 of port 360. -/
theorem test_decoder_example :
    ((({} : Mach).translate { aCas with base := 0x1080000000, k := 31, coh := false, offset := 0x40000000, target := 360 } 0x1090000040).port,
     (({} : Mach).translate { aCas with base := 0x1080000000, k := 31, coh := false, offset := 0x40000000, target := 360 } 0x1090000040).dpa) =
      (360, 0x50000040) := by decide

/-- 06_cxl_ports.md, a mix of x8 + x4 + x4: nibble 0 = 4, nibbles 8 and 12 = 3 gives ports 16t, 16t + 8, 16t + 12 alone. -/
theorem test_port_map_example :
    ((List.range 16).filter fun p => (({} : Mach).wr (TILE_PORTMAP_MAP 0) 0x3000300000004).portExists p) = [0, 8, 12] := by decide

/-! ### Instructions -/

/-- A register and the PC of thread 64 after an instruction. -/
def after (i : Instr) (s : State) (r : Nat) : Option (Word × Nat) :=
  match exec i s with
  | .next t => (t.m.thr 64).map fun x => (x.reg r, x.pc)
  | _ => none

/-- R479, R485: an immediate is sign-extended; SUB wraps; SAR keeps the sign and takes six bits of its count. -/
theorem test_addi_sign : after (.addi (.thread 64) 1 0 0xFFFF) (stThr (encI 0x01 1 0 0xFFFF) []) 1 = some (0xFFFFFFFFFFFFFFFF, 4) := by decide +kernel
theorem test_sub_wraps : after (.opSub (.thread 64) 1 0 2) (stThr (encA 0x01 1 0 2) [(2, 1)]) 1 = some (0xFFFFFFFFFFFFFFFF, 4) := by decide +kernel
theorem test_sar_count : after (.sar (.thread 64) 1 2 3) (stThr (encA 0x07 1 2 3) [(2, 0x8000000000000000), (3, 65)]) 1 = some (0xC000000000000000, 4) := by
  decide +kernel
/-- R449: a write of G0 has no effect. -/
theorem test_g0 : after (.addi (.thread 64) 0 0 5) (stThr (encI 0x01 0 0 5) []) 0 = some (0, 4) := by decide +kernel
/-- R491: a taken branch backwards. -/
theorem test_jal_link : after (.jal 64 31 8) (stThr (0x19 * 2 ^ 26 + 31 * 2 ^ 21 + 8) []) 31 = some (4, 32) := by decide +kernel

/-! ### Witnesses -/

theorem witness_StepRunsTheFrontCommand_1 : ∃ (s : State) (c : Instr) (rest : List Instr), s.pending = c :: rest := ⟨{ State.reset with pending := [.auxGood, .vauxPowerOn] }, _, _, rfl⟩

theorem witness_EmptyQueueStepIsATimebaseCycle_1 : ∃ s : State, s.pending = [] ∧ s.m.boot.pllLock = true := ⟨st fun m => { m with boot := { m.boot with pllLock := true }, tb := 2 ^ 96 - 1 }, rfl, rfl⟩

theorem witness_EmptyQueueStepIsATimebaseCycle_2 : ∃ s : State, s.pending = [] ∧ s.m.boot.pllLock = false := ⟨State.reset, rfl, rfl⟩

theorem witness_ExecLeavesTheQueue_1 : ∃ (c : Instr) (s t : State), exec c s = .next t := ⟨.auxGood, { State.reset with pending := [.vauxPowerOn] }, _, rfl⟩

theorem witness_SupplyAndPinCommandsComplete_5 : ∃ (s : State), (s.start.boot.auxGood = false) :=
  ⟨State.reset, by decide⟩

theorem witness_SupplyAndPinCommandsComplete_7 : ∃ (s : State), (s.latch.tf = true) :=
  ⟨{ State.reset with latch := { latched := true, tf := true, personalities := 1 } }, by decide⟩

theorem witness_SupplyAndPinCommandsComplete_8 : ∃ (s : State), (s.latch.tf = false) :=
  ⟨State.reset, by decide⟩

theorem witness_StagedStartCommandsComplete_1 : ∃ (s : State), (s.start.boot.auxGood = true) ∧ (s.start.rd WKT_BOOT_STATUS_STAGE = 0) ∧ (s.start.boot.trying = none) ∧ (s.start.boot.booted = none) ∧ (s.start.bad s.start.firstSlot = false) :=
  ⟨st fun m => { m with boot := { m.boot with auxGood := true } }, by decide⟩

theorem witness_StagedStartCommandsComplete_2 : ∃ (s : State) (slot : Bool), (s.start.boot.trying = some slot) ∧ ((s.start.flash.slot slot).verifies s.start.fuses = true) ∧ (s.latch.latched = false) :=
  ⟨{ stKey with m := { stKey.m with boot := { stKey.m.boot with trying := some false }, flash := { slotA := goodImage } } }, false, by decide⟩

theorem witness_StagedStartCommandsComplete_3 : ∃ (s : State), (s.start.rd WKT_BOOT_STATUS_STAGE = 1) ∧ (s.start.pins.sysPwrgd = false) :=
  ⟨st fun m => m.wr WKT_BOOT_STATUS_STAGE 1, by decide⟩

theorem witness_StagedStartCommandsComplete_4 : ∃ (s : State), (s.start.rd WKT_BOOT_STATUS_STAGE = 1) :=
  ⟨st fun m => m.wr WKT_BOOT_STATUS_STAGE 1, by decide⟩

theorem witness_StagedStartCommandsComplete_5 : ∃ (s : State), (s.start.boot.mgLink = .detect) :=
  ⟨st fun m => { m with boot := { m.boot with mgLink := .detect } }, by decide⟩

theorem witness_StagedStartCommandsComplete_6 : ∃ (s : State) (r : Rail), (s.start.mayAssert r = true) :=
  ⟨stRails, .vcore, by decide⟩

theorem witness_StagedStartCommandsComplete_8 : ∃ (s : State) (r : Rail), (s.start.rd WKT_BOOT_STATUS_STAGE = 2) ∧ (s.start.pins.en r = true) ∧ (s.start.pins.pg r = false) :=
  ⟨st (fun m => { m.wr WKT_BOOT_STATUS_STAGE 2 with pins := { m.pins with vddqEn := true } }), .vddq, by decide⟩

theorem witness_StagedStartCommandsComplete_9 : ∃ (s : State) (r : Rail), (s.start.pins.en r = true) ∧ (r ≠ .vddq) :=
  ⟨st (fun m => { m with pins := { m.pins with vcoreEn := true } }), .vcore, by decide⟩

theorem witness_StagedStartCommandsComplete_10 : ∃ (s : State), (s.start.pins.vddqEn = true) :=
  ⟨st fun m => { m with pins := { m.pins with vddqEn := true } }, by decide⟩

theorem witness_StagedStartCommandsComplete_11 : ∃ (s : State), (s.start.pins.vcoreEn = true) :=
  ⟨st fun m => { m with pins := { m.pins with vcoreEn := true } }, by decide⟩

theorem witness_StagedStartCommandsComplete_12 : ∃ (s : State), (s.start.starting = true) ∧ (s.start.pins.vcoreEn = true) ∧ (s.start.pins.vcorePg = true) :=
  ⟨st fun m => { m.wr WKT_BOOT_STATUS_STAGE 2 with pins := { m.pins with vcoreEn := true, vcorePg := true } }, by decide⟩

theorem witness_StagedStartCommandsComplete_13 : ∃ (s : State), (s.start.rd WKT_BOOT_STATUS_STAGE = 2) ∧ (s.start.boot.pllLock = true) ∧ (s.start.boot.loaderUp = false) :=
  ⟨st fun m => { m.wr WKT_BOOT_STATUS_STAGE 2 with boot := { m.boot with pllLock := true } }, by decide⟩

theorem witness_StagedStartCommandsComplete_14 : ∃ (s : State) (sec : Section), (s.start.rd WKT_BOOT_STATUS_STAGE = 2) ∧ (s.start.boot.loaderUp = true) ∧ (s.start.boot.loaded < s.start.bootImage.sectionCount) ∧ (s.start.bootImage.sections[s.start.boot.loaded]? = some sec) ∧ (sec.digestOk = true) :=
  ⟨st (fun m => { m.wr WKT_BOOT_STATUS_STAGE 2 with boot := { m.boot with loaderUp := true, loaded := 1 }, flash := { m.flash with slotA := goodImage } }), goodSection, by decide⟩

theorem witness_StagedStartCommandsComplete_15 : ∃ (s : State) (ch : Fin 8) (id : DimmId) (mo : Bool), (s.start.starting = true) ∧ (s.start.pins.vddqPg = true) ∧ (s.start.boot.loaderUp = true) ∧ (bit s.start.boot.trained ch = false) ∧ (bit s.start.boot.disabled ch = false) ∧ ((s.start.cacheServes ch id && mo) = false) :=
  ⟨stTrain, 3, ⟨1, 1, 1, 1⟩, false, by decide⟩

theorem witness_StagedStartCommandsComplete_16 : ∃ (s : State) (mems : List (Nat × QMem)), (s.start.rd WKT_PWR_STATUS_STATE = 5) ∧ (s.start.boot.pllLock = true) ∧ (s.start.pins.vlanePg = true) ∧ (s.latch.tf = false) ∧ ((s.start.boot.trained ||| s.start.boot.disabled) &&& 0xFF = 0xFF) :=
  ⟨st (fun m => { m.wr WKT_PWR_STATUS_STATE 5 with boot := { m.boot with pllLock := true, trained := 0xFF }, pins := { m.pins with vlanePg := true } }), [], by decide⟩

theorem witness_StagedStartCommandsComplete_17 : ∃ (s : State) (mems : List (Nat × QMem)), (s.start.rd WKT_PWR_STATUS_STATE = 0) ∧ (s.start.rd WKT_BOOT_STATUS_STAGE = 2) ∧ (s.start.boot.loaderUp = true) ∧ (s.start.boot.loaded = s.start.bootImage.sectionCount) ∧ (s.latch.tf = false) ∧ ((s.start.boot.trained ||| s.start.boot.disabled) &&& 0xFF = 0xFF) ∧ (s.start.pins.vlanePg = true) ∧ (s.start.boot.importTf = false) :=
  ⟨st (fun m => { m.wr WKT_BOOT_STATUS_STAGE 2 with boot := { m.boot with loaderUp := true, loaded := 2, trained := 0xFF }, pins := { m.pins with vlanePg := true }, flash := { m.flash with slotA := goodImage } }), [], by decide⟩

theorem witness_StagedStartCommandsComplete_18 : ∃ (s : State), (s.start.rd WKT_BOOT_STATUS_STAGE = 2) :=
  ⟨st fun m => m.wr WKT_BOOT_STATUS_STAGE 2, by decide⟩

theorem witness_StagedStartCommandsComplete_19 : ∃ (s : State) (p : Port) (tag : Nat), (s.start.starting = true) ∧ (s.start.rd (TILE_PORT_CTRL_ROLE p) = 1) :=
  ⟨st (fun m => (m.wr WKT_BOOT_STATUS_STAGE 2).wr (TILE_PORT_CTRL_ROLE 16) 1), 16, 0, by decide⟩

theorem witness_StagedStartCommandsComplete_20 : ∃ (s : State), (s.start.boot.dropVlane = true) ∧ (s.start.rd WKT_PWR_STATUS_STATE = 0) :=
  ⟨st fun m => { m with boot := { m.boot with dropVlane := true } }, by decide⟩

theorem witness_ResetCommandsComplete_1 : ∃ (s : State), (s.start.rd WKT_PWR_STATUS_STATE = 0) ∧ (s.start.rd WKT_BOOT_STATUS_STAGE = 3) ∧ (s.start.boot.orderly = none) :=
  ⟨st fun m => m.wr WKT_BOOT_STATUS_STAGE 3, by decide⟩

theorem witness_ResetCommandsComplete_2 : ∃ (s : State), (s.start.rd WKT_BOOT_STATUS_STAGE = 2) :=
  ⟨st fun m => m.wr WKT_BOOT_STATUS_STAGE 2, by decide⟩

theorem witness_ResetCommandsComplete_3 : ∃ (s : State), (s.start.boot.orderly.isSome = true) ∧ (s.start.boot.drained = false) :=
  ⟨st fun m => { m with boot := { m.boot with orderly := some 5 } }, by decide⟩

theorem witness_ResetCommandsComplete_4 : ∃ (s : State) (cause : Nat), (s.start.boot.orderly = some cause) ∧ (s.start.trackerEmpty = true) ∧ (s.start.spillTier1.tier1Out = true) :=
  ⟨st (fun m => { m with boot := { m.boot with orderly := some 5 } }), 5, by decide⟩

theorem witness_ResetCommandsComplete_5 : ∃ (s : State), (s.start.boot.orderly.isSome = true) ∧ (s.start.takesCore = true) :=
  ⟨st fun m => { m.wr WKT_BOOT_STATUS_STAGE 3 with boot := { m.boot with orderly := some 5 } }, by decide⟩

theorem witness_ResetCommandsComplete_6 : ∃ (s : State) (cause : Nat), (s.start.takesCore = true) :=
  ⟨st (fun m => m.wr WKT_BOOT_STATUS_STAGE 2), 8, by decide⟩

theorem witness_ResetCommandsComplete_7 : ∃ (s : State), (s.start.rd WKT_BOOT_STATUS_STAGE = 3) ∧ (s.start.boot.orderly = none) :=
  ⟨st fun m => m.wr WKT_BOOT_STATUS_STAGE 3, by decide⟩

theorem witness_ResetCommandsComplete_8 : ∃ (s : State), (s.start.takesCore = true) :=
  ⟨st fun m => m.wr WKT_BOOT_STATUS_STAGE 3, by decide⟩

theorem witness_ResetCommandsComplete_9 : ∃ (s : State) (n : Tile), (s.start.rd WKT_BOOT_STATUS_STAGE = 3) ∧ (s.start.boot.orderly = none) ∧ (s.start.rd WKT_PWR_STATUS_STATE < 3) :=
  ⟨st (fun m => m.wr WKT_BOOT_STATUS_STAGE 3), 5, by decide⟩

theorem witness_ResetCommandsComplete_10 : ∃ (s : State) (temps : List Byte), (∀ x ∈ temps.take 40, x.toInt ≤ s.start.warnAt) :=
  ⟨State.reset, [], by decide⟩

theorem witness_ResetCommandsComplete_11 : ∃ (s : State) (temps : List Byte), (∃ x ∈ temps.take 40, s.start.warnAt < x.toInt) :=
  ⟨{ State.reset with m := { State.reset.m with warnC := 50 } }, [60], ⟨60, by decide, by show min 50 (Config.maxJunction : Int) < 60; omega⟩⟩

theorem witness_ResetCommandsComplete_12 : ∃ (s : State) (k : Fin 40), ((s.start.wr (WKT_THERM_SENSOR_TEMP k) 125).takesCore = true) :=
  ⟨st (fun m => m.wr WKT_BOOT_STATUS_STAGE 3), 0, by decide⟩

theorem witness_FirmwareUpdateCommandsComplete_3 : ∃ (s : State), (s.start.pldm.st = .idle) :=
  ⟨State.reset, by decide⟩

theorem witness_FirmwareUpdateCommandsComplete_4 : ∃ (s : State) (comps : List Nat), (s.start.pldm.st = .learnComponents) ∧ (comps.all (fun c => c = 1 ∨ c = 2) = true) :=
  ⟨st (fun m => { m with pldm := { st := .learnComponents } }), [1, 2], by decide⟩

theorem witness_FirmwareUpdateCommandsComplete_5 : ∃ (s : State) (comp size : Nat) (im : Image) (pol : Policy), (s.start.pldm.st = .readyXfer) ∧ (comp ∈ s.start.pldm.table) ∧ ((comp = 1 → size ≤ 32 * 2 ^ 20)) ∧ ((comp = 2 → size ≤ 32 * 2 ^ 10)) :=
  ⟨st (fun m => { m with pldm := { st := .readyXfer, table := [1] } }), 1, 33554432, {}, {}, by decide⟩

theorem witness_FirmwareUpdateCommandsComplete_6 : ∃ (s : State), (s.start.pldm.st = .download) ∧ (s.start.pldm.got < s.start.pldm.size) ∧ (s.start.pldm.comp = 2) :=
  ⟨st (fun m => { m with pldm := { st := .download, comp := 2, size := 1 } }), by decide⟩

theorem witness_FirmwareUpdateCommandsComplete_7 : ∃ (s : State), (s.start.pldm.st = .download) ∧ (s.start.pldm.got < s.start.pldm.size) ∧ (s.start.pldm.comp = 1) ∧ (s.start.boot.booted = some false) :=
  ⟨st (fun m => { m with pldm := { st := .download, comp := 1, size := 4097, got := 4096 }, boot := { m.boot with booted := some false } }), by decide⟩

theorem witness_FirmwareUpdateCommandsComplete_8 : ∃ (s : State), (s.start.pldm.st = .download) ∧ (s.start.pldm.size ≤ s.start.pldm.got) ∧ (s.start.pldm.comp = 1) ∧ (s.start.boot.booted = some true) :=
  ⟨st (fun m => { m with pldm := { st := .download, comp := 1, size := 1, got := 4096 }, boot := { m.boot with booted := some true } }), by decide⟩

theorem witness_FirmwareUpdateCommandsComplete_9 : ∃ (s : State) (ok : Bool), (s.start.pldm.st = .verify) ∧ (s.start.pldm.comp = 1) ∧ (ok = ((s.start.flash.slot s.start.otherSlot).verifies s.start.fuses && ((s.start.flash.slot s.start.otherSlot).sections.take (s.start.flash.slot s.start.otherSlot).sectionCount).all (·.digestOk))) :=
  ⟨st (fun m => { m with pldm := { st := .verify, comp := 1 } }), false, by decide⟩

theorem witness_FirmwareUpdateCommandsComplete_10 : ∃ (s : State), (s.start.pldm.st = .apply) ∧ (s.start.pldm.verified = true) :=
  ⟨st (fun m => { m with pldm := { st := .apply, verified := true } }), by decide⟩

theorem witness_FirmwareUpdateCommandsComplete_11 : ∃ (s : State), (s.start.pldm.readyImage = true) ∧ (s.start.pldm.readyPolicy = false) :=
  ⟨st (fun m => { m with pldm := { readyImage := true } }), by decide⟩

theorem witness_FirmwareUpdateCommandsComplete_12 : ∃ (s : State), (s.start.pldm.readyImage = false) ∧ (s.start.pldm.readyPolicy = true) :=
  ⟨st (fun m => { m with pldm := { readyPolicy := true } }), by decide⟩

theorem witness_FirmwareUpdateCommandsComplete_14 : ∃ (s : State), (s.start.pldm.st = .download ∨ s.start.pldm.st = .verify ∨ s.start.pldm.st = .apply) :=
  ⟨st (fun m => { m with pldm := { st := .verify } }), by decide⟩

theorem witness_FirmwareUpdateCommandsComplete_15 : ∃ (s : State), (s.start.pldm.st ≠ .idle) :=
  ⟨st (fun m => { m with pldm := { st := .apply } }), by decide⟩

theorem witness_LaneCommandsComplete_1 : ∃ (s : State) (l : Lane), (s.start.pins.vlanePg = true) :=
  ⟨st (fun m => { m with pins := { m.pins with vlanePg := true } }), 0, by decide⟩

theorem witness_LaneCommandsComplete_2 : ∃ (s : State) (l : Lane) (rate : Fin 7) (pll cdr adapt : Bool), (rate.val ≤ s.start.rd (LANE_CTRL_MAX_RATE l)) ∧ (s.start.flag (LANE_TEST_CTRL_TEST_OWN l) = false) :=
  ⟨State.reset, 0, 3, true, true, true, by decide⟩

theorem witness_LaneCommandsComplete_4 : ∃ (s : State) (l : Lane), (s.start.flag (LANE_STATUS_LOS l) = false) :=
  ⟨st (fun m => m.wr (LANE_STATUS_LOS 0) 0), 0, by decide⟩

theorem witness_LaneCommandsComplete_5 : ∃ (s : State) (l : Lane), (s.start.flag (LANE_STATUS_LOS l) = false) :=
  ⟨st (fun m => m.wr (LANE_STATUS_LOS 0) 0), 0, by decide⟩

theorem witness_LaneCommandsComplete_6 : ∃ (s : State) (l : Lane), (s.start.flag (LANE_STATUS_LOS l) = true) :=
  ⟨st (fun m => m.wr (LANE_STATUS_LOS 7) 1), 7, by decide⟩

theorem witness_LaneCommandsComplete_7 : ∃ (s : State) (l : Lane), (s.start.flag (LANE_STATUS_LOS l) = false) ∧ (s.start.flag (LANE_STATUS_CDR_LOCK l) = false) :=
  ⟨st (fun m => m.wr (LANE_STATUS_LOS 0) 0), 0, by decide⟩

theorem witness_LaneCommandsComplete_8 : ∃ (s : State) (l : Lane) (v : BitVec 32), (s.start.gated (l / 16) = false) ∧ (bit v.toNat 31 = true) ∧ (txeqValid v.toNat (s.start.rd (LANE_STATUS_RATE l)) = true) :=
  ⟨State.reset, 0, 0x80010000, by decide⟩

theorem witness_LaneCommandsComplete_9 : ∃ (s : State) (l : Lane) (v : BitVec 32), (s.start.gated (l / 16) = false) ∧ (bit v.toNat 31 = false) :=
  ⟨State.reset, 0, 0, by decide⟩

theorem witness_LaneCommandsComplete_10 : ∃ (s : State) (l : Lane) (v : BitVec 32), (s.start.flag (LANE_TXEQ_SW_OWN l) = false) ∧ (txeqValid v.toNat (s.start.rd (LANE_STATUS_RATE l)) = true) :=
  ⟨State.reset, 0, 0x10000, by decide⟩

theorem witness_LaneCommandsComplete_11 : ∃ (s : State) (l : Lane) (v : BitVec 32), (s.start.flag (LANE_TXEQ_SW_OWN l) = true) :=
  ⟨st (fun m => m.wr (LANE_TXEQ_SW_OWN 3) 1), 3, 0, by decide⟩

theorem witness_LaneCommandsComplete_12 : ∃ (s : State) (l : Lane) (v : BitVec 32), (s.start.gated (l / 16) = false) ∧ (v.toNat % 4 = 2) :=
  ⟨State.reset, 0, 2, by decide⟩

theorem witness_LaneCommandsComplete_13 : ∃ (s : State) (l : Lane) (v : BitVec 32), (s.start.gated (l / 16) = false) ∧ (bit v.toNat 0 = true) ∧ (s.start.mayTest l = false) :=
  ⟨st (fun m => (m.wr (TILE_PORTMAP_MAP 0) 5).wr (TILE_PORT_CTRL_LINK_DIS 0) 0), 0, 1, by decide⟩

theorem witness_LaneCommandsComplete_14 : ∃ (s : State) (l : Lane) (v : BitVec 32), (s.start.gated (l / 16) = false) ∧ (bit v.toNat 0 = false) ∧ (bit v.toNat 14 = false) ∧ (s.start.flag (LANE_TEST_CTRL_TEST_OWN l) = false) :=
  ⟨State.reset, 0, 0, by decide⟩

theorem witness_LaneCommandsComplete_15 : ∃ (s : State) (l : Lane) (v : BitVec 32), (s.start.gated (l / 16) = false) ∧ (bit v.toNat 0 = true) ∧ (s.start.mayTest l = true) ∧ (patternOk (v.toNat / 16 % 16) (v.toNat / 2 % 8) = true) ∧ (patternOk (v.toNat / 256 % 16) (v.toNat / 2 % 8) = true) ∧ (bit v.toNat 14 = false) :=
  ⟨State.reset, 0, 0x77D, by decide⟩

theorem witness_LaneCommandsComplete_16 : ∃ (s : State) (l : Lane), (s.start.gated (l / 16) = false) :=
  ⟨State.reset, 0, by decide⟩

theorem witness_LaneCommandsComplete_17 : ∃ (s : State) (l : Lane) (inv : Bool), ((s.start.lx l).chk = true) :=
  ⟨st (fun m => m.updLx 0 fun x => { x with chk := true }), 0, false, by decide⟩

theorem witness_LaneCommandsComplete_18 : ∃ (s : State) (l : Lane) (bits errs : Nat), (s.start.flag (LANE_TEST_STATUS_CHK_LOCK l) = true) :=
  ⟨st (fun m => m.wr (LANE_TEST_STATUS_CHK_LOCK 0) 1), 0, 100, 50, by decide⟩

theorem witness_LaneCommandsComplete_19 : ∃ (s : State) (l : Lane), ((s.start.updLx l fun x => { x with flip := 0 }).injects l = true) :=
  ⟨st (fun m => m.updLx 0 fun x => { x with gen := true, flip := 3 }), 0, by decide⟩

theorem witness_LaneCommandsComplete_20 : ∃ (s : State) (l : Lane) (v : BitVec 32), (s.start.gated (l / 16) = false) ∧ (v.toNat % 4 = 1) ∧ (bit v.toNat 16 = true) ∧ ((((s.start.setReg (LANE_INJ_CTRL_MODE l).off (putField (s.start.reg (LANE_INJ_CTRL_MODE l).off) 0 16 v.toNat)).wrB (LANE_INJ_CTRL_TARGET l) (bit v.toNat 17)).lx l).flip = 0) :=
  ⟨State.reset, 0, 0x10001, by decide⟩

theorem witness_LaneCommandsComplete_21 : ∃ (s : State) (l : Lane) (v : BitVec 32), (s.start.gated (l / 16) = false) ∧ (v.toNat % 4 = 0) :=
  ⟨State.reset, 0, 0, by decide⟩

theorem witness_LaneCommandsComplete_22 : ∃ (s : State) (l : Lane), (s.start.flag (LANE_TEST_CTRL_TEST_OWN l) = true) ∧ (s.start.rd (LANE_TEST_CTRL_LOOPBACK l) = 3) :=
  ⟨st (fun m => (m.wr (LANE_TEST_CTRL_TEST_OWN 0) 1).wr (LANE_TEST_CTRL_LOOPBACK 0) 3), 0, by decide⟩

theorem witness_ZitchLinkStateCommandsComplete_1 : ∃ (s : State) (p : Port), (s.start.gated (p / 16) = false) ∧ (s.start.isZitch p = true) ∧ (s.start.zState p = zDisabled) ∧ ((s.start.wr (TILE_ZL_CTRL_LINK_DIS p) 0).zState p = zDisabled) ∧ ((s.start.wr (TILE_ZL_CTRL_LINK_DIS p) 0).linkDis p = false) :=
  ⟨stZ 0 {}, 0, by decide⟩

theorem witness_ZitchLinkStateCommandsComplete_2 : ∃ (s : State) (p : Port), (s.start.gated (p / 16) = false) ∧ (s.start.isZitch p = true) ∧ ((s.start.wr (TILE_ZL_CTRL_LINK_DIS p) 1).zState p = zActive) :=
  ⟨stZ 5 {}, 0, by decide⟩

theorem witness_ZitchLinkStateCommandsComplete_3 : ∃ (s : State) (p : Port), (s.start.gated (p / 16) = false) ∧ (s.start.isZitch p = true) ∧ ((s.start.wr (TILE_ZL_CTRL_LINK_DIS p) 1).zState p ≠ zActive) :=
  ⟨stZ 1 {}, 0, by decide⟩

theorem witness_ZitchLinkStateCommandsComplete_4 : ∃ (s : State) (p : Port), (s.start.gated (p / 16) = false) ∧ (s.start.isZitch p = true) ∧ (s.start.zState p = zActive) ∧ ((s.start.z p).op = none) ∧ ((s.start.z p).doing = none) ∧ ((s.start.z p).drain = none) :=
  ⟨stZ 5 {}, 0, by decide⟩

theorem witness_ZitchLinkStateCommandsComplete_5 : ∃ (s : State) (p : Port) (w : Fin 8) (g mask : Nat), (s.start.gated (p / 16) = false) ∧ (s.start.isZitch p = true) ∧ (s.start.rd (TILE_ZL_CTRL_TARGET_WIDTH p) ≠ w.val) ∧ (zGroup (0xFFFF - ((s.start.wr (TILE_ZL_CTRL_TARGET_WIDTH p) w).z p).failed &&& 0xFFFF) ((s.start.wr (TILE_ZL_CTRL_TARGET_WIDTH p) w).zTarget p) 0 = some (g, mask)) :=
  ⟨stZ 5 {}, 0, 2, 2, 15, by decide⟩

theorem witness_ZitchLinkStateCommandsComplete_6 : ∃ (s : State) (p : Port), (s.start.gated (p / 16) = false) ∧ (s.start.isZitch p = true) :=
  ⟨stZ 5 {}, 0, by decide⟩

theorem witness_ZitchLinkStateCommandsComplete_7 : ∃ (s : State) (p : Port), (s.start.gated (p / 16) = false) ∧ (s.start.isZitch p = true) ∧ ((s.start.wr (TILE_ZL_CTRL_LP_REQ p) 0).zState p = zLp) :=
  ⟨stZ 7 {}, 0, by decide⟩

theorem witness_ZitchLinkStateCommandsComplete_8 : ∃ (s : State) (p : Port), (s.start.isZitch p = true) ∧ (s.start.zState p = zDetect) :=
  ⟨stZ 1 {}, 0, by decide⟩

theorem witness_ZitchLinkStateCommandsComplete_9 : ∃ (s : State) (p : Port), (s.start.isZitch p = true) ∧ (s.start.zState p = zDetect) ∧ (s.start.mayTrain p = true) :=
  ⟨st (fun m => { zPort 1 m with pins := { m.pins with vlanePg := true } }), 0, by decide⟩

theorem witness_ZitchLinkStateCommandsComplete_10 : ∃ (s : State) (p : Port) (z : ZSet), (s.start.isZitch p = true) ∧ (s.start.zState p = zPoll ∨ s.start.zState p = zRetrain) ∧ (s.start.zHalf p z.lanes = true) ∧ ((s.start.z p).rx < 7) :=
  ⟨stZ 2 { rx := 3 }, 0, { lanes := 0xFF00 }, by decide⟩

theorem witness_ZitchLinkStateCommandsComplete_11 : ∃ (s : State) (p : Port) (z : ZSet), (s.start.isZitch p = true) ∧ (s.start.zState p = zPoll ∨ s.start.zState p = zRetrain) ∧ (s.start.zHalf p z.lanes = true) ∧ ((s.start.z p).rx = 7) :=
  ⟨stZ 6 { rx := 7 }, 0, { lanes := 0xFFFF }, by decide⟩

theorem witness_ZitchLinkStateCommandsComplete_12 : ∃ (s : State) (p : Port) (z : ZSet), (s.start.isZitch p = true) ∧ (s.start.zState p = zPoll) ∧ (s.start.zHalf p z.lanes = false) :=
  ⟨stZ 2 { rx := 7 }, 0, { lanes := 0x7F }, by decide⟩

theorem witness_ZitchLinkStateCommandsComplete_13 : ∃ (s : State) (p : Port) (z : ZSet) (u : Mach), (s.start.isZitch p = true) ∧ (s.start.zState p = zConfig) ∧ ((s.start.zNonces p z).rd (TILE_ZL_PNONCE_NONCE p) ≠ (s.start.zNonces p z).rd (TILE_ZL_NONCE_NONCE p)) ∧ (u = (s.start.zNonces p z).updZ p fun x => { x with partner := z, rx2 := x.rx2 + 1, tx2 := if x.numbered ≥ 8 then x.tx2 + 1 else x.tx2 }) ∧ (8 ≤ (u.z p).rx2) ∧ (16 ≤ (u.z p).tx2) :=
  ⟨st (fun m => ((zPort 3 m).wr (TILE_ZL_NONCE_NONCE 0) 9).updZ 0 fun _ => { numbered := 8, rx2 := 15, tx2 := 15 }), 0, { nonce := 5 }, (((st (fun m => ((zPort 3 m).wr (TILE_ZL_NONCE_NONCE 0) 9).updZ 0 fun _ => { numbered := 8, rx2 := 15, tx2 := 15 })).start.zNonces 0 { nonce := 5 }).updZ 0 fun x => { x with partner := { nonce := 5 }, rx2 := x.rx2 + 1, tx2 := if x.numbered ≥ 8 then x.tx2 + 1 else x.tx2 }), ⟨by decide, by decide, by decide, rfl, by decide, by decide⟩⟩

theorem witness_ZitchLinkStateCommandsComplete_14 : ∃ (s : State) (p : Port) (z : ZSet), (s.start.isZitch p = true) ∧ (s.start.zState p = zEq) ∧ (z.eqDone = true) ∧ (s.start.zAdapted p = true) :=
  ⟨st (fun m => (((zPort 4 m).wr (TILE_PORTMAP_MAP 0) 1).updZ 0 fun _ => { eqRate := 2 }).wr (LANE_RXEQ_ADAPT_DONE 0) 1), 0, { eqDone := true }, by decide⟩

theorem witness_ZitchLinkStateCommandsComplete_15 : ∃ (s : State) (p : Port), (s.start.isZitch p = true) ∧ (s.start.zState p = zActive) ∧ ((s.start.z p).doing = none) :=
  ⟨stZ 5 {}, 0, by decide⟩

theorem witness_ZitchLinkStateCommandsComplete_16 : ∃ (s : State) (p : Port), (s.start.isZitch p = true) ∧ (s.start.zState p = zLp) ∧ (8 ≤ (s.start.z p).aligned) :=
  ⟨stZ 7 { aligned := 8 }, 0, by decide⟩

theorem witness_ZitchLinkStateCommandsComplete_17 : ∃ (s : State) (p : Port) (o : ZOp), (s.start.isZitch p = true) ∧ (s.start.zState p = zActive) ∧ ((s.start.z p).doing = some o) ∧ (o.kind = 2) :=
  ⟨stZ 5 { doing := some { kind := 2, mask := 15 } }, 0, { kind := 2, mask := 15 }, by decide⟩

theorem witness_ZitchLinkStateCommandsComplete_18 : ∃ (s : State) (p : Port), (s.start.isZitch p = true) ∧ (s.start.zState p = zLp) ∧ ((s.start.z p).aligned = 7) :=
  ⟨stZ 7 { aligned := 7 }, 0, by decide⟩

theorem witness_ZitchLinkStateCommandsComplete_19 : ∃ (s : State) (p : Port), (s.start.isZitch p = true) ∧ (s.start.zState p = zLp) ∧ ((s.start.z p).aligned = 0) :=
  ⟨stZ 7 {}, 0, by decide⟩

theorem witness_ZitchLinkStateCommandsComplete_20 : ∃ (s : State) (p : Port) (o : ZOp), (s.start.isZitch p = true) ∧ (s.start.zState p = zActive) ∧ ((s.start.z p).doing = some o) ∧ (o.kind = 3) :=
  ⟨stZ 5 { doing := some { kind := 3 } }, 0, { kind := 3 }, by decide⟩

theorem witness_ZitchLinkStateCommandsComplete_21 : ∃ (s : State) (p : Port), (s.start.isZitch p = true) ∧ (s.start.zState p = zPoll) :=
  ⟨stZ 2 {}, 0, by decide⟩

theorem witness_ZitchLinkStateCommandsComplete_22 : ∃ (s : State) (p : Port), (s.start.isZitch p = true) ∧ (s.start.zState p = zConfig) :=
  ⟨stZ 3 {}, 0, by decide⟩

theorem witness_ZitchLinkStateCommandsComplete_23 : ∃ (s : State) (p : Port), (s.start.isZitch p = true) ∧ (s.start.zState p = zEq) :=
  ⟨stZ 4 {}, 0, by decide⟩

theorem witness_ZitchLinkStateCommandsComplete_24 : ∃ (s : State) (p : Port), (s.start.isZitch p = true) ∧ (s.start.zState p = zRetrain) :=
  ⟨stZ 6 {}, 0, by decide⟩

theorem witness_ZitchFlitAndOperationCommandsComplete_1 : ∃ (s : State) (p : Port) (q a : Nat), (s.start.isZitch p = true) ∧ (s.start.zState p = zActive) ∧ ((s.start.z p).rxOn = true) :=
  ⟨stZ 5 { rxOn := true }, 0, 0, 4095, by decide⟩

theorem witness_ZitchFlitAndOperationCommandsComplete_2 : ∃ (s : State) (p : Port) (q a : Nat), (s.start.isZitch p = true) ∧ (s.start.zState p = zActive) ∧ ((s.start.z p).rxOn = true) ∧ (q % 4096 = (((s.start.updZ p fun z => { z with fails := 0 }).zAck p a).z p).next) :=
  ⟨stZ 5 { rxOn := true, next := 4095 }, 0, 4095, 0, by decide⟩

theorem witness_ZitchFlitAndOperationCommandsComplete_3 : ∃ (s : State) (p : Port) (q a : Nat) (l : List ZMsgHdr), (s.start.isZitch p = true) ∧ (s.start.zState p = zActive) ∧ ((s.start.z p).rxOn = true) ∧ (q % 4096 = (((s.start.updZ p fun z => { z with fails := 0 }).zAck p a).z p).next) ∧ (l.all (·.ok) = true) :=
  ⟨stZ 5 { rxOn := true }, 0, 0, 0, [{ vc := 1, opcode := 0x2F, len := 17 }], by decide⟩

theorem witness_ZitchFlitAndOperationCommandsComplete_4 : ∃ (s : State) (p : Port), (s.start.isZitch p = true) ∧ (s.start.zState p = zActive) ∧ ((s.start.z p).rxOn = true) ∧ ((((s.start.raise (TILE_ZL_EVENT_FLIT_FAIL p)).updZ p fun z => { z with fails := z.fails + 1 }).z p).discarding = true) ∧ ((((s.start.raise (TILE_ZL_EVENT_FLIT_FAIL p)).updZ p fun z => { z with fails := z.fails + 1 }).z p).fails ≠ 65) :=
  ⟨stZ 5 { rxOn := true, discarding := true, fails := 65 }, 0, by decide⟩

theorem witness_ZitchFlitAndOperationCommandsComplete_5 : ∃ (s : State) (p : Port) (u : Mach), (s.start.isZitch p = true) ∧ (s.start.zState p = zActive) ∧ ((s.start.z p).rxOn = true) ∧ (u = (s.start.raise (TILE_ZL_EVENT_FLIT_FAIL p)).updZ p fun z => { z with fails := z.fails + 1 }) ∧ ((u.z p).discarding = false) ∧ (((u.zNakOut p).z p).fails ≠ 65) :=
  ⟨stZ 5 { rxOn := true }, 0, ((stZ 5 { rxOn := true }).start.raise (TILE_ZL_EVENT_FLIT_FAIL 0)).updZ 0 fun z => { z with fails := z.fails + 1 }, ⟨by decide, by decide, by decide, rfl, by decide, by decide⟩⟩

theorem witness_ZitchFlitAndOperationCommandsComplete_6 : ∃ (s : State) (p : Port), (s.start.isZitch p = true) ∧ (s.start.zState p = zActive) ∧ ((s.start.z p).discarding = true) :=
  ⟨stZ 5 { discarding := true }, 0, by decide⟩

theorem witness_ZitchFlitAndOperationCommandsComplete_7 : ∃ (s : State) (p : Port) (a : Fin 4096), (s.start.isZitch p = true) ∧ (s.start.zState p = zActive) :=
  ⟨stZ 5 {}, 0, 4095, by decide⟩

theorem witness_ZitchFlitAndOperationCommandsComplete_8 : ∃ (s : State) (p : Port) (q t : Nat) (l : List (Nat × Nat)), (s.start.isZitch p = true) ∧ (s.start.zState p = zActive) ∧ ((s.start.z p).buf = (q, t) :: l) ∧ ((s.start.z p).replayAt ≠ some q) :=
  ⟨stZ 5 { buf := [(7, 1), (8, 1)], replayAt := some 6, replays := 3 }, 0, 7, 1, [(8, 1)], by decide⟩

theorem witness_ZitchFlitAndOperationCommandsComplete_9 : ∃ (s : State) (p : Port), (s.start.isZitch p = true) ∧ (s.start.zState p = zActive) :=
  ⟨stZ 5 {}, 0, by decide⟩

theorem witness_ZitchFlitAndOperationCommandsComplete_10 : ∃ (s : State) (p : Port), (s.start.isZitch p = true) ∧ (s.start.zState p = zActive) ∧ ((s.start.z p).initSeen = true) :=
  ⟨stZ 5 { initSeen := true }, 0, by decide⟩

theorem witness_ZitchFlitAndOperationCommandsComplete_11 : ∃ (s : State) (p : Port), (s.start.isZitch p = true) ∧ ((s.start.z p).scheduled = true) :=
  ⟨stZ 5 { scheduled := true }, 0, by decide⟩

theorem witness_ZitchFlitAndOperationCommandsComplete_12 : ∃ (s : State) (p : Port) (kind mask : Nat), (s.start.isZitch p = true) ∧ (s.start.zState p = zActive) ∧ ((s.start.z p).op = none) :=
  ⟨stZ 5 {}, 0, 1, 0, by decide⟩

theorem witness_ZitchFlitAndOperationCommandsComplete_13 : ∃ (s : State) (p : Port) (kind mask : Nat) (o : ZOp), (s.start.isZitch p = true) ∧ (s.start.zState p = zActive) ∧ ((s.start.z p).op = some o) ∧ (s.start.flag (TILE_ZL_STATUS_LEADER p) = false) :=
  ⟨stZ 5 { op := some { kind := 1 } }, 0, 2, 15, { kind := 1 }, by decide⟩

theorem witness_ZitchFlitAndOperationCommandsComplete_14 : ∃ (s : State) (p : Port) (o : ZOp), (s.start.isZitch p = true) ∧ (s.start.zState p = zActive) ∧ ((s.start.z p).op = some o) :=
  ⟨stZ 5 { op := some { kind := 1 } }, 0, { kind := 1 }, by decide⟩

theorem witness_ZitchFlitAndOperationCommandsComplete_15 : ∃ (s : State) (p : Port) (o : ZOp), (s.start.isZitch p = true) ∧ (s.start.zState p = zActive) ∧ ((s.start.z p).op = some o) :=
  ⟨stZ 5 { op := some { kind := 1 } }, 0, { kind := 1 }, by decide⟩

theorem witness_ZitchFlitAndOperationCommandsComplete_16 : ∃ (s : State) (p : Port), (s.start.isZitch p = true) ∧ (s.start.zState p = zActive) ∧ ((s.start.z p).buf = []) ∧ ((s.start.z p).drain = some .retrain) :=
  ⟨stZ 5 { drain := some .retrain }, 0, by decide⟩

theorem witness_ZitchFlitAndOperationCommandsComplete_17 : ∃ (s : State) (p : Port), (s.start.isZitch p = true) ∧ (s.start.zState p = zActive) ∧ ((s.start.z p).buf = []) ∧ ((s.start.z p).drain = some .lp) :=
  ⟨stZ 5 { drain := some .lp }, 0, by decide⟩

theorem witness_ZitchFlitAndOperationCommandsComplete_18 : ∃ (s : State) (p : Port), (s.start.isZitch p = true) ∧ (s.start.zState p = zActive) ∧ ((s.start.z p).buf = []) ∧ ((s.start.z p).drain = some .disable) :=
  ⟨stZ 5 { drain := some .disable }, 0, by decide⟩

theorem witness_ZitchFlitAndOperationCommandsComplete_19 : ∃ (s : State) (p : Port), (s.start.isZitch p = true) ∧ (s.start.zState p = zActive) ∧ ((s.start.z p).drain = some .retrain) :=
  ⟨stZ 5 { drain := some .retrain }, 0, by decide⟩

theorem witness_ZitchFlitAndOperationCommandsComplete_20 : ∃ (s : State) (p : Port) (o : ZOp), (s.start.isZitch p = true) ∧ (s.start.zState p = zActive) ∧ ((s.start.z p).doing = none) ∧ ((s.start.z p).op = none) ∧ ((s.start.z p).abandoned = some o) ∧ (o.cause = .audit) :=
  ⟨stZ 5 { abandoned := some { kind := 1, cause := .audit } }, 0, { kind := 1, cause := .audit }, by decide⟩

theorem witness_ZitchFlitAndOperationCommandsComplete_21 : ∃ (s : State) (p : Port) (lane : Fin 16) (u : Mach), (s.start.isZitch p = true) ∧ (s.start.zState p = zActive) ∧ (bit (s.start.z p).failed lane = false) ∧ (u = ((s.start.updZ p fun z => { z with failed := withBit z.failed lane true }).raise (TILE_ZL_EVENT_DEGRADED p)).error
      { cls := .corrected, block := 2, code := 2, port := some p.val, loc := p / 16 + lane.val * 64 }) ∧ (u.flag (TILE_ZL_CTRL_DEGRADE_EN p) = false) :=
  ⟨st (fun m => (zPort 5 m).wr (TILE_ZL_CTRL_DEGRADE_EN 0) 0), 0, 3, (((st (fun m => (zPort 5 m).wr (TILE_ZL_CTRL_DEGRADE_EN 0) 0)).start.updZ 0 fun z => { z with failed := withBit z.failed 3 true }).raise (TILE_ZL_EVENT_DEGRADED 0)).error { cls := .corrected, block := 2, code := 2, port := some 0, loc := 192 }, ⟨by decide, by decide, by decide, rfl, by decide⟩⟩

theorem witness_ZitchFlitAndOperationCommandsComplete_22 : ∃ (s : State) (t : Tile) (k : Fin 4) (lane : Fin 34), (s.start.flag (TILE_D2D_STATUS_OUT t k) = false) :=
  ⟨State.reset, 0, 3, 33, by decide⟩

theorem witness_ZitchFlitAndOperationCommandsComplete_23 : ∃ (s : State) (t : Tile) (k : Fin 4) (ack : Nat) (nk : Bool) (u : Mach), (u = s.start.updD t k fun d => { d with unacked := min 32 (((s.start.dd t k).txUnit + 256 - (ack + 1) % 256) % 256), discarding := false }) :=
  ⟨State.reset, 0, 0, 0, true, (State.reset.start.updD 0 0 fun d => { d with unacked := min 32 (((State.reset.start.dd 0 0).txUnit + 256 - (0 + 1) % 256) % 256), discarding := false }), rfl⟩

theorem witness_ZitchFlitAndOperationCommandsComplete_24 : ∃ (s : State) (t : Tile) (k : Fin 4) (lane : Fin 34) (u v : Mach) (n : Nat), (max 1 (s.start.rd (TILE_D2D_CFG_ERR_THRESH t)) ≤ SMap.get 0 (s.start.dd t k).errs lane) ∧ (lane.val ∉ (s.start.dd t k).retired) ∧ (s.start.flag (TILE_D2D_STATUS_OUT t k) = false) ∧ (u = s.start.updD t k fun d => { d with retired := d.retired ++ [lane.val], errs := SMap.del d.errs lane }) ∧ (v = (((u.wr (TILE_D2D_STATUS_RETIRED t k) (min 15 ((s.start.dd t k).retired.length + 1))).wr (TILE_D2D_STATUS_LAST_LANE t k) lane).count
      (CNT_TILE t 110) 1).error { cls := .corrected, block := 3, code := 1, loc := t.val + lane.val * 64 }) ∧ (v.rd (TILE_D2D_STATUS_SPARES_LEFT t k) = n + 1) :=
  ⟨st (fun m => m.updD 0 0 fun d => { d with errs := [(5, 4096)] }), 0, 0, 5, _, _, 1, ⟨by decide, by decide, by decide, rfl, rfl, by decide⟩⟩

theorem witness_PortCommandsComplete_1 : ∃ (s : State) (t : Tile) (map : Word), (s.start.gated t = false) ∧ (mapValid map.toNat = true) ∧ ((s.start.tilePorts t).all (fun p => s.start.flag (TILE_PORT_CTRL_LINK_DIS p)) = true) :=
  ⟨State.reset, 0, 0x0000000400000004, by decide⟩

theorem witness_PortCommandsComplete_2 : ∃ (s : State) (p : Port) (v : BitVec 32), (s.start.gated (p / 16) = false) ∧ (s.start.portExists p = true) ∧ (v.toNat / 2 % 4 = s.start.role p) ∧ (bit v.toNat 3 = s.start.flag (TILE_PORT_CTRL_PROTO p)) ∧ (s.start.role p = 0 ∨ s.start.role p = 1) ∧ (s.start.flag (TILE_PORT_CTRL_PROTO p) = false) ∧ (v.toNat / 2 ^ 16 % 4096 = s.start.rd (TILE_PORT_CTRL_PBR_ID p)) ∧ (bit v.toNat 6 = false) :=
  ⟨st (cPort 1 false), 0, 2, by decide⟩

theorem witness_PortCommandsComplete_3 : ∃ (s : State) (p : Port) (v : BitVec 32), (s.start.gated (p / 16) = false) ∧ (s.start.portExists p = true) ∧ (v.toNat / 2 % 4 = 2) ∧ (s.start.flag (TILE_PORT_CTRL_LINK_DIS p) = true) ∧ (bit v.toNat 6 = false) :=
  ⟨st (fun m => (cPort 1 false m).wr (TILE_PORT_CTRL_LINK_DIS 0) 1), 0, 0x0123000D, by decide⟩

theorem witness_PortCommandsComplete_4 : ∃ (s : State) (p : Port) (x : LinkOffer), (s.start.mayTrain p = true) ∧ (s.start.isZitch p = false) ∧ (s.start.linkUp p = false) ∧ (s.start.slotGood p = true) ∧ (s.start.perstFree p = true) :=
  ⟨st (fun m => { cPort 1 false m with pins := { m.pins with vlanePg := true } }), 0, { rate := 5, width := 4, cxl := true, flit256 := true, lowLat := false }, by decide⟩

theorem witness_PortCommandsComplete_5 : ∃ (s : State) (p : Port), (s.start.isZitch p = false) ∧ (s.start.linkUp p = true) :=
  ⟨st (cPort 1 true), 0, by decide⟩

theorem witness_PortCommandsComplete_6 : ∃ (s : State) (p : Port), (s.start.isZitch p = true) ∧ (s.start.linkUp p = true) :=
  ⟨st (fun m => (zPort 5 m).wr (TILE_PORT_STATUS_LINK_UP 0) 1), 0, by decide⟩

theorem witness_PortCommandsComplete_7 : ∃ (s : State) (p : Port), ((s.start.px p).flushing = true) :=
  ⟨st (fun m => m.updPx 1023 fun x => { x with flushing := true }), 1023, by decide⟩

theorem witness_PortCommandsComplete_8 : ∃ (s : State) (p : Port) (why : Fin 7), (s.start.portExists p = true) :=
  ⟨st (cPort 1 true), 0, 6, by decide⟩

theorem witness_PortCommandsComplete_9 : ∃ (s : State) (p : Port) (b : Bind), (s.start.bound p = some b) ∧ ((s.start.vp b.up b.vppb).dpcTrig = true) :=
  ⟨st (fun m => { (twoPorts m).updVp 0 3 (fun v => { v with dpcTrig := true }) with binds := [(256, { up := 0, vppb := 3 })] }), 16, { up := 0, vppb := 3 }, by decide⟩

theorem witness_PortCommandsComplete_10 : ∃ (s : State) (p : Port) (b : Bind), (s.start.bound p = some b) ∧ (s.start.portPooled p = false) :=
  ⟨st (fun m => { twoPorts m with binds := [(256, { up := 0, vppb := 3 })] }), 16, { up := 0, vppb := 3 }, by decide⟩

theorem witness_PortCommandsComplete_11 : ∃ (s : State) (p : Port), (s.start.isDown p = true) :=
  ⟨st twoPorts, 16, by decide⟩

theorem witness_PortCommandsComplete_12 : ∃ (s : State) (p : Port) (v : VC) (n : Nat), (s.start.linkUp p = true) ∧ (s.start.isZitch p = false) :=
  ⟨st twoPorts, 16, 0, 1, by decide⟩

theorem witness_PortCommandsComplete_13 : ∃ (s : State) (p : Port) (n : Nat), (s.start.isUp p = true) :=
  ⟨st twoPorts, 0, 4, by decide⟩

theorem witness_PortCommandsComplete_14 : ∃ (s : State) (p : Port), (s.start.tfLast = true) ∧ (s.start.linkUp p = true) ∧ (s.start.flag (TF_QUIRK_E7 (p / 256)) = true) ∧ ((s.start.px p).e7Up = false) :=
  ⟨st (fun m => { (cPort 1 true m).wr (TF_QUIRK_E7 0) 1 with tfLast := true }), 0, by decide⟩

theorem witness_FmApiCommandsComplete_1 : ∃ (s : State) (src : FmSrc), (s.start.fmFrom src = true) :=
  ⟨State.reset, .sb0, by decide⟩

theorem witness_FmApiCommandsComplete_2 : ∃ (s : State) (src : FmSrc), (s.start.fmFrom src = true) :=
  ⟨State.reset, .mgmt, by decide⟩

theorem witness_FmApiCommandsComplete_3 : ∃ (s : State) (src : FmSrc), (s.start.fmFrom src = true) :=
  ⟨State.reset, .mgmt, by decide⟩

theorem witness_FmApiCommandsComplete_4 : ∃ (s : State) (src : FmSrc) (n : Nat), (s.start.fmFrom src = true) ∧ (256 ≤ n) ∧ (n ≤ 8192) :=
  ⟨State.reset, .mgmt, 256, by decide⟩

theorem witness_FmApiCommandsComplete_5 : ∃ (s : State) (src : FmSrc), (s.start.fmFrom src = true) :=
  ⟨State.reset, .mgmt, by decide⟩

theorem witness_FmApiCommandsComplete_6 : ∃ (s : State) (src : FmSrc), (s.start.fmFrom src = true) :=
  ⟨State.reset, .mgmt, by decide⟩

theorem witness_FmApiCommandsComplete_7 : ∃ (s : State) (src : FmSrc), (s.start.fmFrom src = true) :=
  ⟨st (fun m => { twoPorts m with domPort := [(0, 0)] }), .mailbox 0, by decide⟩

theorem witness_FmApiCommandsComplete_8 : ∃ (s : State) (src : FmSrc) (p : Port), (s.start.fmFrom src = true) ∧ (s.start.portExists p = true) :=
  ⟨st twoPorts, .mgmt, 16, by decide⟩

theorem witness_FmApiCommandsComplete_9 : ∃ (s : State) (src : FmSrc) (p : Port) (op : Fin 3), (s.start.fmFrom src = true) ∧ (s.start.portExists p = true) ∧ (op = 2 ∨ s.start.isDown p = true) :=
  ⟨st twoPorts, .mgmt, 16, 2, by decide⟩

theorem witness_FmApiCommandsComplete_10 : ∃ (s : State) (src : FmSrc) (p : Port) (pl : List Byte), (s.start.fmFrom src = true) ∧ (s.start.isDown p = true) ∧ (s.start.linkUp p = true) :=
  ⟨st twoPorts, .mgmt, 16, [], by decide⟩

theorem witness_FmApiCommandsComplete_11 : ∃ (s : State) (src : FmSrc) (p : Port) (pl : List Byte), (s.start.fmFrom src = true) ∧ (s.start.isDown p = true) ∧ (s.start.linkUp p = true) :=
  ⟨st twoPorts, .mgmt, 16, [], by decide⟩

theorem witness_FmApiCommandsComplete_12 : ∃ (s : State) (src : FmSrc) (p : Port) (ld : Fin 16) (pl : List Byte), (s.start.fmFrom src = true) ∧ (s.start.isDown p = true) ∧ (s.start.linkUp p = true) ∧ (s.start.flag (TILE_PORT_STATUS_MLD p) = true) ∧ (ld.val < (s.start.px p).lds) :=
  ⟨st (fun m => ((twoPorts m).wr (TILE_PORT_STATUS_MLD 16) 1).updPx 16 fun x => { x with lds := 16 }), .mgmt, 16, 15, [], by decide⟩

theorem witness_FmApiCommandsComplete_13 : ∃ (s : State) (src : FmSrc) (p : Port) (ld : Fin 16) (pl : List Byte), (s.start.fmFrom src = true) ∧ (s.start.isDown p = true) ∧ (s.start.linkUp p = true) ∧ (s.start.flag (TILE_PORT_STATUS_MLD p) = true) ∧ (ld.val < (s.start.px p).lds) :=
  ⟨st (fun m => ((twoPorts m).wr (TILE_PORT_STATUS_MLD 16) 1).updPx 16 fun x => { x with lds := 16 }), .mgmt, 16, 15, [], by decide⟩

theorem witness_FmApiCommandsComplete_15 : ∃ (s : State) (src : FmSrc) (vcs : Fin 256) (up : Nat), (s.start.fmFrom src = true) ∧ (s.start.vcsPort vcs = some up) :=
  ⟨st twoPorts, .mgmt, 0, 0, by decide⟩

theorem witness_FmApiCommandsComplete_16 : ∃ (s : State) (src : FmSrc) (vcs vppb : Fin 256) (p : Port) (up : Nat), (s.start.fmFrom src = true) ∧ (s.start.fm.bg = none) ∧ (s.start.vcsPort vcs = some up) ∧ (vppb.val < 64) ∧ (s.start.boundTo up vppb = none) ∧ (s.start.pooled p 0 false = true) ∧ (s.start.named p 0 = false) ∧ (s.start.flag (TILE_PORT_STATUS_CXL_CACHE p) = false) :=
  ⟨st twoPorts, .mgmt, 0, 63, 16, 0, by decide⟩

theorem witness_FmApiCommandsComplete_17 : ∃ (s : State) (src : FmSrc) (vcs vppb : Fin 256) (up : Nat) (pl : Nat × Nat), (s.start.fmFrom src = true) ∧ (s.start.fm.bg = none) ∧ (s.start.vcsPort vcs = some up) ∧ (s.start.boundTo up vppb = some pl) :=
  ⟨st (fun m => { twoPorts m with binds := [(256, { up := 0, vppb := 3 })] }), .mgmt, 0, 3, 0, (16, 0), by decide⟩

theorem witness_FmApiCommandsComplete_18 : ∃ (s : State) (p : Nat) (ld : Option Nat) (up vppb : Nat), (s.start.fm.bg = some (.bind p ld up vppb)) :=
  ⟨st (fun m => { m with fm := { m.fm with bg := some (.bind 16 none 0 3) } }), 16, none, 0, 3, by decide⟩

theorem witness_FmApiCommandsComplete_19 : ∃ (s : State) (up vppb : Nat), (s.start.fm.bg = some (.unbind up vppb .surpriseRemove)) :=
  ⟨st (fun m => { m with fm := { m.fm with bg := some (.unbind 0 3 .surpriseRemove) } }), 0, 3, by decide⟩

theorem witness_FmApiCommandsComplete_20 : ∃ (s : State) (up vppb : Nat), (s.start.fm.bg = some (.unbind up vppb .managedRemove)) ∧ (s.start.fm.removing = true) :=
  ⟨st (fun m => { m with fm := { m.fm with bg := some (.unbind 0 3 .managedRemove), removing := true } }), 0, 3, by decide⟩

theorem witness_FmApiCommandsComplete_21 : ∃ (s : State) (src : FmSrc) (vcs vppb : Fin 256) (err up : Nat), (s.start.fmFrom src = true) ∧ (s.start.vcsPort vcs = some up) ∧ (vppb.val < 65) :=
  ⟨st twoPorts, .mgmt, 0, 64, 7, 0, by decide⟩

theorem witness_IdeAndHotPlugCommandsComplete_1 : ∃ (s : State) (p : Port), (s.start.portExists p = true) ∧ (s.start.linkUp p = true) ∧ (s.start.securePorts < 256) :=
  ⟨st twoPorts, 16, by decide⟩

theorem witness_IdeAndHotPlugCommandsComplete_2 : ∃ (s : State) (p : Port), ((s.start.px p).secure = true) :=
  ⟨st (fun m => m.updPx 16 fun x => { x with secure := true }), 16, by decide⟩

theorem witness_IdeAndHotPlugCommandsComplete_3 : ∃ (s : State) (p : Port) (c : Nat) (u : Mach), (s.start.slotOf p = some c) ∧ (u = (s.start.updPx p fun x => { x with powerReq := true, offPending := false, pvperl := s.start.flag (SPC_STATUS_PG c) }).updSlotVp p fun v => { v with powerOff := false }) :=
  ⟨st slotPort, 0, 5, ((st slotPort).start.updPx 0 fun x => { x with powerReq := true, offPending := false, pvperl := (st slotPort).start.flag (SPC_STATUS_PG 5) }).updSlotVp 0 fun v => { v with powerOff := false }, ⟨by decide, rfl⟩⟩

theorem witness_IdeAndHotPlugCommandsComplete_4 : ∃ (s : State) (p : Port), ((s.start.px p).pvperl = true) ∧ (s.start.slotGood p = true) :=
  ⟨st (fun m => ((slotPort m).wr (SPC_STATUS_PG 5) 1).updPx 0 fun x => { x with pvperl := true }), 0, by decide⟩

theorem witness_IdeAndHotPlugCommandsComplete_5 : ∃ (s : State) (p : Port) (c : Nat), (s.start.slotOf p = some c) :=
  ⟨st slotPort, 0, 5, by decide⟩

theorem witness_IdeAndHotPlugCommandsComplete_6 : ∃ (s : State) (p : Port) (c : Nat) (u : Mach), ((s.start.px p).offPending = true) ∧ (u = s.start.updPx p fun x => { x with offPending := false }) ∧ (u.slotOf p = some c) :=
  ⟨st (fun m => (slotPort m).updPx 0 fun x => { x with offPending := true }), 0, 5, (st (fun m => (slotPort m).updPx 0 fun x => { x with offPending := true })).start.updPx 0 fun x => { x with offPending := false }, ⟨by decide, rfl, by decide⟩⟩

theorem witness_IdeAndHotPlugCommandsComplete_7 : ∃ (s : State) (p : Port) (b : Bool), (s.start.isDown p = true) :=
  ⟨st twoPorts, 16, true, by decide⟩

theorem witness_RequestPathCommandsComplete_1 : ∃ (s : State) (r : Req) (p : Port) (n : Nat), (r.src = .port p) ∧ (s.start.takesFrom r = true) ∧ (s.start.isZitch p = false) ∧ (r.vc ≠ 2) ∧ (s.start.tfLast = false) ∧ (s.start.rpSel p = 0) ∧ (SMap.get [] s.start.pipes p = []) ∧ (n = SMap.get 0 s.start.vc2Rx p) :=
  ⟨st live, aReq, 0, 0, by decide⟩

theorem witness_RequestPathCommandsComplete_2 : ∃ (s : State) (t : Tile) (q key : Nat) (w : Waiting) (rest : List Waiting), (s.start.nextClass t = some q) ∧ (s.start.freeEntry t = some key) ∧ (s.start.waitQ t q = w :: rest) ∧ (s.start.inUse t q < s.start.qMin t q) :=
  ⟨st (fun m => (m.wr (TILE_TRK_QCLASS_MIN 0 0) 4).setWaitQ 0 0 [{ req := aReq, dom := 0, epoch := 0, x := { port := 16, dpa := 4096 }, tc := 1 }]), 0, 0, 0, { req := aReq, dom := 0, epoch := 0, x := { port := 16, dpa := 4096 }, tc := 1 }, [], by refine ⟨by decide, ?_, by decide, by decide⟩; rfl⟩

theorem witness_RequestPathCommandsComplete_3 : ∃ (s : State) (t : Tile) (q key : Nat) (w : Waiting) (rest : List Waiting), (s.start.nextClass t = some q) ∧ (s.start.freeEntry t = some key) ∧ (s.start.waitQ t q = w :: rest) ∧ (s.start.qMin t q ≤ s.start.inUse t q) :=
  ⟨st (fun m => (m.wr (TILE_TRK_QCLASS_MIN 0 0) 0).setWaitQ 0 0 [{ req := aReq, dom := 0, epoch := 0, x := { port := 16, dpa := 4096 }, tc := 1 }]), 0, 0, 0, { req := aReq, dom := 0, epoch := 0, x := { port := 16, dpa := 4096 }, tc := 1 }, [], by refine ⟨by decide, ?_, by decide, by decide⟩; rfl⟩

theorem witness_RequestPathCommandsComplete_4 : ∃ (s : State) (src : Fin 1088) (dst : Tile) (v : VC) (k : Pkt) (key : Nat), (src.val < 1024) ∧ (key = (src.val * 64 + dst) * 8 + v) ∧ (SMap.get {} s.start.classes key = { tc := 1, untx := 0, fence := [k] }) :=
  ⟨st (fun m => { m with classes := [(1 * 8, { tc := 1, untx := 0, fence := [{ port := 16, vc := 1, tc := 0, slots := 1, srcPort := 0, srcVc := 1 }] })] }), 0, 1, 0, { port := 16, vc := 1, tc := 0, slots := 1, srcPort := 0, srcVc := 1 }, 8, by decide⟩

theorem witness_RequestPathCommandsComplete_6 : ∃ (s : State) (dst src : Tile) (tc : Fin 8) (seq : Fin 65536) (plane : Plane) (c : Reseq) (x : Cell), (c = SMap.get {} s.start.reseqs (reseqKey dst src tc)) ∧ ((seq.val + 65536 - c.e) % 65536 ≤ 255) ∧ ((s.start.voq (voqKey src dst tc)).retained.find? (fun x => x.seq == seq.val) = some x) ∧ (SMap.find c.stored seq.val = none) :=
  ⟨st (fun m => m.setVoq (voqKey 0 1 2) { retained := [{ seq := 255, plane := 1, srcPort := 0, srcVc := 1, slots := 1 }] }), 1, 0, 2, 255, 1, {}, { seq := 255, plane := 1, srcPort := 0, srcVc := 1, slots := 1 }, by decide⟩

theorem witness_RequestPathCommandsComplete_7 : ∃ (s : State) (dst src : Tile) (tc : Fin 8) (e : Nat), (e = (SMap.get ({} : Reseq) s.start.reseqs (reseqKey dst src tc)).e) ∧ ((s.start.voq (voqKey src dst tc)).retained.any (fun x => x.seq == e) = true) :=
  ⟨st (fun m => m.setVoq (voqKey 0 1 2) { retained := [{ seq := 0, plane := 1, srcPort := 0, srcVc := 1, slots := 1 }] }), 1, 0, 2, 0, by decide⟩

theorem witness_RequestPathCommandsComplete_8 : ∃ (s : State) (dst src : Tile) (tc : Fin 8) (e : Fin 65536) (l : List Cell), (l = (s.start.voq (voqKey src dst tc)).retained.map fun x =>
      if (x.seq + 65536 - e.val) % 65536 < 32768 then { x with plane := s.start.otherPlane x.plane } else x) :=
  ⟨State.reset, 0, 0, 0, 0, [], by decide⟩

theorem witness_RequestPathCommandsComplete_9 : ∃ (s : State) (dst src : Tile) (tc : Fin 8) (v : Voq) (e : Nat) (acked : Cell → Bool), (v = s.start.voq (voqKey src dst tc)) ∧ (e = (SMap.get ({} : Reseq) s.start.reseqs (reseqKey dst src tc)).e) ∧ (acked = fun (x : Cell) => x.seq != e && (e + 65536 - x.seq) % 65536 ≤ 256) :=
  ⟨State.reset, 0, 0, 0, State.reset.start.voq 0, 0, fun x => x.seq != 0 && (0 + 65536 - x.seq) % 65536 ≤ 256, ⟨rfl, rfl, rfl⟩⟩

theorem witness_RequestPathCommandsComplete_10 : ∃ (s : State) (p : Port) (tag : Fin 8192) (r : Rsp) (key : Nat) (e : Trk) (u : Mach), (s.start.linkUp p = true) ∧ (s.start.isZitch p = false) ∧ (SMap.find s.start.tags (p / 16 * 8192 + tag) = some (key * 1024 + p)) ∧ (SMap.find s.start.trk key = some e) ∧ (e.specTag = none) ∧ (e.late = false) ∧ (u = { (s.start.count (CNT_TILE (p / 16) (6 * (p.val % 16))) 1).count (CNT_TILE (p / 16) (6 * (p.val % 16) + 2)) (r.slots e.devLen) with
      tags := SMap.del s.start.tags (p / 16 * 8192 + tag) }) :=
  ⟨st (fun m => { live m with tags := [(8192, 16)], trk := [(0, { anEntry with outs := [16] })] }), 16, 0, .data 5 false 0, 0, { anEntry with outs := [16] }, _, ⟨by decide, by decide, by decide, by decide, by decide, by decide, rfl⟩⟩

theorem witness_RequestPathCommandsComplete_11 : ∃ (s : State) (p : Port) (tag : Fin 8192) (r : Rsp), (s.start.linkUp p = true) ∧ (SMap.find s.start.tags (p / 16 * 8192 + tag) = none) ∧ (s.start.isDown p = true) :=
  ⟨st live, 16, 8191, .data 5 false 0, by decide⟩

theorem witness_RequestPathCommandsComplete_12 : ∃ (s : State) (n : Plane) (unc : Bool) (u : Mach), (bit (s.start.rd GLB_PLANE_STATUS_IN_SERVICE) n = true) ∧ (unc = true ∨ bit (s.start.rd GLB_PLANE_CTRL_OUT) n = true) ∧ (u = ((s.start.wr GLB_PLANE_STATUS_IN_SERVICE (withBit (s.start.rd GLB_PLANE_STATUS_IN_SERVICE) n false)).raise GLB_PLANE_EVENT_PLANE_OUT).error
      { cls := .corrected, block := 0, code := 2, loc := n }) ∧ (u.planes.length = 3) :=
  ⟨State.reset, 0, true, _, ⟨by decide, .inl rfl, rfl, by decide⟩⟩

theorem witness_BufferRegisterCommandsComplete_1 : ∃ (s : State) (t : Tile) (v : BitVec 32), (s.start.gated t = false) ∧ (s.start.ibSum t - s.start.rd (TILE_IBUF_AGENT_SLOTS t) + v.toNat % 2 ^ 18 ≤ 131072) :=
  ⟨State.reset, 0, 0, by decide⟩

theorem witness_BufferRegisterCommandsComplete_2 : ∃ (s : State) (t : Tile) (o : Fin 16) (c : VC) (v : BitVec 32), (s.start.gated t = false) ∧ (s.start.portExists (t * 16 + o) = true) ∧ (s.start.ibSum t - s.start.ibufAlloc (t * 16 + o) c + v.toNat % 2 ^ 18 ≤ 131072) ∧ (17 ≤ v.toNat % 2 ^ 18) ∧ (v.toNat % 2 ^ 18 ≠ s.start.ibufCur (t * 16 + o) c) :=
  ⟨st (cPort 1 false), 0, 0, 1, 1000, by decide⟩

theorem witness_BufferRegisterCommandsComplete_3 : ∃ (s : State) (t : Tile) (o : Fin 16) (v : BitVec 32), (s.start.gated t = false) ∧ (s.start.portExists (t * 16 + o) = true) :=
  ⟨st (cPort 1 false), 0, 0, 9, by decide⟩

theorem witness_BufferRegisterCommandsComplete_4 : ∃ (s : State) (t : Tile) (o : Fin 16) (c : VC) (v : BitVec 32), (s.start.gated t = false) ∧ (s.start.portExists (t * 16 + o) = true) ∧ (v.toNat % 2 ^ 13 ≤ v.toNat / 2 ^ 16 % 2 ^ 13) ∧ (((s.start.tilePorts t).map fun q => ((List.range 8).map fun i => s.start.rd (TILE_EBUF_VC_MIN q i)).sum).sum -
      s.start.rd (TILE_EBUF_VC_MIN (t * 16 + o) c) + v.toNat % 2 ^ 13 ≤ 4096) :=
  ⟨st (cPort 1 false), 0, 0, 1, 0x00090003, by decide⟩

theorem witness_BufferRegisterCommandsComplete_5 : ∃ (s : State) (t : Tile) (q : Fin 16) (v : BitVec 32), (s.start.gated t = false) ∧ (v.toNat % 2 ^ 12 ≤ v.toNat / 2 ^ 16 % 2 ^ 12) ∧ (((List.range 16).map fun i => s.start.qMin t i).sum - s.start.qMin t q + v.toNat % 2 ^ 12 ≤ 2048) :=
  ⟨State.reset, 0, 15, 0x00090003, by decide⟩

theorem witness_PrivetRequestCommandsComplete_1 : ∃ (s : State) (key k g : Nat) (e : Trk), (s.start.flowReady key = some k) ∧ (s.start.entry key = some e) ∧ (e.req.kind = .readShared) ∧ (e.demoted = false) ∧ (s.start.memberOf e.x.hedge e.req.src = some g) :=
  ⟨st (pvt .readShared { by_ := .entry 0 }), 0, 64, 3, pvtEntry .readShared, by decide⟩

theorem witness_PrivetRequestCommandsComplete_2 : ∃ (s : State) (key k g : Nat) (e : Trk), (s.start.flowReady key = some k) ∧ (s.start.entry key = some e) ∧ (e.req.kind = .readOwn) ∧ (e.demoted = false) ∧ (s.start.memberOf e.x.hedge e.req.src = some g) :=
  ⟨st (pvt .readOwn { by_ := .entry 0 }), 0, 64, 3, pvtEntry .readOwn, by decide⟩

theorem witness_PrivetRequestCommandsComplete_3 : ∃ (s : State) (key k g : Nat) (e : Trk), (s.start.flowReady key = some k) ∧ (s.start.entry key = some e) ∧ (e.req.kind = .upgrade) ∧ (e.demoted = false) ∧ (s.start.memberOf e.x.hedge e.req.src = some g) :=
  ⟨st (pvt .upgrade { by_ := .entry 0 }), 0, 64, 3, pvtEntry .upgrade, by decide⟩

theorem witness_PrivetRequestCommandsComplete_4 : ∃ (s : State) (key k g : Nat) (e : Trk), (s.start.flowReady key = some k) ∧ (s.start.entry key = some e) ∧ (e.req.kind = .cleanEvict) ∧ (e.demoted = false) ∧ (s.start.memberOf e.x.hedge e.req.src = some g) :=
  ⟨st (pvt .cleanEvict { by_ := .entry 0 }), 0, 64, 3, pvtEntry .cleanEvict, by decide⟩

theorem witness_PrivetRequestCommandsComplete_5 : ∃ (s : State) (key k : Nat) (e : Trk), (s.start.flowReady key = some k) ∧ (s.start.entry key = some e) ∧ (e.req.kind = .readShared) ∧ (e.demoted = false) ∧ (s.start.memberOf e.x.hedge e.req.src = none) :=
  ⟨st (fun m => (pvt .readShared { by_ := .entry 0 } m).wr (PVT_MEMBER_VALID 0 3) 0), 0, 64, pvtEntry .readShared, by decide⟩

theorem witness_PrivetRequestCommandsComplete_6 : ∃ (s : State) (key k : Nat) (e : Trk), (s.start.flowReady key = some k) ∧ (s.start.entry key = some e) ∧ (e.req.kind = .ncRead ∨ e.req.kind = .ioRead) :=
  ⟨st (pvt .ioRead { by_ := .entry 0 }), 0, 64, pvtEntry .ioRead, by decide⟩

theorem witness_PrivetRequestCommandsComplete_7 : ∃ (s : State) (key k : Nat) (e : Trk) (full : Bool), (s.start.flowReady key = some k) ∧ (s.start.entry key = some e) ∧ (e.req.kind = .ncWrite full) :=
  ⟨st (pvt (.ncWrite true) { by_ := .entry 0 }), 0, 64, pvtEntry (.ncWrite true), true, by decide⟩

theorem witness_PrivetRequestCommandsComplete_8 : ∃ (s : State) (key g : Nat) (e : Trk) (l : Line) (toS : Bool), (s.start.flowReady key = some e.x.line) ∧ (s.start.entry key = some e) ∧ (s.start.line e.x.line = some l) ∧ (e.req.kind = .writeBack toS) ∧ (e.phase = .privet) ∧ (e.demoted = false) ∧ (s.start.memberOf e.x.hedge e.req.src = some g) ∧ (l.started = false) :=
  ⟨st (pvt (.writeBack true) { by_ := .entry 0 }), 0, 3, pvtEntry (.writeBack true), { by_ := .entry 0 }, true, by decide⟩

theorem witness_PrivetRequestCommandsComplete_9 : ∃ (s : State) (key : Nat) (e : Trk) (g : Nat) (l : Line) (n : Snoop), (s.start.entry key = some e) ∧ (e.req.kind = .biConflict) ∧ (e.phase = .privet) ∧ (s.start.wbBefore e.req.src e.req.stamp = false) ∧ (s.start.memberOf e.x.hedge e.req.src = some g) ∧ ((s.start.count (CNT_PVT e.x.hedge 8) 1).memberOf e.x.hedge e.req.src = some g) ∧ (s.start.line e.x.line = some l) ∧ (SMap.find l.snoops g = some n) :=
  ⟨st (pvt .biConflict { by_ := .evict, snoops := [(3, { inv := true, st := .sent })] }), 0, pvtEntry .biConflict, 3, { by_ := .evict, snoops := [(3, { inv := true, st := .sent })] }, { inv := true, st := .sent }, by decide⟩

theorem witness_PrivetRequestCommandsComplete_11 : ∃ (s : State) (key : Nat) (e : Trk), (s.start.entry key = some e) ∧ (e.req.kind = .memSpecRd) ∧ (e.phase = .privet) :=
  ⟨st (pvt .memSpecRd { by_ := .evict }), 0, pvtEntry .memSpecRd, by decide⟩

theorem witness_PrivetRequestCommandsComplete_12 : ∃ (s : State) (key : Nat) (e : Trk) (p : Nat) (b : Bool), (s.start.entry key = some e) ∧ (e.req.kind = .otherM2S b) ∧ (e.phase = .privet) ∧ (e.req.src = .port p) :=
  ⟨st (pvt (.otherM2S true) { by_ := .evict }), 0, pvtEntry (.otherM2S true), 0, true, by decide⟩

theorem witness_PrivetRequestCommandsComplete_13 : ∃ (s : State) (t : Tile) (key : Nat) (e : Trk) (u v : Mach), (s.start.chooseLookup t = (some (key, e), u)) ∧ (e.escalated = false) ∧ (e.eligibleKind = false) ∧ (v = ((u.count (CNT_TILE t 98) 1).count (CNT_DOM e.dom 3) 1).count (CNT_PVT e.x.hedge 0) 1) :=
  ⟨st (fun m => ({ pvt .readOwn { by_ := .evict } m with trk := [(0, { pvtEntry .readOwn with phase := .wantLookup })] }.wr PVT_CTRL_ENABLE 1).wr (PVT_HR_CFG_ENABLE 0) 1), 0, 0, { pvtEntry .readOwn with phase := .wantLookup }, _, _, ⟨rfl, by decide, by decide, rfl⟩⟩

theorem witness_PrivetRequestCommandsComplete_15 : ∃ (s : State) (key : Nat) (c : Bool) (e f : Trk), (s.start.entry key = some e) ∧ (e.phase = .lookup) ∧ (SMap.find s.start.recover (t1Set e.x.line) = none) ∧ ((s.start.lookupCount key c).entry key = some f) :=
  ⟨st (fun m => { pvt .readOwn { by_ := .evict } m with trk := [(0, { pvtEntry .readOwn with phase := .lookup })] }), 0, false, { pvtEntry .readOwn with phase := .lookup }, { pvtEntry .readOwn with phase := .lookup }, by decide⟩

theorem witness_PrivetFlowCommandsComplete_1 : ∃ (s : State) (h : Hedge) (a key : Nat) (l : Line) (e : Trk), (s.start.line (lineKey h a) = some l) ∧ (l.by_ = .entry key) ∧ (s.start.entry key = some e) ∧ (l.ownerWait = true) ∧ (s.start.ent (lineKey h a) = none) ∧ ((s.start.lineWriters (lineKey h a)).all (fun (i, e) => s.start.written i e) = true) :=
  ⟨st (pvt .readOwn { by_ := .entry 0, started := true, kind := .readOwn, ownerWait := true }), 0, 4096, 0, { by_ := .entry 0, started := true, kind := .readOwn, ownerWait := true }, pvtEntry .readOwn, by decide⟩

theorem witness_PrivetFlowCommandsComplete_2 : ∃ (s : State) (h : Hedge) (a : Nat) (i : Fin 64) (l : Line) (n : Snoop), (s.start.line (lineKey h a) = some l) ∧ (SMap.find l.snoops i = some n) ∧ (n.st = .tenure) :=
  ⟨st (pvt .readOwn { by_ := .entry 0, snoops := [(3, { inv := true, st := .tenure })] }), 0, 4096, 3, { by_ := .entry 0, snoops := [(3, { inv := true, st := .tenure })] }, { inv := true, st := .tenure }, by decide⟩

theorem witness_PrivetFlowCommandsComplete_3 : ∃ (s : State) (key d g : Nat) (q : Bool) (e : Trk) (rest : List Rsp), (s.start.entry key = some e) ∧ (e.arrived = .data d q g :: rest) ∧ (e.gate = .closed) :=
  ⟨st (fun m => { m with trk := [(5, { anEntry with arrived := [.data 9 true 0], gate := .closed })] }), 5, 9, 0, true, { anEntry with arrived := [.data 9 true 0], gate := .closed }, [], by decide⟩

theorem witness_PrivetFlowCommandsComplete_4 : ∃ (s : State) (key d g : Nat) (q : Bool) (e : Trk) (l : Line) (rest : List Rsp), (s.start.entry key = some e) ∧ (e.arrived = .data d q g :: rest) ∧ (e.gate = .none) ∧ (s.start.line e.x.line = some l) ∧ (l.by_ = .entry key) ∧ (l.started = true) ∧ (l.reading = true) :=
  ⟨st (fun m => { pvt .readOwn { by_ := .entry 0, started := true, reading := true } m with trk := [(0, { pvtEntry .readOwn with arrived := [.data 9 false 0] })] }), 0, 9, 0, false, { pvtEntry .readOwn with arrived := [.data 9 false 0] }, { by_ := .entry 0, started := true, reading := true }, [], by decide⟩

theorem witness_PrivetFlowCommandsComplete_5 : ∃ (s : State) (key g : Nat) (e : Trk) (rest : List Rsp), (s.start.entry key = some e) ∧ (e.arrived = .cmp g :: rest) ∧ ((s.start.setEntry key { e with arrived := rest }).written key { e with arrived := rest } = true) ∧ (e.req.kind = .ncWrite true) ∧ (e.answered = true) ∧ (e.phase = .writing) ∧ (s.start.line e.x.line = none) :=
  ⟨st (fun m => { m with trk := [(0, { pvtEntry (.ncWrite true) with arrived := [.cmp 0], answered := true, phase := .writing })] }), 0, 0, { pvtEntry (.ncWrite true) with arrived := [.cmp 0], answered := true, phase := .writing }, [], by decide⟩

theorem witness_PrivetFlowCommandsComplete_6 : ∃ (s : State) (h : Hedge) (a : Nat) (l : Line) (u : Mach), (s.start.line (lineKey h a) = some l) ∧ (s.start.lineEnded (lineKey h a) l = true) ∧ (u = (s.start.lineWriters (lineKey h a)).foldl (fun m (i, _) => m.release i) s.start) ∧ (u.mustEvict (lineKey h a) = false) ∧ (u.nextOf l.queue = none) :=
  ⟨st (fun m => { m with lines := [(64, { by_ := .evict, started := true, done := true })] }), 0, 4096, { by_ := .evict, started := true, done := true }, (st (fun m => { m with lines := [(64, { by_ := .evict, started := true, done := true })] })).start, ⟨by decide, by decide, rfl, by decide, by decide⟩⟩

theorem witness_PrivetFlowCommandsComplete_7 : ∃ (s : State) (key : Nat) (e : Trk) (l : Line), (s.start.busyRoom = true) ∧ (s.start.busyWait = [key]) ∧ (s.start.entry key = some e) ∧ (s.start.line e.x.line = some l) :=
  ⟨st (fun m => { pvt .readOwn { by_ := .evict } m with busyWait := [0] }), 0, pvtEntry .readOwn, { by_ := .evict }, by decide⟩

theorem witness_PrivetFlowCommandsComplete_8 : ∃ (s : State) (h : Hedge) (a : Nat) (l : Line) (e : PvtEnt) (u : Mach), (s.start.line (lineKey h a) = some l) ∧ (l.held = some e) ∧ (l.done = true) ∧ (s.start.allocate (lineKey h a) e = some u) :=
  ⟨st (pvt .readOwn { by_ := .evict, started := true, done := true, held := some { key := 64, m := true, pres := 8 } }), 0, 4096, { by_ := .evict, started := true, done := true, held := some { key := 64, m := true, pres := 8 } }, { key := 64, m := true, pres := 8 }, _, ⟨by decide, rfl, rfl, rfl⟩⟩

theorem witness_PrivetFlowCommandsComplete_9 : ∃ (s : State) (h : Hedge) (a : Nat), (s.start.line (lineKey h a) = none) ∧ (s.start.mustEvict (lineKey h a) = true) ∧ (s.start.evicting < s.start.maxEvict) ∧ (s.start.busyRoom = true) :=
  ⟨st (fun m => { m with toEvict := [64] }), 0, 4096, by decide⟩

theorem witness_PrivetFlowCommandsComplete_10 : ∃ (s : State), (s.start.rebuilding = false) :=
  ⟨State.reset, by decide⟩

theorem witness_PrivetFlowCommandsComplete_11 : ∃ (s : State), (s.start.rebuilding = true) :=
  ⟨st (fun m => { m with rebuilding := true }), by decide⟩

theorem witness_PrivetFlowCommandsComplete_12 : ∃ (s : State) (key k : Nat) (e : Trk) (op size x y : Nat), (s.start.entry key = some e) ∧ (e.req.kind = .atomic op size x y) ∧ (s.start.flowReady key = some k) :=
  ⟨st (pvt (.atomic 0 8 1 0) { by_ := .entry 0 }), 0, 64, pvtEntry (.atomic 0 8 1 0), 0, 8, 1, 0, by decide⟩

theorem witness_PrivetFlowCommandsComplete_13 : ∃ (s : State) (key holder : Nat) (e : Trk) (l : Line) (op size x y : Nat), (s.start.entry key = some e) ∧ (e.req.kind = .atomic op size x y) ∧ (s.start.flowReady key = none) ∧ (s.start.line e.x.line = some l) ∧ (l.by_ = .entry holder) ∧ (l.hold = true) ∧ (l.queue = [key]) :=
  ⟨st (pvt (.atomic 0 8 1 0) { by_ := .entry 1, started := true, hold := true, queue := [0] }), 0, 1, pvtEntry (.atomic 0 8 1 0), { by_ := .entry 1, started := true, hold := true, queue := [0] }, 0, 8, 1, 0, by decide⟩

theorem witness_PrivetFlowCommandsComplete_14 : ∃ (s : State) (h : Hedge) (a : Nat) (l : Line), (s.start.line (lineKey h a) = some l) ∧ (l.hold = true) ∧ (l.by_ = .evict) :=
  ⟨st (pvt .ncRead { by_ := .evict, hold := true }), 0, 4096, { by_ := .evict, hold := true }, by decide⟩

theorem witness_PrivetFlowCommandsComplete_15 : ∃ (s : State) (h : Hedge) (a key : Nat) (l : Line) (e : Trk), (s.start.line (lineKey h a) = some l) ∧ (l.hold = true) ∧ (l.by_ = .entry key) ∧ ((s.start.setLine (lineKey h a) { l with hold := false }).entry key = some e) ∧ ((s.start.setLine (lineKey h a) { l with hold := false }).written key e = true) :=
  ⟨st (pvt (.atomic 0 8 1 0) { by_ := .entry 0, hold := true }), 0, 4096, 0, { by_ := .entry 0, hold := true }, pvtEntry (.atomic 0 8 1 0), by decide⟩

theorem witness_PrivetConfigurationCommandsComplete_1 : ∃ (s : State) (h : Hedge) (v : BitVec 32), (((s.start.wr (PVT_HR_CFG_WAY_MASK h) (v.toNat % 2 ^ 16)).wrB (PVT_HR_CFG_ENABLE h) (bit v.toNat 16)).t1 = []) :=
  ⟨State.reset, 3, 0x1FFFF, by decide⟩

theorem witness_PrivetConfigurationCommandsComplete_2 : ∃ (s : State) (h : Hedge) (v : BitVec 32), (s.start.rd (PVT_HR_QUOTA_T2_QUOTA h) ≤ v.toNat % 2 ^ 12) :=
  ⟨st (fun m => m.wr (PVT_HR_QUOTA_T2_QUOTA 2) 5), 2, 5, by decide⟩

theorem witness_PrivetConfigurationCommandsComplete_3 : ∃ (s : State) (h : Hedge) (v : BitVec 32), (v.toNat % 2 ^ 12 < s.start.rd (PVT_HR_QUOTA_T2_QUOTA h)) ∧ ((s.start.wr (PVT_HR_QUOTA_T2_QUOTA h) (v.toNat % 2 ^ 12)).hrT2 h ≤ v.toNat % 2 ^ 12 * 2 ^ 20) :=
  ⟨st (fun m => m.wr (PVT_HR_QUOTA_T2_QUOTA 2) 5), 2, 4, by decide⟩

theorem witness_PrivetConfigurationCommandsComplete_4 : ∃ (s : State) (h : Hedge), (s.start.quotaWalk.contains h.val = true) ∧ (s.start.hrT2 h ≤ s.start.rd (PVT_HR_QUOTA_T2_QUOTA h) * 2 ^ 20) :=
  ⟨st (fun m => { m with quotaWalk := [1] }), 1, by decide⟩

theorem witness_PrivetConfigurationCommandsComplete_5 : ∃ (s : State) (h : Hedge) (i : Fin 64) (v : Word), (s.start.flag (PVT_MEMBER_VALID h i) = false) :=
  ⟨State.reset, 0, 63, 4096, by decide⟩

theorem witness_PrivetConfigurationCommandsComplete_6 : ∃ (s : State) (h : Hedge) (i : Fin 64) (v : Word), (s.start.flag (PVT_MEMBER_VALID h i) = true) ∧ (bit v.toNat 1 = s.start.flag (PVT_MEMBER_KIND h i)) ∧ (v.toNat / 16 % 4096 = s.start.rd (PVT_MEMBER_ID h i)) ∧ (bit v.toNat 0 = false) :=
  ⟨st (pvt .ncRead { by_ := .evict }), 0, 3, 0, by decide⟩

theorem witness_PrivetConfigurationCommandsComplete_7 : ∃ (s : State) (h : Hedge) (i : Fin 64) (v : Word), (s.start.flag (PVT_MEMBER_VALID h i) = false) ∧ (bit v.toNat 0 = true) ∧ (bit v.toNat 1 = false) ∧ (s.start.isUp (v.toNat / 16 % 4096) = true) ∧ ((s.start.deadWalks.any fun x => x.hr == h.val && x.member == i.val) = false) ∧ (((List.range 4).any fun h' => (List.range 64).any fun i' => !(h' == h.val && i' == i.val) && s.start.slotNames h' i' false (v.toNat / 16 % 4096)) = false) :=
  ⟨st live, 0, 3, 1, by decide⟩

theorem witness_PrivetConfigurationCommandsComplete_8 : ∃ (s : State) (v : BitVec 32), (bit v.toNat 0 = true) :=
  ⟨State.reset, 1, by decide⟩

theorem witness_PrivetConfigurationCommandsComplete_9 : ∃ (s : State) (v : BitVec 32), (bit v.toNat 0 = false) ∧ ((List.range 4).any (fun h => s.start.flag (PVT_HR_CFG_ENABLE h)) = false) :=
  ⟨State.reset, 0, by decide⟩

theorem witness_PrivetConfigurationCommandsComplete_10 : ∃ (s : State) (v : BitVec 32), (s.start.flag PVT_CTRL_ENABLE = false) ∧ (v.toNat % 32 = 0) ∧ (s.start.t2 = []) :=
  ⟨State.reset, 0, by decide⟩

theorem witness_PrivetConfigurationCommandsComplete_11 : ∃ (s : State) (v : BitVec 32), (s.start.flag PVT_CTRL_ENABLE = false) ∧ (20 ≤ v.toNat % 32) ∧ (s.start.t2 = []) :=
  ⟨State.reset, 20, by decide⟩

theorem witness_PrivetConfigurationCommandsComplete_12 : ∃ (s : State) (h : Hedge) (i : Fin 64) (cause : Fin 4), (s.start.flag (PVT_MEMBER_VALID h i) = true) ∧ (2 ≤ cause.val) :=
  ⟨st (pvt .ncRead { by_ := .evict }), 0, 3, 2, by decide⟩

theorem witness_PrivetConfigurationCommandsComplete_13 : ∃ (s : State) (h : Hedge) (i : Fin 64) (cause : Fin 4), (s.start.flag (PVT_MEMBER_VALID h i) = true) ∧ (s.start.rd WKT_BOOT_STATUS_STAGE = 3) ∧ (s.start.boot.orderly = none) ∧ (s.start.pw.committed = false) :=
  ⟨st (pvt .ncRead { by_ := .evict }), 0, 3, 0, by decide⟩

theorem witness_PrivetConfigurationCommandsComplete_14 : ∃ (s : State), (s.start.deadWalks.filter s.start.walkable = []) :=
  ⟨st (fun m => { m.updPx 0 (fun x => { x with flushing := true }) with deadWalks := [{ hr := 0, member := 3 }] }), by decide⟩

theorem witness_PrivetConfigurationCommandsComplete_15 : ∃ (s : State) (h : Hedge) (i : Fin 64), ((s.start.deadWalks.any fun w => w.hr == h.val && w.member == i.val && w.passed) = true) :=
  ⟨st (fun m => { m with deadWalks := [{ hr := 0, member := 3, passed := true }] }), 0, 3, by decide⟩

theorem witness_PrivetConfigurationCommandsComplete_16 : ∃ (s : State) (h : Hedge) (i : Fin 64), ((s.start.deadWalks.any fun w => w.hr == h.val && w.member == i.val) = false) ∧ (s.start.memberUp h i = true) :=
  ⟨st live, 0, 0, by decide⟩

theorem witness_PrivetConfigurationCommandsComplete_17 : ∃ (s : State) (h : Hedge) (a : Nat) (i : Fin 64) (l : Line) (n : Snoop), (s.start.line (lineKey h a) = some l) ∧ (SMap.find l.snoops i = some n) ∧ (n.st = .sent) ∧ (((s.start.raise PVT_LOSS_EVENT_SNOOP_TIMEOUT).count (CNT_PVT h 19) 1).rawEnt (lineKey h a) = none) :=
  ⟨st (pvt .readOwn { by_ := .entry 0, started := true, snoops := [(3, { inv := true, st := .sent })] }), 0, 4096, 3, { by_ := .entry 0, started := true, snoops := [(3, { inv := true, st := .sent })] }, { inv := true, st := .sent }, by decide⟩

theorem witness_PrivetConfigurationCommandsComplete_18 : ∃ (s : State) (h : Hedge) (a : Nat) (i : Fin 64) (l : Line) (n : Snoop), (s.start.line (lineKey h a) = some l) ∧ (SMap.find l.snoops i = some n) ∧ (n.st = .down) ∧ (s.start.memberUp h i = true) :=
  ⟨st (pvt .readOwn { by_ := .entry 0, started := true, snoops := [(3, { inv := true, st := .down })] }), 0, 4096, 3, { by_ := .entry 0, started := true, snoops := [(3, { inv := true, st := .down })] }, { inv := true, st := .down }, by decide⟩

theorem witness_PrivetRasAndSpeculationCommandsComplete_1 : ∃ (s : State) (sets : List Nat), (sets = (s.start.ring.map RingRec.set).eraseDups) :=
  ⟨State.reset, [], by decide⟩

theorem witness_PrivetRasAndSpeculationCommandsComplete_2 : ∃ (s : State) (sets : List Nat), (s.start.recovering = false) ∧ (sets = (s.start.ring.map RingRec.set).eraseDups) :=
  ⟨State.reset, [], by decide⟩

theorem witness_PrivetRasAndSpeculationCommandsComplete_3 : ∃ (s : State), (s.start.recovering = true) ∧ (s.start.recover = []) :=
  ⟨st (fun m => { m with recovering := true }), by decide⟩

theorem witness_PrivetRasAndSpeculationCommandsComplete_4 : ∃ (s : State) (set : Fin 262144) (way : Fin 16) (e : PvtEnt) (u : Mach), (SMap.find s.start.t1 (set.val * 16 + way.val) = some e) ∧ (u = s.start.error { cls := .corrected, block := 4, code := 2, loc := set.val % 64 + way.val * 64 }) :=
  ⟨st (fun m => { m with t1 := [(2, { key := 0, m := true, pres := 1 })] }), 0, 2, { key := 0, m := true, pres := 1 }, _, ⟨by decide, rfl⟩⟩

theorem witness_PrivetRasAndSpeculationCommandsComplete_6 : ∃ (s : State) (bank : Fin 64) (way : Fin 16), (s.start.t1.filter (fun (i, _) => i / 16 % 64 == bank.val && i % 16 == way.val) = []) ∧ (SMap.get 0 s.start.sparesUsed bank < 2) :=
  ⟨st (fun m => { m with sparesUsed := [(63, 1)] }), 63, 15, by decide⟩

theorem witness_PrivetRasAndSpeculationCommandsComplete_7 : ∃ (s : State) (b : Nat), (s.start.t2On = true) ∧ (b < 2 ^ (s.start.rd PVT_T2_CFG_LOG2_ENTRIES - 2)) ∧ (s.start.lostBuckets.contains b = false) ∧ (s.start.lostBuckets.length < 256) :=
  ⟨st (fun m => m.wr PVT_T2_CFG_LOG2_ENTRIES 20), 262143, by decide⟩

theorem witness_PrivetRasAndSpeculationCommandsComplete_8 : ∃ (s : State) (d : Dom), (s.start.flag LVR_SPEC_CFG_ADAPT_EN = true) ∧ (2 ^ max 6 (s.start.rd LVR_SPEC_CFG_WINDOW_LOG2) ≤ (SMap.get {} s.start.specWin d).eligible) ∧ (s.start.rd LVR_SPEC_CFG_HI * 2 ^ max 6 (s.start.rd LVR_SPEC_CFG_WINDOW_LOG2) < (SMap.get {} s.start.specWin d).conflicts * 256) ∧ ({ s.start with specWin := SMap.del s.start.specWin d }.specOn d = true) :=
  ⟨st (fun m => { ((m.wr LVR_SPEC_CFG_ADAPT_EN 1).wr LVR_SPEC_CFG_WINDOW_LOG2 6).wr LVR_SPEC_CFG_HI 64 with specWin := [(5, { eligible := 64, conflicts := 17 })] }), 5, by decide⟩

theorem witness_PrivetRasAndSpeculationCommandsComplete_9 : ∃ (s : State) (d : Dom), (s.start.flag LVR_SPEC_CFG_ADAPT_EN = true) ∧ (2 ^ max 6 (s.start.rd LVR_SPEC_CFG_WINDOW_LOG2) ≤ (SMap.get {} s.start.specWin d).eligible) ∧ ((SMap.get {} s.start.specWin d).conflicts * 256 < s.start.rd LVR_SPEC_CFG_LO * 2 ^ max 6 (s.start.rd LVR_SPEC_CFG_WINDOW_LOG2)) ∧ ({ s.start with specWin := SMap.del s.start.specWin d }.specOn d = false) :=
  ⟨st (fun m => { (((m.wr LVR_SPEC_CFG_ADAPT_EN 1).wr LVR_SPEC_CFG_WINDOW_LOG2 6).wr LVR_SPEC_CFG_LO 16).setSpec 5 true with specWin := [(5, { eligible := 64, conflicts := 3 })] }), 5, by decide⟩

theorem witness_PrivetRasAndSpeculationCommandsComplete_10 : ∃ (s : State) (v : BitVec 32), (v.toNat / 2 ^ 16 % 256 < v.toNat / 2 ^ 8 % 256) ∧ (bit v.toNat 0 = true) ∧ (s.start.flag LVR_SPEC_CFG_ADAPT_EN = true) :=
  ⟨st (fun m => m.wr LVR_SPEC_CFG_ADAPT_EN 1), 0x00104001, by decide⟩

theorem witness_RuleAndMirrorCommandsComplete_1 : ∃ (s : State) (c : PendChange) (rest : List PendChange) (d n : Nat) (new : Option Casement) (e : EntryRef) (u : Mach), (s.start.changes = c :: rest) ∧ (c.needWalk = false) ∧ (c.change = .slot d n new) ∧ (c.entry = some e) ∧ (u = { s.start with changes := rest }.commit (.slot d n new)) :=
  ⟨st (fun m => { m with changes := [{ change := .slot 1 0 none, needWalk := false, entry := some { dom := 0, q := 0, idx := 0 } }] }), { change := .slot 1 0 none, needWalk := false, entry := some { dom := 0, q := 0, idx := 0 } }, [], 1, 0, none, { dom := 0, q := 0, idx := 0 }, _, ⟨by decide, rfl, rfl, rfl, rfl⟩⟩

theorem witness_RuleAndMirrorCommandsComplete_2 : ∃ (s : State) (c : PendChange) (rest : List PendChange) (d n : Nat) (o : Casement) (new : Option Casement) (l : List Nat), (s.start.changes = c :: rest) ∧ (c.needWalk = true) ∧ (c.change = .slot d n new) ∧ (SMap.find (s.start.dom d).cas n = some o) ∧ (c.walk = some l) ∧ (l.any s.start.toEvict.contains = false) :=
  ⟨st (fun m => { m with doms := [(1, { state := .active, cas := [(0, aCas)] })], changes := [{ change := .slot 1 0 none, needWalk := true, walk := some [5], entry := none }] }), { change := .slot 1 0 none, needWalk := true, walk := some [5], entry := none }, [], 1, 0, aCas, none, [5], by decide⟩

theorem witness_RuleAndMirrorCommandsComplete_3 : ∃ (s : State) (i : Nat) (f : RuleFence) (e : EntryRef), (s.start.fences[i]? = some f) ∧ ((f.epochs.all fun (x : Nat × Nat) => s.start.fenceMet x.1 x.2) = true) ∧ (f.entry = some e) ∧ (f.hdm = none) ∧ (f.thread = none) :=
  ⟨st (fun m => { m with fences := [{ entry := some { dom := 0, q := 0, idx := 0 }, thread := none, epochs := [(0, 1)] }] }), 0, { entry := some { dom := 0, q := 0, idx := 0 }, thread := none, epochs := [(0, 1)] }, { dom := 0, q := 0, idx := 0 }, by decide⟩

theorem witness_RuleAndMirrorCommandsComplete_4 : ∃ (s : State) (k : Fin 512) (i : Fin 2), ((s.start.mirPair k).st i ≠ .failed) :=
  ⟨st (fun m => { m with mir := [(511, { st0 := .inSync, st1 := .inSync })] }), 511, 1, by decide⟩

theorem witness_RuleAndMirrorCommandsComplete_5 : ∃ (s : State) (key b : Nat) (e : Trk) (x : Xlat), (s.start.entry key = some e) ∧ (e.badMember = some b) ∧ (e.reissued = false) ∧ (s.start.otherMember e.x = some x) :=
  ⟨st (fun m => { m with mir := [(4, { m0 := { port := 16 }, m1 := { port := 32 }, size := 4096, st0 := .inSync, st1 := .inSync })], trk := [(0, { anEntry with x := { port := 16, dpa := 0, pair := some 4 }, badMember := some 0 })] }), 0, 0, { anEntry with x := { port := 16, dpa := 0, pair := some 4 }, badMember := some 0 }, { port := 32, dpa := 0, pair := some 4, member := 1 }, by decide⟩

theorem witness_RuleAndMirrorCommandsComplete_6 : ∃ (s : State) (v : BitVec 32) (p : MirPair), (s.start.mirPair (s.start.rd CSM_MIR_SEL_PAIR) = p) ∧ (v.toNat % 4 = p.st0.code) ∧ (v.toNat / 4 % 4 = p.st1.code) :=
  ⟨State.reset, 21, {}, by decide⟩

theorem witness_RuleAndMirrorCommandsComplete_7 : ∃ (s : State) (v : BitVec 32) (p : MirPair), (s.start.mirPair (s.start.rd CSM_MIR_SEL_PAIR) = p) ∧ (p.st0 = .inSync) ∧ (p.st1 = .failed) ∧ (v.toNat % 4 = 0) ∧ (v.toNat / 4 % 4 = 2) :=
  ⟨st (fun m => { m with mir := [(0, { st0 := .inSync, st1 := .failed })] }), 8, { st0 := .inSync, st1 := .failed }, by decide⟩

theorem witness_RuleAndMirrorCommandsComplete_8 : ∃ (s : State) (k : Fin 512), ((s.start.mirPair k).st0 = .resync ∨ (s.start.mirPair k).st1 = .resync) :=
  ⟨st (fun m => { m with mir := [(7, { st1 := .resync })] }), 7, by decide⟩

theorem witness_RuleAndMirrorCommandsComplete_9 : ∃ (s : State) (v : BitVec 32) (i : Nat), (i = s.start.rd CSM_ILV_SEL_SET) ∧ (s.start.ilvRefs i = 0) ∧ (v.toNat % 8 ≤ 4) ∧ (v.toNat / 16 % 8 ≤ 6) :=
  ⟨State.reset, 0x64, 0, by decide⟩

theorem witness_RuleAndMirrorCommandsComplete_10 : ∃ (s : State) (v : BitVec 64) (j : Nat), (j = s.start.rd CSM_MIR_SEL_PAIR) ∧ (s.start.mirRefs j = 0) :=
  ⟨State.reset, 8192, 0, by decide⟩

theorem witness_RuleAndMirrorCommandsComplete_11 : ∃ (s : State) (v : BitVec 32), (bit v.toNat 0 = true) :=
  ⟨State.reset, 1, by decide⟩

theorem witness_RuleAndMirrorCommandsComplete_13 : ∃ (s : State) (d : Dom) (h : HingeOp), (SMap.find s.start.hinges d = some h) ∧ (h.op = 1) ∧ (h.draining = true) ∧ ((s.start.freezeThreads d).domDrained d = true) ∧ (h.sweep = none) :=
  ⟨st (fun m => { m with hinges := [(1, { op := 1, draining := true })] }), 1, { op := 1, draining := true }, by decide⟩

theorem witness_RuleAndMirrorCommandsComplete_14 : ∃ (s : State) (d : Dom) (h : HingeOp) (x : Nat × Nat), (SMap.find s.start.hinges d = some h) ∧ (h.op = 1) ∧ (h.draining = true) ∧ ((s.start.freezeThreads d).domDrained d = true) ∧ (h.sweep = some x) :=
  ⟨st (fun m => { m with hinges := [(1, { op := 1, draining := true, sweep := some (0, 3) })] }), 1, { op := 1, draining := true, sweep := some (0, 3) }, (0, 3), by decide⟩

theorem witness_RuleAndMirrorCommandsComplete_15 : ∃ (s : State) (d : Dom) (h : HingeOp) (hr i : Nat), (SMap.find s.start.hinges d = some h) ∧ (h.sweeping = true) ∧ (h.sweep = some (hr, i)) ∧ (h.todo = none) :=
  ⟨st (fun m => { m with hinges := [(1, { op := 1, sweeping := true, sweep := some (0, 3) })] }), 1, { op := 1, sweeping := true, sweep := some (0, 3) }, 0, 3, by decide⟩

theorem witness_RuleAndMirrorCommandsComplete_16 : ∃ (s : State) (d : Dom) (h : HingeOp) (x : Nat × Nat) (l : List Nat), (SMap.find s.start.hinges d = some h) ∧ (h.sweeping = true) ∧ (h.sweep = some x) ∧ (h.todo = some l) ∧ (l.any s.start.toEvict.contains = false) :=
  ⟨st (fun m => { m with hinges := [(1, { op := 1, sweeping := true, sweep := some (0, 3), todo := some [] })] }), 1, { op := 1, sweeping := true, sweep := some (0, 3), todo := some [] }, (0, 3), [], by decide⟩

theorem witness_LouvreCommandsComplete_1 : ∃ (s : State) (i : Nat) (b : List Byte), (i = s.start.rd LVR_ENT_SEL_INDEX) ∧ (b = s.start.lvrStaged) ∧ (bit (bget b 4 2) 0 = true) ∧ (s.start.lvrStatus i b = 0) ∧ (SMap.find s.start.lvr i = none) :=
  ⟨st (fun m => m.setReg (LVR_ENT_REC 0) 0x100100000), 0, _, ⟨by decide, rfl, by decide, by decide, by decide⟩⟩

theorem witness_LouvreCommandsComplete_2 : ∃ (s : State) (i : Nat), (i = s.start.rd LVR_ENT_SEL_INDEX) ∧ (bit (bget s.start.lvrStaged 4 2) 0 = true) ∧ (s.start.lvrStatus i s.start.lvrStaged ≠ 0) :=
  ⟨st (fun m => m.setReg (LVR_ENT_REC 0) 0x300000000), 0, by decide⟩

theorem witness_LouvreCommandsComplete_4 : ∃ (s : State) (i : Nat) (x : Sampler), (s.start.smp = [(i, x)]) ∧ (s.start.tbNs % x.period = 0) ∧ (x.due s.start.tbNs = true) :=
  ⟨st (fun m => { m with smp := [(3, { kind := 4 })] }), 3, { kind := 4 }, by decide⟩

theorem witness_LouvreCommandsComplete_5 : ∃ (s : State) (i : Nat), (i = s.start.rd LVR_SMP_SEL_INDEX) :=
  ⟨State.reset, 0, by decide⟩

theorem witness_LouvreCommandsComplete_6 : ∃ (s : State) (v : BitVec 32) (i : Nat), (i = s.start.rd LVR_SMP_SEL_INDEX) ∧ (v.toNat ≠ (s.start.sampler i).target) :=
  ⟨State.reset, 5, 0, by decide⟩

theorem witness_DoorbellAndEntryCommandsComplete_1 : ∃ (s : State) (d : Dom) (q : Fin 64) (mem : QMem), (s.start.takesBell d q = true) :=
  ⟨st (fun m => (que 0 [] m)), 0, 1, {}, by decide⟩

theorem witness_DoorbellAndEntryCommandsComplete_2 : ∃ (s : State) (d : Dom) (q : Fin 64) (mem : QMem), (s.start.takesBell d q = false) ∧ ((s.start.dom d).state = .frozen) :=
  ⟨st (fun m => (que 0 [] m).updDom 0 fun r => { r with state := .frozen }), 0, 1, {}, by decide⟩

theorem witness_DoorbellAndEntryCommandsComplete_3 : ∃ (s : State) (d : Dom) (c : Fin 64) (head : Option Nat) (x : Cq), (s.start.cqOf d c = some x) ∧ ((s.start.dom d).state = .active) ∧ (s.start.queuesRun = true) ∧ (x.error = false) :=
  ⟨st (que 0 []), 0, 1, some 5, aCq, by decide⟩

theorem witness_DoorbellAndEntryCommandsComplete_4 : ∃ (s : State) (d : Dom) (q : Fin 64) (i : BitVec 32) (mem : QMem) (x : Sq), (s.start.sq d q = some x) :=
  ⟨st (que 0 []), 0, 1, 0, {}, aSq, by decide⟩

theorem witness_DoorbellAndEntryCommandsComplete_5 : ∃ (s : State) (mem : QMem) (d q : Nat), (s.start.nextStart (fun d q => !isMover (s.start.frontOp d q)) s.start.qLastDom s.start.qLast = some (d, q)) ∧ (s.start.frontRun d q = false) :=
  ⟨st (fun m => (que 0 [] m).updSq 0 1 fun x => { x with cache := [{ idx := 0, bytes := ent 0 [], gen := 0 }], fetch := 2 }), {}, 0, 1, by decide⟩

theorem witness_DoorbellAndEntryCommandsComplete_6 : ∃ (s : State) (d : Dom) (q : Fin 64) (idx : BitVec 32) (hsh : Option Nat) (r : Run) (x : EntRes), (s.start.run (eref d q idx) = some r) ∧ (r.work = .finished x) ∧ (s.start.entryBusy (eref d q idx) = false) ∧ (r.gen = (s.start.dom d).gen) :=
  ⟨st (fun m => (que 0 [] m).updSq 0 0 fun x => { x with run := [{ aRun 0 [] with work := .finished {} }] }), 0, 0, 0, none, { aRun 0 [] with work := .finished {} }, {}, by decide⟩

theorem witness_DoorbellAndEntryCommandsComplete_7 : ∃ (s : State) (d : Dom) (c : Fin 64) (x : Cq), (s.start.cqOf d c = some x) ∧ (x.irq = true) ∧ (x.coalT ≠ 0) ∧ (x.since ≠ 0) :=
  ⟨st (fun m => (que 0 [] m).updCq 0 1 fun x => { x with since := 1 }), 0, 1, { aCq with since := 1 }, by decide⟩

theorem witness_DoorbellAndEntryCommandsComplete_8 : ∃ (s : State) (d : Dom) (v : BitVec 32), ((s.start.dom d).state ≠ .free) ∧ (bit (s.start.qif d).cfg 16 = false) ∧ (bit (v.toNat &&& 0x13F1F) 16 = true) ∧ ((s.start.updQif d fun x => { x with cfg := v.toNat &&& 0x13F1F }).qif d = { s.start.qif d with cfg := v.toNat &&& 0x13F1F }) ∧ ((s.start.qif d).closing = false) :=
  ⟨State.reset, 0, 0x10C0C, by decide⟩

theorem witness_DataEntryCommandsComplete_1 : ∃ (s : State) (d : Dom) (q : Fin 64) (idx : BitVec 32) (r : Run), (s.start.ready (eref d q idx) 0x00 r) :=
  ⟨st (que 0x00 []), 0, 0, 0, aRun 0x00 [], by decide⟩

theorem witness_DataEntryCommandsComplete_2 : ∃ (s : State) (d : Dom) (q : Fin 64) (idx : BitVec 32) (r : Run), (s.start.ready (eref d q idx) 0x01 r) :=
  ⟨st (que 0x01 []), 0, 0, 0, aRun 0x01 [], by decide⟩

theorem witness_DataEntryCommandsComplete_3 : ∃ (s : State) (d : Dom) (q : Fin 64) (idx : BitVec 32) (r : Run), (s.start.ready (eref d q idx) 0x10 r) :=
  ⟨st (que 0x10 []), 0, 0, 0, aRun 0x10 [], by decide⟩

theorem witness_DataEntryCommandsComplete_4 : ∃ (s : State) (d : Dom) (q : Fin 64) (idx : BitVec 32) (r : Run), (s.start.ready (eref d q idx) 0x11 r) :=
  ⟨st (que 0x11 []), 0, 0, 0, aRun 0x11 [], by decide⟩

theorem witness_DataEntryCommandsComplete_5 : ∃ (s : State) (d : Dom) (q : Fin 64) (idx : BitVec 32) (r : Run), (s.start.ready (eref d q idx) 0x12 r) :=
  ⟨st (que 0x12 []), 0, 0, 0, aRun 0x12 [], by decide⟩

theorem witness_DataEntryCommandsComplete_6 : ∃ (s : State) (d : Dom) (q : Fin 64) (idx : BitVec 32) (r : Run), (s.start.ready (eref d q idx) 0x20 r) ∧ (reservedSet r.bytes [(0x11, 15)] = false) ∧ (1 ≤ bget r.bytes 0x10 1) ∧ (bget r.bytes 0x10 1 ≤ 7) ∧ (bget r.bytes 0x10 1 + 1 ≤ entLen r.bytes) ∧ (elemsOk r.bytes (bget r.bytes 0x10 1) 8 0 = true) :=
  ⟨st (que 0x20 [1]), 0, 0, 0, aRun 0x20 [1], by decide⟩

theorem witness_DataEntryCommandsComplete_7 : ∃ (s : State) (d : Dom) (q : Fin 64) (idx : BitVec 32) (r : Run), (s.start.ready (eref d q idx) 0x30 r) ∧ (s.start.runRefusal d r.bytes = none) :=
  ⟨st (fun m => { que 0x30 [0, 0, 1] m with seqDom := [(0, { base := 1, size := 1, maxThreads := 1 })] }), 0, 0, 0, aRun 0x30 [0, 0, 1], by decide⟩

theorem witness_DataEntryCommandsComplete_8 : ∃ (s : State) (d : Dom) (q : Fin 64) (idx : BitVec 32) (r : Run), (s.start.ready (eref d q idx) 0x40 r) ∧ (fenceBad r.bytes = false) ∧ (fenceKind r.bytes = 0) :=
  ⟨st (que 0x40 []), 0, 0, 0, aRun 0x40 [], by decide⟩

theorem witness_DataEntryCommandsComplete_9 : ∃ (s : State) (d : Dom) (q : Fin 64) (idx : BitVec 32) (r : Run), (s.start.ready (eref d q idx) 0x40 r) ∧ (fenceBad r.bytes = false) ∧ (fenceKind r.bytes = 1) ∧ (bit (bget r.bytes 0x11 1) 0 = false) ∧ (s.start.mayQueue d (bodyDom (eref d q idx) r.bytes 0x12) = true) :=
  ⟨st (que 0x40 [1]), 0, 0, 0, aRun 0x40 [1], by decide⟩

theorem witness_DataEntryCommandsComplete_10 : ∃ (s : State) (d : Dom) (q : Fin 64) (idx : BitVec 32) (r : Run), (s.start.ready (eref d q idx) 0x40 r) ∧ (fenceBad r.bytes = false) ∧ (fenceKind r.bytes = 2) ∧ (bit (bget r.bytes 0x11 1) 0 = false) ∧ (s.start.mayQueue d (bodyDom (eref d q idx) r.bytes 0x12) = true) :=
  ⟨st (que 0x40 [2]), 0, 0, 0, aRun 0x40 [2], by decide⟩

theorem witness_QueueAdminCommandsComplete_1 : ∃ (s : State) (d : Dom) (idx : BitVec 32) (r : Run) (t id : Nat), (s.start.ready (eref d 0 idx) 0x80 r) ∧ (t = bodyDom (eref d 0 idx) r.bytes 0x10) ∧ (id = bget r.bytes 0x12 1) ∧ (reservedSet r.bytes [(0x30, 16)] = false) ∧ (s.start.mayQueue d t = true) ∧ (id ≠ 0) ∧ (id ≤ 63) ∧ (s.start.sq t id = none) ∧ (12 ≤ bget r.bytes 0x13 1) ∧ (bget r.bytes 0x13 1 ≤ 24) ∧ (bget r.bytes 0x14 1 = 0xFF) ∧ (s.start.sqs.length < 65536) :=
  ⟨st (que 0x80 [1, 0, 5, 12, 255]), 0, 0, aRun 0x80 [1, 0, 5, 12, 255], 1, 5, by decide⟩

theorem witness_QueueAdminCommandsComplete_2 : ∃ (s : State) (d : Dom) (idx : BitVec 32) (r : Run) (t id : Nat), (s.start.ready (eref d 0 idx) 0x82 r) ∧ (t = bodyDom (eref d 0 idx) r.bytes 0x10) ∧ (id = bget r.bytes 0x12 1) ∧ (reservedSet r.bytes [(0x30, 16), (0x14, 1), (0x28, 8)] = false) ∧ (bget r.bytes 0x15 1 < 2) ∧ (s.start.mayQueue d t = true) ∧ (id ≠ 0) ∧ (id ≤ 63) ∧ (s.start.cqOf t id = none) ∧ (12 ≤ bget r.bytes 0x13 1) ∧ (bget r.bytes 0x13 1 ≤ 24) ∧ (s.start.cqs.length < 65536) :=
  ⟨st (que 0x82 [1, 0, 5, 24]), 0, 0, aRun 0x82 [1, 0, 5, 24], 1, 5, by decide⟩

theorem witness_QueueAdminCommandsComplete_3 : ∃ (s : State) (d : Dom) (idx : BitVec 32) (r : Run) (t id : Nat) (x : Sq), (s.start.ready (eref d 0 idx) 0x81 r) ∧ (t = bodyDom (eref d 0 idx) r.bytes 0x10) ∧ (id = bget r.bytes 0x12 1) ∧ (reservedSet r.bytes [(0x18, 8)] = false) ∧ (s.start.mayQueue d t = true) ∧ (id ≠ 0) ∧ (id ≤ 63) ∧ (s.start.sq t id = some x) ∧ (x.closing = false) :=
  ⟨st (que 0x81 [255, 255, 1]), 0, 0, aRun 0x81 [255, 255, 1], 0, 1, aSq, by decide⟩

theorem witness_QueueAdminCommandsComplete_4 : ∃ (s : State) (d : Dom) (idx : BitVec 32) (r : Run) (t id : Nat) (x : Cq), (s.start.ready (eref d 0 idx) 0x83 r) ∧ (t = bodyDom (eref d 0 idx) r.bytes 0x10) ∧ (id = bget r.bytes 0x12 1) ∧ (reservedSet r.bytes [(0x18, 8)] = false) ∧ (s.start.mayQueue d t = true) ∧ (id ≠ 0) ∧ (id ≤ 63) ∧ (s.start.cqOf t id = some x) ∧ (x.ovf = []) ∧ ((s.start.sqIds t).any (fun q => (s.start.sq t q).any fun s => s.cq == some id) = false) :=
  ⟨st (que 0x83 [255, 255, 1]), 0, 0, aRun 0x83 [255, 255, 1], 0, 1, aCq, by decide⟩

theorem witness_QueueAdminCommandsComplete_5 : ∃ (s : State) (d : Dom) (idx : BitVec 32) (r : Run) (t id : Nat) (x : Sq), (s.start.ready (eref d 0 idx) 0x84 r) ∧ (t = bodyDom (eref d 0 idx) r.bytes 0x10) ∧ (id = bget r.bytes 0x12 1) ∧ (reservedSet r.bytes [(0x18, 8)] = false) ∧ (s.start.mayQueue d t = true) ∧ (id ≤ 63) ∧ (bget r.bytes 0x13 1 = 0) ∧ (s.start.sq t id = some x) ∧ (x.closing = false) :=
  ⟨st (que 0x84 [255, 255, 1]), 0, 0, aRun 0x84 [255, 255, 1], 0, 1, aSq, by decide⟩

theorem witness_QueueAdminCommandsComplete_6 : ∃ (s : State) (d : Dom) (idx : BitVec 32) (r : Run) (t id : Nat) (x : Cq), (s.start.ready (eref d 0 idx) 0x84 r) ∧ (t = bodyDom (eref d 0 idx) r.bytes 0x10) ∧ (id = bget r.bytes 0x12 1) ∧ (reservedSet r.bytes [(0x18, 8)] = false) ∧ (s.start.mayQueue d t = true) ∧ (id ≤ 63) ∧ (bget r.bytes 0x13 1 = 1) ∧ (s.start.cqOf t id = some x) ∧ (x.held = false) :=
  ⟨st (que 0x84 [255, 255, 1, 1]), 0, 0, aRun 0x84 [255, 255, 1, 1], 0, 1, aCq, by decide⟩

theorem witness_QueueAdminCommandsComplete_7 : ∃ (s : State) (d : Dom) (idx : BitVec 32) (mem : QMem) (r : Run) (t id : Nat) (x : Sq), (s.start.ready (eref d 0 idx) 0x85 r) ∧ (t = bodyDom (eref d 0 idx) r.bytes 0x10) ∧ (id = bget r.bytes 0x12 1) ∧ (reservedSet r.bytes [(0x18, 8)] = false) ∧ (bget r.bytes 0x13 1 = 0) ∧ (s.start.mayQueue d t = true) ∧ (id ≤ 63) ∧ (s.start.sq t id = some x) :=
  ⟨st (que 0x85 [255, 255, 1]), 0, 0, {}, aRun 0x85 [255, 255, 1], 0, 1, aSq, by decide⟩

theorem witness_DomainAndHingeCommandsComplete_1 : ∃ (s : State) (idx : BitVec 32) (r : Run) (n p : Nat), (s.start.ready (eref 0 0 idx) 0x90 r) ∧ (reservedSet r.bytes [(0x19, 7)] = false) ∧ (bget r.bytes 0x10 1 = 1) ∧ (bget r.bytes 0x11 1 < 32) ∧ (bget r.bytes 0x14 2 = 0) ∧ (bget r.bytes 0x16 2 = 0) ∧ (bget r.bytes 0x18 1 = 1) ∧ (bget r.bytes 0x12 2 = n) ∧ (bget r.bytes 0x20 2 = p) ∧ (((List.range 16).any fun i => 1 ≤ i && bget r.bytes (0x20 + 2 * i) 2 != 0) = false) ∧ (n ≠ 0) ∧ (n < 4096) ∧ ((s.start.dom n).state = .free) ∧ (s.start.isUp p = true) ∧ (s.start.portDom p = none) :=
  ⟨st (fun m => { que 0x90 [1, 0, 5, 0, 0, 0, 0, 0, 1, 0, 0, 0, 0, 0, 0, 0, 0, 0] m with domPort := [] }), 0, aRun 0x90 [1, 0, 5, 0, 0, 0, 0, 0, 1, 0, 0, 0, 0, 0, 0, 0, 0, 0], 5, 0, by decide⟩

theorem witness_DomainAndHingeCommandsComplete_2 : ∃ (s : State) (d : Dom) (idx : BitVec 32) (r : Run) (t : Nat) (u v : Mach), (s.start.ready (eref d 0 idx) 0x91 r) ∧ (t = bodyDom (eref d 0 idx) r.bytes 0x10) ∧ (reservedSet r.bytes [(0x13, 13)] = false) ∧ (bget r.bytes 0x12 1 < 2) ∧ (s.start.mayCommand d t = true) ∧ (s.start.domFree t = true) ∧ (u = (s.start.resetSteps t .resetting).updDom t fun r' => { r' with thenDisable := bit (bget r.bytes 0x12 1) 0, viol := {} }) ∧ (v = (u.sqIds t).foldl (fun m q => m.sqClose t q) u) :=
  ⟨st (que 0x91 [1]), 0, 0, aRun 0x91 [1], 1, _, _, ⟨by decide, by decide, by decide, by decide, by decide, by decide, rfl, rfl⟩⟩

theorem witness_DomainAndHingeCommandsComplete_3 : ∃ (s : State) (d : Dom) (idx : BitVec 32) (r : Run) (t : Nat) (u : Mach), (s.start.ready (eref d 0 idx) 0x92 r) ∧ (t = bodyDom (eref d 0 idx) r.bytes 0x10) ∧ (reservedSet r.bytes [(0x12, 14)] = false) ∧ (s.start.mayCommand d t = true) ∧ (s.start.children t = []) ∧ (s.start.domFree t = true) ∧ (u = s.start.resetSteps t .destroying) :=
  ⟨st (que 0x92 [1]), 0, 0, aRun 0x92 [1], 1, _, ⟨by decide, by decide, by decide, by decide, by decide, by decide, rfl⟩⟩

theorem witness_DomainAndHingeCommandsComplete_4 : ∃ (s : State) (d : Dom) (idx : BitVec 32) (r : Run) (t n : Nat) (b : CasBody) (new : Option Casement), (s.start.ready (eref d 0 idx) 0x93 r) ∧ (t = bodyDom (eref d 0 idx) r.bytes 0x10) ∧ (n = bget r.bytes 0x12 1) ∧ (b = { base := bget r.bytes 0x20 8, attr := bget r.bytes 0x28 4, owner := t % 4096, target := bget r.bytes 0x2E 2, offset := bget r.bytes 0x30 8, cohBase := bget r.bytes 0x38 8 }) ∧ (reservedSet r.bytes [(0x13, 13)] = false) ∧ (t < 4096) ∧ (s.start.mayRule d t = true) ∧ ((s.start.dom t).state ≠ .frozen) ∧ (s.start.changes = []) ∧ (s.start.ruleSet d t n b = .ok new) :=
  ⟨st (que 0x93 [1]), 0, 0, aRun 0x93 [1], 1, 0, { base := 0, attr := 0, owner := 1, target := 0, offset := 0, cohBase := 0 }, none, ⟨by decide, by decide, by decide, rfl, by decide, by decide, by decide, by decide, by decide, rfl⟩⟩

theorem witness_DomainAndHingeCommandsComplete_5 : ∃ (s : State) (d : Dom) (idx : BitVec 32) (r : Run) (t : Nat), (s.start.ready (eref d 0 idx) 0xA0 r) ∧ (t = bodyDom (eref d 0 idx) r.bytes 0x10) ∧ (reservedSet r.bytes [(0x17, 1), (0x28, 24), (0x12, 2)] = false) ∧ (bget r.bytes 0x14 1 = 0) ∧ (s.start.mayCommand d t = true) ∧ (s.start.domFree t = true) ∧ ((s.start.dom t).state = .active) ∧ (s.start.sqIds t = []) :=
  ⟨st (que 0xA0 [1]), 0, 0, aRun 0xA0 [1], 1, by decide⟩

theorem witness_DomainAndHingeCommandsComplete_6 : ∃ (s : State) (d : Dom) (idx : BitVec 32) (r : Run) (t a : Nat) (img : List Byte), (s.start.ready (eref d 0 idx) 0xA1 r) ∧ (t = bodyDom (eref d 0 idx) r.bytes 0x10) ∧ (a = bget r.bytes 0x18 8) ∧ (img = s.start.image t) ∧ (reservedSet r.bytes [(0x17, 1), (0x28, 24), (0x12, 2), (0x14, 1)] = false) ∧ (s.start.mayCommand d t = true) ∧ (s.start.domFree t = true) ∧ ((s.start.dom t).state = .frozen) ∧ ((s.start.dom t).kind = .func) ∧ (img.length ≤ bget r.bytes 0x20 8) :=
  ⟨st (fun m => { que 0xA1 [1, 0, 0, 0, 0, 0, 0, 0, 0, 0, 0, 0, 0, 0, 0, 0, 0, 16] m with doms := [(0, { state := .active, kind := .d0 }), (1, { state := .frozen, kind := .func })] }), 0, 0, aRun 0xA1 [1, 0, 0, 0, 0, 0, 0, 0, 0, 0, 0, 0, 0, 0, 0, 0, 0, 16], 1, 0, _, ⟨by decide, by decide, by decide, rfl, by decide, by decide, by decide, by decide, by decide, by decide⟩⟩

theorem witness_DomainAndHingeCommandsComplete_7 : ∃ (s : State) (d : Dom) (idx : BitVec 32) (image : List Byte) (r : Run) (h n : Nat) (x : Xlat) (l : List ImgSec), (s.start.ready (eref d 0 idx) 0xA2 r) ∧ (h = bodyDom (eref d 0 idx) r.bytes 0x10) ∧ (reservedSet r.bytes [(0x17, 1), (0x28, 24), (0x14, 1)] = false) ∧ (d.val = 0 ∨ d.val = h) ∧ (h ≠ 0) ∧ (h < 4096) ∧ ((s.start.dom h).kind = .host) ∧ ((s.start.dom h).state ≠ .free) ∧ (s.start.check d (d.val == 0) { rd := true } (bget r.bytes 0x18 8) (bget r.bytes 0x20 8) = .allow x) ∧ ((s.start.domPorts h).any (fun p => (s.start.vfRange p).1 ≤ bget r.bytes 0x12 2 && bget r.bytes 0x12 2 < (s.start.vfRange p).1 + (s.start.vfRange p).2) = true) ∧ ((s.start.doms.any fun y => y.2.state != .free && y.2.vf == some (bget r.bytes 0x12 2)) = false) ∧ (imgCheck (image.take (bget r.bytes 0x20 8)) = .ok l) ∧ (imgCount l 2 = 0) ∧ (imgCount l 3 = 0) ∧ ((imgVal l 3).length = 0) ∧ (imgCount l 6 = 0) ∧ (s.start.poolUsed ≤ 65536) ∧ (s.start.sqs.length ≤ 65536) ∧ (s.start.cqs.length ≤ 65536) ∧ (((List.range 4095).find? fun i => (s.start.dom (i + 1)).state == .free) = some n) :=
  ⟨stRestore, 0, 0, anImage, aRun 0xA2 restoreBody, 1, 1, { port := 16, dpa := 0, coh := some 0, hedge := 0, spec := true }, imageSecs, ⟨by decide, by decide, by decide, by decide, by decide, by decide, by decide, by decide, by decide, by decide, by decide, image_checks, by decide +kernel, by decide +kernel, by decide +kernel, by decide +kernel, by decide, by decide, by decide, by decide⟩⟩

theorem witness_DomainAndHingeCommandsComplete_8 : ∃ (s : State) (d : Dom) (idx : BitVec 32) (mems : List (Nat × QMem)) (r : Run) (t : Nat) (u : Mach), (s.start.ready (eref d 0 idx) 0xA3 r) ∧ (t = bodyDom (eref d 0 idx) r.bytes 0x10) ∧ (reservedSet r.bytes [(0x17, 1), (0x28, 24), (0x12, 2), (0x14, 1)] = false) ∧ (s.start.mayCommand d t = true) ∧ (s.start.domFree t = true) ∧ ((s.start.dom t).state = .frozen) ∧ (s.start.sqIds t = []) ∧ (u = s.start.updDom t fun r => { r with state := .active }) :=
  ⟨st (fun m => { que 0xA3 [1] m with doms := [(0, { state := .active, kind := .d0 }), (1, { state := .frozen, kind := .func })] }), 0, 0, [], aRun 0xA3 [1], 1, _, ⟨by decide, by decide, by decide, by decide, by decide, by decide, by decide, rfl⟩⟩

theorem witness_CopyEngineCommandsComplete_1 : ∃ (s : State) (mem : QMem) (d q : Nat), (s.start.nextStart (fun d q => isMover (s.start.frontOp d q)) s.start.cpeLastDom s.start.cpeLast = some (d, q)) :=
  ⟨st (fun m => (que 0 [] m).updSq 0 1 fun x => { x with cache := [{ idx := 0, bytes := ent 0x10 [], gen := 0 }], fetch := 2 }), {}, 0, 1, by decide⟩

theorem witness_CopyEngineCommandsComplete_2 : ∃ (s : State) (ch : Fin 256) (c : CopyChan) (b : List Byte) (l : List CopyPiece), (s.start.chan ch = some c) ∧ (c.loaded = true) ∧ (c.checking = true) ∧ (c.ending = none) ∧ (c.kind = 1) ∧ (b = (match s.start.run c.entry with | some r => r.bytes | none => [])) ∧ (copyBad b c = none) ∧ (s.start.piecesFrom c.entry.dom c.needA (c.a + c.len) 640 c.a = .ok l) :=
  ⟨st (fun m => { que 0x11 [] m with doms := [(0, { state := .active, kind := .d0, cas := [(0, aCas)] })], chans := [(9, { entry := { dom := 0, q := 0, idx := 0 }, sq := 0, gen := 0, kind := 1, len := 64, loaded := true, checking := true })] }), 9, { entry := { dom := 0, q := 0, idx := 0 }, sq := 0, gen := 0, kind := 1, len := 64, loaded := true, checking := true }, ent 0x11 [], [{ start := 0, len := 64, cas := some aCas }], ⟨by decide, by decide, by decide, by decide, by decide, by decide, by decide, by rfl⟩⟩

theorem witness_CopyEngineCommandsComplete_3 : ∃ (s : State) (u : Mach) (ch : Nat) (c : CopyChan), (u = s.start.chans.foldl (fun (m : Mach) (x : Nat × CopyChan) => m.copyTake x.1) s.start) ∧ (u.nextChan (fun c => c.kind != 1 && u.canBegin c) u.cpeRdDom u.cpeRd = some (ch, c)) :=
  ⟨stChan { aChan with active := true }, _, 9, { aChan with active := true }, ⟨rfl, by decide⟩⟩

theorem witness_CopyEngineCommandsComplete_4 : ∃ (s : State) (u : Mach) (ch : Nat) (c : CopyChan) (k : Chunk), (u = s.start.chans.foldl (fun (m : Mach) (x : Nat × CopyChan) => m.copyTake x.1) s.start) ∧ (u.nextChan (fun c => (u.writable c c.flight).isSome || (c.kind == 1 && u.canBegin c)) u.cpeWrDom u.cpeWr = some (ch, c)) ∧ ({ u with cpeWrDom := c.entry.dom, cpeWr := SMap.set 256 u.cpeWr c.entry.dom ch }.writable c c.flight = some k) :=
  ⟨stChan { aChan with active := true, issued := 64, flight := [aChunk] }, _, 9, { aChan with active := true, issued := 64, flight := [aChunk] }, aChunk, ⟨rfl, by decide, by decide⟩⟩

theorem witness_CopyEngineCommandsComplete_5 : ∃ (s : State) (ch : Fin 256) (c : CopyChan) (k : Chunk), ((s.start.copyTake ch).chan ch = some c) ∧ (c.flight.find? (fun k => (s.start.copyTake ch).chunkDone c k) = some k) ∧ (c.kind = 2) :=
  ⟨stChan { aChan with kind := 2, active := true, issued := 64, flight := [aChunk] }, 9, { aChan with kind := 2, active := true, issued := 64, flight := [aChunk] }, aChunk, by decide⟩

theorem witness_CopyEngineCommandsComplete_6 : ∃ (s : State) (ch : Fin 256) (c : CopyChan) (k : Chunk), ((s.start.copyTake ch).chan ch = some c) ∧ (c.flight.find? (fun k => (s.start.copyTake ch).chunkDone c k) = some k) ∧ (k.bad = false) ∧ (k.written = true) ∧ (c.kind ≠ 2) :=
  ⟨stChan { aChan with active := true, issued := 64, flight := [{ aChunk with written := true }] }, 9, { aChan with active := true, issued := 64, flight := [{ aChunk with written := true }] }, { aChunk with written := true }, by decide⟩

theorem witness_CopyEngineCommandsComplete_7 : ∃ (s : State) (ch : Fin 256) (c : CopyChan) (k : Chunk), ((s.start.copyTake ch).chan ch = some c) ∧ ((s.start.copyTake ch).writable c c.flight = some k) ∧ ((k.lines.any fun x => x.2.2) = true) :=
  ⟨stChan { aChan with active := true, issued := 64, flight := [{ aChunk with lines := [(0, (5, true))] }] }, 9, { aChan with active := true, issued := 64, flight := [{ aChunk with lines := [(0, (5, true))] }] }, { aChunk with lines := [(0, (5, true))] }, by decide⟩

theorem witness_AluInstructionsWriteTheirResult_1 : (∃ (s : State) (th : Thr) (t : Thread), s.start.fetches th (encA 0x00 31 31 31) t) ∧ ∃ (s : State) (p : Port) (x : Pipe) (rest : List Pipe), s.start.piped p (encA 0x00 31 31 31) x rest :=
  ⟨⟨_, 64, _, fetches_any _ [] (by decide)⟩, _, 0, _, _, piped_any _ (by decide)⟩

theorem witness_AluInstructionsWriteTheirResult_2 : (∃ (s : State) (th : Thr) (t : Thread), s.start.fetches th (encA 0x01 31 31 31) t) ∧ ∃ (s : State) (p : Port) (x : Pipe) (rest : List Pipe), s.start.piped p (encA 0x01 31 31 31) x rest :=
  ⟨⟨_, 64, _, fetches_any _ [] (by decide)⟩, _, 0, _, _, piped_any _ (by decide)⟩

theorem witness_AluInstructionsWriteTheirResult_3 : (∃ (s : State) (th : Thr) (t : Thread), s.start.fetches th (encA 0x02 31 31 31) t) ∧ ∃ (s : State) (p : Port) (x : Pipe) (rest : List Pipe), s.start.piped p (encA 0x02 31 31 31) x rest :=
  ⟨⟨_, 64, _, fetches_any _ [] (by decide)⟩, _, 0, _, _, piped_any _ (by decide)⟩

theorem witness_AluInstructionsWriteTheirResult_4 : (∃ (s : State) (th : Thr) (t : Thread), s.start.fetches th (encA 0x03 31 31 31) t) ∧ ∃ (s : State) (p : Port) (x : Pipe) (rest : List Pipe), s.start.piped p (encA 0x03 31 31 31) x rest :=
  ⟨⟨_, 64, _, fetches_any _ [] (by decide)⟩, _, 0, _, _, piped_any _ (by decide)⟩

theorem witness_AluInstructionsWriteTheirResult_5 : (∃ (s : State) (th : Thr) (t : Thread), s.start.fetches th (encA 0x04 31 31 31) t) ∧ ∃ (s : State) (p : Port) (x : Pipe) (rest : List Pipe), s.start.piped p (encA 0x04 31 31 31) x rest :=
  ⟨⟨_, 64, _, fetches_any _ [] (by decide)⟩, _, 0, _, _, piped_any _ (by decide)⟩

theorem witness_AluInstructionsWriteTheirResult_6 : (∃ (s : State) (th : Thr) (t : Thread), s.start.fetches th (encA 0x05 31 31 31) t) ∧ ∃ (s : State) (p : Port) (x : Pipe) (rest : List Pipe), s.start.piped p (encA 0x05 31 31 31) x rest :=
  ⟨⟨_, 64, _, fetches_any _ [] (by decide)⟩, _, 0, _, _, piped_any _ (by decide)⟩

theorem witness_AluInstructionsWriteTheirResult_7 : (∃ (s : State) (th : Thr) (t : Thread), s.start.fetches th (encA 0x06 31 31 31) t) ∧ ∃ (s : State) (p : Port) (x : Pipe) (rest : List Pipe), s.start.piped p (encA 0x06 31 31 31) x rest :=
  ⟨⟨_, 64, _, fetches_any _ [] (by decide)⟩, _, 0, _, _, piped_any _ (by decide)⟩

theorem witness_AluInstructionsWriteTheirResult_8 : (∃ (s : State) (th : Thr) (t : Thread), s.start.fetches th (encA 0x07 31 31 31) t) ∧ ∃ (s : State) (p : Port) (x : Pipe) (rest : List Pipe), s.start.piped p (encA 0x07 31 31 31) x rest :=
  ⟨⟨_, 64, _, fetches_any _ [] (by decide)⟩, _, 0, _, _, piped_any _ (by decide)⟩

theorem witness_AluInstructionsWriteTheirResult_9 : (∃ (s : State) (th : Thr) (t : Thread), s.start.fetches th (encA 0x08 31 31 31) t) ∧ ∃ (s : State) (p : Port) (x : Pipe) (rest : List Pipe), s.start.piped p (encA 0x08 31 31 31) x rest :=
  ⟨⟨_, 64, _, fetches_any _ [] (by decide)⟩, _, 0, _, _, piped_any _ (by decide)⟩

theorem witness_AluInstructionsWriteTheirResult_10 : (∃ (s : State) (th : Thr) (t : Thread), s.start.fetches th (encA 0x09 31 31 31) t) ∧ ∃ (s : State) (p : Port) (x : Pipe) (rest : List Pipe), s.start.piped p (encA 0x09 31 31 31) x rest :=
  ⟨⟨_, 64, _, fetches_any _ [] (by decide)⟩, _, 0, _, _, piped_any _ (by decide)⟩

theorem witness_AluInstructionsWriteTheirResult_11 : (∃ (s : State) (th : Thr) (t : Thread), s.start.fetches th (encA 0x0A 31 31 31) t) ∧ ∃ (s : State) (p : Port) (x : Pipe) (rest : List Pipe), s.start.piped p (encA 0x0A 31 31 31) x rest :=
  ⟨⟨_, 64, _, fetches_any _ [] (by decide)⟩, _, 0, _, _, piped_any _ (by decide)⟩

theorem witness_AluInstructionsWriteTheirResult_12 : (∃ (s : State) (th : Thr) (t : Thread), s.start.fetches th (encA 0x0B 31 31 31) t) ∧ ∃ (s : State) (p : Port) (x : Pipe) (rest : List Pipe), s.start.piped p (encA 0x0B 31 31 31) x rest :=
  ⟨⟨_, 64, _, fetches_any _ [] (by decide)⟩, _, 0, _, _, piped_any _ (by decide)⟩

theorem witness_AluInstructionsWriteTheirResult_13 : (∃ (s : State) (th : Thr) (t : Thread), s.start.fetches th (encA 0x0C 31 31 31) t) ∧ ∃ (s : State) (p : Port) (x : Pipe) (rest : List Pipe), s.start.piped p (encA 0x0C 31 31 31) x rest :=
  ⟨⟨_, 64, _, fetches_any _ [] (by decide)⟩, _, 0, _, _, piped_any _ (by decide)⟩

theorem witness_AluInstructionsWriteTheirResult_14 : (∃ (s : State) (th : Thr) (t : Thread), s.start.fetches th (encA 0x0D 31 31 31) t) ∧ ∃ (s : State) (p : Port) (x : Pipe) (rest : List Pipe), s.start.piped p (encA 0x0D 31 31 31) x rest :=
  ⟨⟨_, 64, _, fetches_any _ [] (by decide)⟩, _, 0, _, _, piped_any _ (by decide)⟩

theorem witness_AluInstructionsWriteTheirResult_15 : (∃ (s : State) (th : Thr) (t : Thread), s.start.fetches th (encA 0x10 31 31 0) t) ∧ ∃ (s : State) (p : Port) (x : Pipe) (rest : List Pipe), s.start.piped p (encA 0x10 31 31 0) x rest :=
  ⟨⟨_, 64, _, fetches_any _ [] (by decide)⟩, _, 0, _, _, piped_any _ (by decide)⟩

theorem witness_AluInstructionsWriteTheirResult_16 : (∃ (s : State) (th : Thr) (t : Thread), s.start.fetches th (encA 0x11 31 31 0) t) ∧ ∃ (s : State) (p : Port) (x : Pipe) (rest : List Pipe), s.start.piped p (encA 0x11 31 31 0) x rest :=
  ⟨⟨_, 64, _, fetches_any _ [] (by decide)⟩, _, 0, _, _, piped_any _ (by decide)⟩

theorem witness_AluInstructionsWriteTheirResult_17 : (∃ (s : State) (th : Thr) (t : Thread), s.start.fetches th (encA 0x12 31 31 0) t) ∧ ∃ (s : State) (p : Port) (x : Pipe) (rest : List Pipe), s.start.piped p (encA 0x12 31 31 0) x rest :=
  ⟨⟨_, 64, _, fetches_any _ [] (by decide)⟩, _, 0, _, _, piped_any _ (by decide)⟩

theorem witness_AluInstructionsWriteTheirResult_18 : (∃ (s : State) (th : Thr) (t : Thread), s.start.fetches th (encI 0x01 31 31 0xFFFF) t) ∧ ∃ (s : State) (p : Port) (x : Pipe) (rest : List Pipe), s.start.piped p (encI 0x01 31 31 0xFFFF) x rest :=
  ⟨⟨_, 64, _, fetches_any _ [] (by decide)⟩, _, 0, _, _, piped_any _ (by decide)⟩

theorem witness_AluInstructionsWriteTheirResult_19 : (∃ (s : State) (th : Thr) (t : Thread), s.start.fetches th (encI 0x02 31 31 0xFFFF) t) ∧ ∃ (s : State) (p : Port) (x : Pipe) (rest : List Pipe), s.start.piped p (encI 0x02 31 31 0xFFFF) x rest :=
  ⟨⟨_, 64, _, fetches_any _ [] (by decide)⟩, _, 0, _, _, piped_any _ (by decide)⟩

theorem witness_AluInstructionsWriteTheirResult_20 : (∃ (s : State) (th : Thr) (t : Thread), s.start.fetches th (encI 0x03 31 31 0xFFFF) t) ∧ ∃ (s : State) (p : Port) (x : Pipe) (rest : List Pipe), s.start.piped p (encI 0x03 31 31 0xFFFF) x rest :=
  ⟨⟨_, 64, _, fetches_any _ [] (by decide)⟩, _, 0, _, _, piped_any _ (by decide)⟩

theorem witness_AluInstructionsWriteTheirResult_21 : (∃ (s : State) (th : Thr) (t : Thread), s.start.fetches th (encI 0x04 31 31 0xFFFF) t) ∧ ∃ (s : State) (p : Port) (x : Pipe) (rest : List Pipe), s.start.piped p (encI 0x04 31 31 0xFFFF) x rest :=
  ⟨⟨_, 64, _, fetches_any _ [] (by decide)⟩, _, 0, _, _, piped_any _ (by decide)⟩

theorem witness_AluInstructionsWriteTheirResult_22 : (∃ (s : State) (th : Thr) (t : Thread), s.start.fetches th (encI 0x05 31 31 63) t) ∧ ∃ (s : State) (p : Port) (x : Pipe) (rest : List Pipe), s.start.piped p (encI 0x05 31 31 63) x rest :=
  ⟨⟨_, 64, _, fetches_any _ [] (by decide)⟩, _, 0, _, _, piped_any _ (by decide)⟩

theorem witness_AluInstructionsWriteTheirResult_23 : (∃ (s : State) (th : Thr) (t : Thread), s.start.fetches th (encI 0x05 31 31 (64 + 63)) t) ∧ ∃ (s : State) (p : Port) (x : Pipe) (rest : List Pipe), s.start.piped p (encI 0x05 31 31 (64 + 63)) x rest :=
  ⟨⟨_, 64, _, fetches_any _ [] (by decide)⟩, _, 0, _, _, piped_any _ (by decide)⟩

theorem witness_AluInstructionsWriteTheirResult_24 : (∃ (s : State) (th : Thr) (t : Thread), s.start.fetches th (encI 0x05 31 31 (128 + 63)) t) ∧ ∃ (s : State) (p : Port) (x : Pipe) (rest : List Pipe), s.start.piped p (encI 0x05 31 31 (128 + 63)) x rest :=
  ⟨⟨_, 64, _, fetches_any _ [] (by decide)⟩, _, 0, _, _, piped_any _ (by decide)⟩

theorem witness_AluInstructionsWriteTheirResult_25 : (∃ (s : State) (th : Thr) (t : Thread), s.start.fetches th (encI 0x06 31 0 0xFFFF) t) ∧ ∃ (s : State) (p : Port) (x : Pipe) (rest : List Pipe), s.start.piped p (encI 0x06 31 0 0xFFFF) x rest :=
  ⟨⟨_, 64, _, fetches_any _ [] (by decide)⟩, _, 0, _, _, piped_any _ (by decide)⟩

theorem witness_AluInstructionsWriteTheirResult_26 : (∃ (s : State) (th : Thr) (t : Thread), s.start.fetches th (encI 0x07 31 31 0xFFFF) t) ∧ ∃ (s : State) (p : Port) (x : Pipe) (rest : List Pipe), s.start.piped p (encI 0x07 31 31 0xFFFF) x rest :=
  ⟨⟨_, 64, _, fetches_any _ [] (by decide)⟩, _, 0, _, _, piped_any _ (by decide)⟩

theorem witness_AluInstructionsWriteTheirResult_27 : ∃ (s : State) (th : Thr) (t : Thread) (w : Nat), (s.start.fetches th w t) ∧ (w / 2 ^ 26 = 0) ∧ ((w % 64 = 14 ∨ w % 64 = 15 ∨ 18 < w % 64) ∨ (16 ≤ w % 64 ∧ w / 2 ^ 11 % 32 ≠ 0)) :=
  ⟨stThr 14 [], 64, aThr [], 14, by decide⟩

theorem witness_CompareInstructionsWriteTheirPredicate_1 : (∃ (s : State) (th : Thr) (t : Thread), s.start.fetches th (encP 0x08 7 31 (31 * 2 ^ 11 + 6)) t) ∧ ∃ (s : State) (p : Port) (x : Pipe) (rest : List Pipe), s.start.piped p (encP 0x08 7 31 (31 * 2 ^ 11 + 6)) x rest :=
  ⟨⟨_, 64, _, fetches_any _ [] (by decide)⟩, _, 0, _, _, piped_any _ (by decide)⟩

theorem witness_CompareInstructionsWriteTheirPredicate_2 : (∃ (s : State) (th : Thr) (t : Thread), s.start.fetches th (encP 0x09 7 31 (3 * 2 ^ 21 + 0xFFFF)) t) ∧ ∃ (s : State) (p : Port) (x : Pipe) (rest : List Pipe), s.start.piped p (encP 0x09 7 31 (3 * 2 ^ 21 + 0xFFFF)) x rest :=
  ⟨⟨_, 64, _, fetches_any _ [] (by decide)⟩, _, 0, _, _, piped_any _ (by decide)⟩

theorem witness_CompareInstructionsWriteTheirPredicate_3 : ∃ (s : State) (th : Thr) (t : Thread) (pd : Fin 8) (a b : Fin 32), (s.start.fetches th (encP 0x08 pd a (b.val * 2 ^ 11 + 7)) t) :=
  ⟨stThr (encP 0x08 1 2 (3 * 2 ^ 11 + 7)) [], 64, aThr [], 1, 2, 3, by decide⟩

theorem witness_ThreadMemoryInstructionsComplete_1 : ∃ (s : State) (th : Thr) (rd rb : Fin 32) (size : Fin 4) (off : BitVec 12) (t : Thread) (a n : Nat), (s.start.fetches th (encM 0x10 rd rb 0 size off) t) ∧ (a = (t.reg rb + off.signExtend 64).toNat) ∧ (n = 2 ^ size.val) ∧ (a % n = 0) ∧ (a + n ≤ t.win) :=
  ⟨stThr (encM 0x10 1 2 0 3 0) [], 64, 1, 2, 3, 0, aThr [], 0, 8, by decide⟩

theorem witness_ThreadMemoryInstructionsComplete_2 : ∃ (s : State) (th : Thr) (rd rb : Fin 32) (size : Fin 4) (off : BitVec 12) (t : Thread) (a n : Nat), (s.start.fetches th (encM 0x10 rd rb 1 size off) t) ∧ (a = (t.reg rb + off.signExtend 64).toNat) ∧ (n = 2 ^ size.val) ∧ (a % n = 0) ∧ (a + n ≤ s.start.dmLimit t) :=
  ⟨st (fun m => { thrM (encM 0x10 1 2 1 3 8) (aThr []) m with seqDom := [(1, { size := 1 })] }), 64, 1, 2, 3, 8, aThr [], 8, 8, by decide⟩

theorem witness_ThreadMemoryInstructionsComplete_3 : ∃ (s : State) (th : Thr) (rd rb : Fin 32) (size : Fin 4) (off : BitVec 12) (t : Thread) (a n : Nat) (r : Req), (s.start.fetches th (encM 0x10 rd rb 2 size off) t) ∧ (a = (t.reg rb + off.signExtend 64).toNat) ∧ (n = 2 ^ size.val) ∧ (a % n = 0) ∧ (t.writing a n = false) ∧ (r = { src := .thread th.val, kind := .ncRead, addr := a }) ∧ (s.start.fmCheck th t r n = none) :=
  ⟨st (fun m => fmM (encM 0x10 1 2 2 2 0) (aThr []) m), 64, 1, 2, 2, 0, aThr [], 0, 4, { src := .thread 64, kind := .ncRead, addr := 0 }, by decide⟩

theorem witness_ThreadMemoryInstructionsComplete_4 : ∃ (s : State) (th : Thr) (rd rb : Fin 32) (size : Fin 4) (off : BitVec 12) (t : Thread) (a n : Nat), (s.start.fetches th (encM 0x10 rd rb 3 size off) t) ∧ (t.manager = true) ∧ (a = (t.reg rb + off.signExtend 64).toNat) ∧ (n = 2 ^ size.val) ∧ (a % n = 0) ∧ (a + n ≤ 0x80000) :=
  ⟨stMgr (encM 0x10 1 2 3 0 1) [], 0, 1, 2, 0, 1, mThr [], 1, 1, by decide⟩

theorem witness_ThreadMemoryInstructionsComplete_5 : ∃ (s : State) (th : Thr) (rs rb : Fin 32) (size : Fin 4) (off : BitVec 12) (t : Thread) (a n : Nat), (s.start.fetches th (encM 0x11 rs rb 0 size off) t) ∧ (a = (t.reg rb + off.signExtend 64).toNat) ∧ (n = 2 ^ size.val) ∧ (a % n = 0) ∧ (a + n ≤ t.win) :=
  ⟨stThr (encM 0x11 1 2 0 3 0) [], 64, 1, 2, 3, 0, aThr [], 0, 8, by decide⟩

theorem witness_ThreadMemoryInstructionsComplete_6 : ∃ (s : State) (th : Thr) (rs rb : Fin 32) (size : Fin 4) (off : BitVec 12) (t : Thread) (a n : Nat), (s.start.fetches th (encM 0x11 rs rb 1 size off) t) ∧ (a = (t.reg rb + off.signExtend 64).toNat) ∧ (n = 2 ^ size.val) ∧ (a % n = 0) ∧ (a + n ≤ s.start.dmLimit t) ∧ (s.start.dmGuarded t a n = false) :=
  ⟨st (fun m => { thrM (encM 0x11 1 2 1 3 0) (aThr [(2, 0x20000)]) m with seqDom := [(1, { size := 1 })] }), 64, 1, 2, 3, 0, aThr [(2, 0x20000)], 0x20000, 8, by decide⟩

theorem witness_ThreadMemoryInstructionsComplete_7 : ∃ (s : State) (th : Thr) (rs rb : Fin 32) (size : Fin 4) (off : BitVec 12) (t : Thread) (a n : Nat) (r : Req), (s.start.fetches th (encM 0x11 rs rb 2 size off) t) ∧ (a = (t.reg rb + off.signExtend 64).toNat) ∧ (n = 2 ^ size.val) ∧ (a % n = 0) ∧ (t.outW.length < 32) ∧ (r = lineWrite (.thread th.val) a (leBytes n (t.reg rs).toNat)) ∧ (s.start.fmCheck th t r n = none) :=
  ⟨st (fun m => fmM (encM 0x11 1 2 2 2 0) (aThr []) m), 64, 1, 2, 2, 0, aThr [], 0, 4, lineWrite (.thread 64) 0 (leBytes 4 0), by decide⟩

theorem witness_ThreadMemoryInstructionsComplete_8 : ∃ (s : State) (th : Thr) (rl rb : Fin 32) (n : Fin 4) (off : BitVec 12) (t : Thread) (far ls len : Nat), (s.start.fetches th (encM 0x13 rl rb 1 n off) t) ∧ (far = (t.reg rb + off.signExtend 64).toNat) ∧ (ls = (t.reg rl).toNat) ∧ (len = 64 * 2 ^ n.val) ∧ (far % len = 0) ∧ (ls % 64 = 0) ∧ (ls + len ≤ t.win) ∧ (far + len ≤ s.start.dmLimit t) :=
  ⟨st (fun m => { thrM (encM 0x13 1 2 1 1 0) (aThr [(1, 64)]) m with seqDom := [(1, { size := 1 })] }), 64, 1, 2, 1, 0, aThr [(1, 64)], 0, 64, 128, by decide⟩

theorem witness_ThreadMemoryInstructionsComplete_9 : ∃ (s : State) (th : Thr) (rl rb : Fin 32) (n : Fin 4) (off : BitVec 12) (t : Thread) (far ls len : Nat) (r : Req), (s.start.fetches th (encM 0x13 rl rb 2 n off) t) ∧ (far = (t.reg rb + off.signExtend 64).toNat) ∧ (ls = (t.reg rl).toNat) ∧ (len = 64 * 2 ^ n.val) ∧ (far % len = 0) ∧ (ls % 64 = 0) ∧ (ls + len ≤ t.win) ∧ (t.writing far len = false) ∧ (r = { src := .thread th.val, kind := .ncRead, addr := far }) ∧ (s.start.fmCheck th t r len = none) :=
  ⟨st (fun m => fmM (encM 0x13 1 2 2 0 0) (aThr []) m), 64, 1, 2, 0, 0, aThr [], 0, 0, 64, { src := .thread 64, kind := .ncRead, addr := 0 }, by decide⟩

theorem witness_ThreadMemoryInstructionsComplete_10 : ∃ (s : State) (th : Thr) (rl rb : Fin 32) (n : Fin 4) (off : BitVec 12) (t : Thread) (far ls len : Nat), (s.start.fetches th (encM 0x14 rl rb 1 n off) t) ∧ (far = (t.reg rb + off.signExtend 64).toNat) ∧ (ls = (t.reg rl).toNat) ∧ (len = 64 * 2 ^ n.val) ∧ (far % len = 0) ∧ (ls % 64 = 0) ∧ (ls + len ≤ t.win) ∧ (far + len ≤ s.start.dmLimit t) ∧ (s.start.dmGuarded t far len = false) :=
  ⟨st (fun m => { thrM (encM 0x14 1 2 1 3 0) (aThr [(2, 0x20000)]) m with seqDom := [(1, { size := 1 })] }), 64, 1, 2, 3, 0, aThr [(2, 0x20000)], 0x20000, 0, 512, by decide⟩

theorem witness_ThreadMemoryInstructionsComplete_11 : ∃ (s : State) (th : Thr) (rl rb : Fin 32) (n : Fin 4) (off : BitVec 12) (t : Thread) (far ls len : Nat), (s.start.fetches th (encM 0x14 rl rb 2 n off) t) ∧ (far = (t.reg rb + off.signExtend 64).toNat) ∧ (ls = (t.reg rl).toNat) ∧ (len = 64 * 2 ^ n.val) ∧ (far % len = 0) ∧ (ls % 64 = 0) ∧ (ls + len ≤ t.win) ∧ (t.outW.length + len / 64 ≤ 32) ∧ (s.start.fmCheck th t { src := .thread th.val, kind := .ncWrite true, addr := far } len = none) :=
  ⟨st (fun m => fmM (encM 0x14 1 2 2 0 0) (aThr []) m), 64, 1, 2, 0, 0, aThr [], 0, 0, 64, by decide⟩

theorem witness_ThreadMemoryInstructionsComplete_12 : ∃ (s : State) (th : Thr) (rd rb ra rc : Fin 32) (op : Fin 16) (size : Fin 4) (t : Thread) (a n va vc : Nat) (r : Req), (s.start.fetches th (encI 0x15 rd rb (ra.val * 2 ^ 11 + rc.val * 2 ^ 6 + op.val * 4 + size)) t) ∧ (a = (t.reg rb).toNat) ∧ (n = 4 * 2 ^ size.val) ∧ ((op.val ≤ 9 ∧ n ≤ 8) ∨ (op.val = 9 ∧ n = 16 ∧ rd.val % 2 = 0 ∧ ra.val % 2 = 0 ∧ rc.val % 2 = 0)) ∧ (a % n = 0) ∧ (t.writing a n = false) ∧ (va = (if n = 16 then (t.reg ra).toNat + 2 ^ 64 * (t.reg (ra.val + 1)).toNat else (t.reg ra).toNat % 2 ^ (8 * n))) ∧ (vc = (if n = 16 then (t.reg rc).toNat + 2 ^ 64 * (t.reg (rc.val + 1)).toNat else (t.reg rc).toNat % 2 ^ (8 * n))) ∧ (r = { src := .thread th.val, kind := .atomic op n va vc, addr := a, len := n }) ∧ (s.start.fmCheck th t r n = none) :=
  ⟨st (fun m => fmM (encI 0x15 4 2 (6 * 2 ^ 11 + 8 * 2 ^ 6 + 9 * 4 + 2)) (aThr []) m), 64, 4, 2, 6, 8, 9, 2, aThr [], 0, 16, 0, 0, { src := .thread 64, kind := .atomic 9 16 0 0, addr := 0, len := 16 }, by decide⟩

theorem witness_ThreadMemoryInstructionsComplete_13 : ∃ (s : State) (th : Thr) (t : Thread) (rd n a : Nat), ((s.start.threadTake th).thr th = some t) ∧ ((s.start.threadTake th).staleThread t = false) ∧ (t.hold = some (.ld false rd n a)) ∧ ((s.start.threadTake th).ddrBadAt ((s.start.threadTake th).dmAt t a) n = false) :=
  ⟨st (thrM 0 { aThr [] with hold := some (.ld false 1 8 0) }), 64, { aThr [] with hold := some (.ld false 1 8 0) }, 1, 8, 0, by decide⟩

theorem witness_ThreadMemoryInstructionsComplete_14 : ∃ (s : State) (th : Thr) (ecc : Bool) (t : Thread) (rd n a v : Nat) (x : AgentDone) (l : List AgentDone) (b : Nat), ((s.start.threadTake th).thr th = some t) ∧ ((s.start.threadTake th).staleThread t = false) ∧ (t.hold = some (.ld true rd n a)) ∧ (t.got = x :: l) ∧ (x.trap = none) ∧ (x.rsp = .data v false b) :=
  ⟨st (thrM 0 { aThr [] with hold := some (.ld true 1 8 0), got := [gotData] }), 64, false, { aThr [] with hold := some (.ld true 1 8 0), got := [gotData] }, 1, 8, 0, 5, gotData, [], 0, by decide⟩

theorem witness_ThreadMemoryInstructionsComplete_15 : ∃ (s : State) (th : Thr) (t : Thread) (ls n far : Nat), ((s.start.threadTake th).thr th = some t) ∧ ((s.start.threadTake th).staleThread t = false) ∧ (t.hold = some (.fld false ls n far)) ∧ ((s.start.threadTake th).ddrBadAt ((s.start.threadTake th).dmAt t far) n = false) :=
  ⟨st (thrM 0 { aThr [] with hold := some (.fld false 0 64 0) }), 64, { aThr [] with hold := some (.fld false 0 64 0) }, 0, 64, 0, by decide⟩

theorem witness_ThreadMemoryInstructionsComplete_16 : ∃ (s : State) (th : Thr) (ecc : Bool) (t : Thread) (rd n a v : Nat) (x : AgentDone) (l : List AgentDone) (b : Nat), ((s.start.threadTake th).thr th = some t) ∧ ((s.start.threadTake th).staleThread t = false) ∧ (t.hold = some (.fat rd n a)) ∧ (t.got = x :: l) ∧ (x.trap = none) ∧ (x.rsp = .data v false b) :=
  ⟨st (thrM 0 { aThr [] with hold := some (.fat 1 8 0), got := [gotData] }), 64, false, { aThr [] with hold := some (.fat 1 8 0), got := [gotData] }, 1, 8, 0, 5, gotData, [], 0, by decide⟩

theorem witness_ThreadMemoryInstructionsComplete_17 : ∃ (s : State) (th : Thr) (rs rb : Fin 32) (imm : BitVec 16) (t : Thread) (a : Nat), (s.start.fetches th (encI 0x21 rs rb imm.toNat) t) ∧ (t.manager = true) ∧ (a = (t.reg rb + imm.zeroExtend 64).toNat) ∧ (a % 8 = 0) ∧ (a < 0x80000) :=
  ⟨stMgr (encI 0x21 1 2 8) [], 0, 1, 2, 8, mThr [], 8, by decide⟩

theorem witness_ControlInstructionsComplete_1 : ∃ (s : State) (th : Thr) (neg : Bool) (p : Fin 8) (off : BitVec 20) (t : Thread), (s.start.fetches th (0x18 * 2 ^ 26 + (if neg then 2 ^ 25 else 0) + p.val * 2 ^ 22 + off.toNat) t) :=
  ⟨stThr (0x18 * 2 ^ 26 + 2 ^ 25 + 2 ^ 22 + 0xFFFFF) [], 64, true, 1, 0xFFFFF, aThr [], by decide⟩

theorem witness_ControlInstructionsComplete_2 : ∃ (s : State) (q : Port) (neg : Bool) (p : Fin 8) (off : BitVec 20) (x : Pipe) (rest : List Pipe), (s.start.piped q (0x18 * 2 ^ 26 + (if neg then 2 ^ 25 else 0) + p.val * 2 ^ 22 + off.toNat) x rest) :=
  ⟨stPipe (0x18 * 2 ^ 26 + 1), 0, false, 0, 1, aPipe (0x18 * 2 ^ 26 + 1), [], by decide⟩

theorem witness_ControlInstructionsComplete_3 : ∃ (s : State) (th : Thr) (rd : Fin 32) (off : BitVec 20) (t : Thread), (s.start.fetches th (0x19 * 2 ^ 26 + rd.val * 2 ^ 21 + off.toNat) t) :=
  ⟨stThr (0x19 * 2 ^ 26 + 31 * 2 ^ 21 + 2) [], 64, 31, 2, aThr [], by decide⟩

theorem witness_ControlInstructionsComplete_4 : ∃ (s : State) (th : Thr) (rd rs : Fin 32) (t : Thread), (s.start.fetches th (encI 0x1A rd rs 0) t) ∧ ((t.reg rs).toNat % 4 = 0) :=
  ⟨stThr (encI 0x1A 5 5 0) [(5, 64)], 64, 5, 5, aThr [(5, 64)], by decide⟩

theorem witness_ControlInstructionsComplete_5 : ∃ (s : State) (th : Thr) (imm : BitVec 16) (t : Thread), (s.start.fetches th (0x3E * 2 ^ 26 + imm.toNat) t) :=
  ⟨stThr (0x3E * 2 ^ 26 + 7) [], 64, 7, aThr [], by decide⟩

theorem witness_ControlInstructionsComplete_6 : ∃ (s : State) (th : Thr) (t : Thread), (s.start.fetches th (0x3F * 2 ^ 26) t) :=
  ⟨stThr (0x3F * 2 ^ 26) [], 64, aThr [], by decide⟩

theorem witness_ControlInstructionsComplete_7 : ∃ (s : State) (p : Port) (x : Pipe) (rest : List Pipe), (s.start.piped p (0x3F * 2 ^ 26) x rest) :=
  ⟨stPipe (0x3F * 2 ^ 26), 0, aPipe (0x3F * 2 ^ 26), [], by decide⟩

theorem witness_ControlInstructionsComplete_8 : ∃ (s : State) (th : Thr) (t : Thread), (s.start.fetches th (0x3F * 2 ^ 26 + 1) t) ∧ (t.outW = []) ∧ (t.fails = []) :=
  ⟨stThr (0x3F * 2 ^ 26 + 1) [], 64, aThr [], by decide⟩

theorem witness_ControlInstructionsComplete_9 : ∃ (s : State) (th : Thr) (t : Thread), (s.start.fetches th (0x3F * 2 ^ 26 + 1) t) ∧ (t.outW ≠ []) :=
  ⟨st (thrM (0x3F * 2 ^ 26 + 1) { aThr [] with outW := [0] }), 64, { aThr [] with outW := [0] }, by decide⟩

theorem witness_ControlInstructionsComplete_10 : ∃ (s : State) (th : Thr) (rs : Fin 32) (t : Thread), (s.start.fetches th (0x2C * 2 ^ 26 + rs.val * 2 ^ 16) t) ∧ (t.outW = []) ∧ (t.fails = []) :=
  ⟨stThr (0x2C * 2 ^ 26) [], 64, 0, aThr [], by decide⟩

theorem witness_ControlInstructionsComplete_11 : ∃ (s : State) (th : Thr) (rs : Fin 32) (t : Thread), (s.start.fetches th (0x2C * 2 ^ 26 + rs.val * 2 ^ 16) t) ∧ (t.outW ≠ []) :=
  ⟨st (thrM (0x2C * 2 ^ 26) { aThr [] with outW := [0] }), 64, 0, { aThr [] with outW := [0] }, by decide⟩

theorem witness_ControlInstructionsComplete_12 : ∃ (s : State) (th : Thr) (rs : Fin 32) (t : Thread), (s.start.fetches th (0x2C * 2 ^ 26 + 2 ^ 24 + rs.val * 2 ^ 16) t) :=
  ⟨stMgr (0x2C * 2 ^ 26 + 2 ^ 24) [], 0, 0, mThr [], by decide⟩

theorem witness_ControlInstructionsComplete_13 : ∃ (s : State) (th : Thr) (rs : Fin 32) (t : Thread), (s.start.fetches th (0x2C * 2 ^ 26 + 2 * 2 ^ 24 + rs.val * 2 ^ 16) t) ∧ (t.outW = []) ∧ (t.fails = []) :=
  ⟨stThr (0x2C * 2 ^ 26 + 2 * 2 ^ 24) [], 64, 0, aThr [], by decide⟩

theorem witness_ControlInstructionsComplete_14 : ∃ (s : State) (th : Thr) (rd : Fin 32) (mask : BitVec 8) (t : Thread), (s.start.fetches th (0x2D * 2 ^ 26 + rd.val * 2 ^ 21 + mask.toNat) t) ∧ (0 < mask.toNat) ∧ (mask.toNat < 32) ∧ (t.manager = true ∨ mask.toNat < 8) :=
  ⟨stThr (0x2D * 2 ^ 26 + 3 * 2 ^ 21 + 7) [], 64, 3, 7, aThr [], by decide⟩

theorem witness_ControlInstructionsComplete_15 : ∃ (s : State) (th : Thr) (t : Thread) (mask rd e : Nat), (s.start.thr th = some t) ∧ (s.start.staleThread t = false) ∧ (t.hold = some (.wait mask rd)) ∧ (e = s.start.pendingEvents t &&& mask) ∧ (e ≠ 0) :=
  ⟨st (thrM 0 { aThr [] with hold := some (.wait 2 5) }), 64, { aThr [] with hold := some (.wait 2 5) }, 2, 5, 2, by decide⟩

theorem witness_ControlInstructionsComplete_16 : ∃ (s : State) (th : Thr) (t : Thread), (s.start.thr th = some t) ∧ (t.running = true) ∧ (t.hold = none) ∧ (s.start.overBudget t = true) :=
  ⟨st (fun m => { thrM 0 (aThr []) m with seqDom := [(1, { runLimit := 1 })], now := 1000001 }), 64, aThr [], by decide⟩

theorem witness_ControlInstructionsComplete_17 : ∃ (s : State) (th : Thr) (t : Thread), (s.start.thr th = some t) ∧ (s.start.timerLeft t = 0) :=
  ⟨stThr 0 [], 64, aThr [], by decide⟩

theorem witness_ControlInstructionsComplete_18 : ∃ (s : State) (th : Thr) (v : BitVec 32) (t : Thread), (s.start.thr th = some t) ∧ (v.getLsbD 0 = true) :=
  ⟨stMgr 0 [], 0, 1, mThr [], by decide⟩

theorem witness_QueueAndMessageInstructionsComplete_1 : ∃ (s : State) (th : Thr) (pd : Fin 8) (re rq : Fin 32) (tl : Nat) (mem : QMem) (t : Thread) (d a id dw len : Nat) (q : Sq), (s.start.fetches th (encP 0x24 pd re (rq.val * 2 ^ 11)) t) ∧ (s.start.selDom t (t.reg rq) = some d) ∧ (a = (t.reg re).toNat) ∧ (id = (t.reg rq).toNat % 64) ∧ (a % 32 = 0) ∧ (dw = s.start.word th t a) ∧ (len = dw / 2 ^ 24 % 16) ∧ (1 ≤ len) ∧ (len ≤ 8) ∧ (a + 32 * len ≤ t.win) ∧ (s.start.sq d id = some q) ∧ (q.error = false) ∧ (tl % q.size + len ≤ q.size) ∧ (u32sub (tl + len) q.head ≤ q.size) :=
  ⟨st (fun m => { qposted m with ls := [(8, Mem.write (Mem.write [] 0 4 (encP 0x24 1 2 (3 * 2 ^ 11))) 32 4 0x02820000)] }), 64, 1, 2, 3, 0, {}, aThr [(2, 32)], 1, 32, 0, 0x02820000, 2, aSq, by decide⟩

theorem witness_QueueAndMessageInstructionsComplete_2 : ∃ (s : State) (th : Thr) (pd : Fin 8) (re rq : Fin 32) (tail : Option Nat) (mem : QMem) (t : Thread) (d : Nat), (s.start.fetches th (encP 0x24 pd re (rq.val * 2 ^ 11)) t) ∧ (s.start.selDom t (t.reg rq) = some d) ∧ ((t.reg re).toNat % 32 = 0) ∧ ((t.reg re).toNat + 4 ≤ t.win) ∧ (s.start.sq d ((t.reg rq).toNat % 64) = none) :=
  ⟨stThr (encP 0x24 1 2 (3 * 2 ^ 11)) [], 64, 1, 2, 3, none, {}, aThr [], 1, by decide⟩

theorem witness_QueueAndMessageInstructionsComplete_3 : ∃ (s : State) (th : Thr) (pd : Fin 8) (rd rq : Fin 32) (h : Nat) (e : BitVec 128) (t : Thread) (d id : Nat) (c : Cq), (s.start.fetches th (encP 0x25 pd rd (rq.val * 2 ^ 11)) t) ∧ (rd.val ≠ 31) ∧ (s.start.selDom t (t.reg rq) = some d) ∧ (id = (t.reg rq).toNat % 64) ∧ (s.start.cqOf d id = some c) ∧ (c.idx ≠ u32 h) :=
  ⟨st (fun m => { qposted m with ls := [(8, Mem.write [] 0 4 (encP 0x25 1 2 (3 * 2 ^ 11)))], cqs := [(64, { aCq with idx := 1 })] }), 64, 1, 2, 3, 0, 5, aThr [(2, 32)], 1, 0, { aCq with idx := 1 }, by decide⟩

theorem witness_QueueAndMessageInstructionsComplete_4 : ∃ (s : State) (th : Thr) (pd : Fin 8) (rd rq : Fin 32) (h : Nat) (ent : Option (BitVec 128)) (t : Thread) (d id : Nat) (c : Cq), (s.start.fetches th (encP 0x25 pd rd (rq.val * 2 ^ 11)) t) ∧ (rd.val ≠ 31) ∧ (s.start.selDom t (t.reg rq) = some d) ∧ (id = (t.reg rq).toNat % 64) ∧ (s.start.cqOf d id = some c) ∧ (c.idx = u32 h) :=
  ⟨st (fun m => { qposted m with ls := [(8, Mem.write [] 0 4 (encP 0x25 1 2 (3 * 2 ^ 11)))], cqs := [(64, aCq)] }), 64, 1, 2, 3, 0, none, aThr [(2, 32)], 1, 0, aCq, by decide⟩

theorem witness_QueueAndMessageInstructionsComplete_5 : ∃ (s : State) (th : Thr) (rq rv : Fin 32) (mem : QMem) (t : Thread) (d : Nat), (s.start.fetches th (encI 0x26 rv rq 0) t) ∧ (s.start.selDom t (t.reg rq) = some d) :=
  ⟨stThr (encI 0x26 1 2 0) [], 64, 2, 1, {}, aThr [], 1, by decide⟩

theorem witness_QueueAndMessageInstructionsComplete_6 : ∃ (s : State) (th : Thr) (rq rv : Fin 32) (head : Option Nat) (t : Thread) (d : Nat), (s.start.fetches th (encI 0x26 rv rq 1) t) ∧ (s.start.selDom t (t.reg rq) = some d) :=
  ⟨stThr (encI 0x26 1 2 1) [], 64, 2, 1, none, aThr [], 1, by decide⟩

theorem witness_QueueAndMessageInstructionsComplete_7 : ∃ (s : State) (th : Thr) (rq rv : Fin 32) (mem : QMem) (t : Thread) (d i n : Nat), (s.start.fetches th (encI 0x26 rv rq 2) t) ∧ (s.start.selDom t (t.reg rq) = some d) ∧ (i = (t.reg rq).toNat % 64) ∧ ((s.start.sq d i).isSome = true) ∧ (n = (t.reg rv).toNat % 2 ^ 32) :=
  ⟨st (fun m => { qposted m with ls := [(8, Mem.write [] 0 4 (encI 0x26 1 2 2))], threads := [(64, aThr [])] }), 64, 2, 1, {}, aThr [], 1, 0, 0, by decide⟩

theorem witness_QueueAndMessageInstructionsComplete_8 : ∃ (s : State) (th : Thr) (rd rb : Fin 32) (imm : BitVec 16) (t : Thread) (a n : Nat), (s.start.fetches th (encI 0x28 rd rb imm.toNat) t) ∧ (imm.getLsbD 1 = false) ∧ (a = (t.reg rb + (imm &&& 0xFFFC).zeroExtend 64).toNat) ∧ (n = (if imm.getLsbD 0 then 8 else 4)) ∧ (s.start.csrMay t a n false = true) ∧ (a % n = 0) :=
  ⟨stMgr (encI 0x28 1 2 0) [], 0, 1, 2, 0, mThr [], 0, 4, by decide⟩

theorem witness_QueueAndMessageInstructionsComplete_9 : ∃ (s : State) (th : Thr) (rs rb : Fin 32) (imm : BitVec 16) (mem : QMem) (t : Thread) (a n : Nat), (s.start.fetches th (encI 0x29 rs rb imm.toNat) t) ∧ (imm.getLsbD 1 = false) ∧ (a = (t.reg rb + (imm &&& 0xFFFC).zeroExtend 64).toNat) ∧ (n = (if imm.getLsbD 0 then 8 else 4)) ∧ (s.start.csrMay t a n true = true) ∧ (a % n = 0) :=
  ⟨stMgr (encI 0x29 1 2 0) [], 0, 1, 2, 0, {}, mThr [], 0, 4, by decide⟩

theorem witness_QueueAndMessageInstructionsComplete_10 : ∃ (s : State) (th : Thr) (rm rb : Fin 32) (imm : BitVec 16) (mem : QMem) (t : Thread) (a n old : Nat) (m' : Mach), (s.start.fetches th (encI 0x2A rm rb (imm &&& ~~~2).toNat) t) ∧ (a = (t.reg rb + (imm &&& 0xFFFC).zeroExtend 64).toNat) ∧ (n = (if imm.getLsbD 0 then 8 else 4)) ∧ (s.start.csrMay t a n true = true) ∧ (a % n = 0) ∧ (s.start.barRead s.latch (.thread th) a (imm.getLsbD 0) = (old, m')) :=
  ⟨stMgr (encI 0x2A 1 2 0) [], 0, 1, 2, 0, {}, mThr [], 0, 4, _, _, ⟨by decide, by decide, by decide, by decide, by decide, rfl⟩⟩

theorem witness_QueueAndMessageInstructionsComplete_11 : ∃ (s : State) (th : Thr) (rm rb : Fin 32) (imm : BitVec 16) (mem : QMem) (t : Thread) (a n old : Nat) (m' : Mach), (s.start.fetches th (encI 0x2A rm rb (imm ||| 2).toNat) t) ∧ (a = (t.reg rb + (imm &&& 0xFFFC).zeroExtend 64).toNat) ∧ (n = (if imm.getLsbD 0 then 8 else 4)) ∧ (s.start.csrMay t a n true = true) ∧ (a % n = 0) ∧ (s.start.barRead s.latch (.thread th) a (imm.getLsbD 0) = (old, m')) :=
  ⟨stMgr (encI 0x2A 1 2 2) [], 0, 1, 2, 2, {}, mThr [], 0, 4, _, _, ⟨by decide, by decide, by decide, by decide, by decide, rfl⟩⟩

theorem witness_QueueAndMessageInstructionsComplete_12 : ∃ (s : State) (th : Thr) (pd : Fin 8) (rt ra rb : Fin 32) (t u : Thread) (x : Nat), (s.start.fetches th (encP 0x2E pd rt (ra.val * 2 ^ 11 + rb.val * 2 ^ 6)) t) ∧ (t.manager = true) ∧ (x = (t.reg rt).toNat) ∧ (x < 256) ∧ (s.start.thr x = some u) ∧ (u.running = true) ∧ (u.inbox.length < 8) :=
  ⟨stMgr (encP 0x2E 1 2 (3 * 2 ^ 11)) [], 0, 1, 2, 3, 0, mThr [], mThr [], 0, by decide⟩

theorem witness_QueueAndMessageInstructionsComplete_13 : ∃ (s : State) (th : Thr) (pd : Fin 8) (rt ra rb : Fin 32) (t : Thread) (k : Nat) (u : Thread), (s.start.fetches th (encP 0x2E pd rt (ra.val * 2 ^ 11 + rb.val * 2 ^ 6)) t) ∧ (t.manager = false) ∧ ((t.reg rt).toNat < 64) ∧ (s.start.threads.find? (fun e => !e.2.manager && e.2.dom == t.dom && e.2.local_ == (t.reg rt).toNat && e.2.running) = some (k, u)) ∧ ((s.start.thr k).any (fun u => u.inbox.length < 8) = true) :=
  ⟨stThr (encP 0x2E 1 2 (3 * 2 ^ 11)) [], 64, 1, 2, 3, 0, aThr [], 64, aThr [], by decide⟩

theorem witness_QueueAndMessageInstructionsComplete_14 : ∃ (s : State) (th : Thr) (pd : Fin 8) (rd : Fin 32) (t : Thread) (x : BMsg) (rest : List BMsg), (s.start.fetches th (encP 0x2E pd rd 1) t) ∧ (rd.val ≤ 29) ∧ (t.inbox = x :: rest) :=
  ⟨st (thrM (encP 0x2E 1 29 1) { aThr [] with inbox := [{ a := 1, b := 2, sender := 3, mgr := false }] }), 64, 1, 29, { aThr [] with inbox := [{ a := 1, b := 2, sender := 3, mgr := false }] }, { a := 1, b := 2, sender := 3, mgr := false }, [], by decide⟩

theorem witness_QueueAndMessageInstructionsComplete_15 : ∃ (s : State) (th : Thr) (pd : Fin 8) (rd : Fin 32) (t : Thread), (s.start.fetches th (encP 0x2E pd rd 1) t) ∧ (rd.val ≤ 29) ∧ (t.inbox = []) :=
  ⟨stThr (encP 0x2E 1 2 1) [], 64, 1, 2, aThr [], by decide⟩

theorem witness_QueueAndMessageInstructionsComplete_16 : ∃ (s : State) (th : Thr) (rd : Fin 32) (t : Thread), (s.start.fetches th (encI 0x2F rd 0 0) t) :=
  ⟨stThr (encI 0x2F 1 0 0) [], 64, 1, aThr [], by decide⟩

theorem witness_QueueAndMessageInstructionsComplete_17 : ∃ (s : State) (th : Thr) (rd : Fin 32) (t : Thread), (s.start.fetches th (encI 0x2F rd 0 1) t) ∧ (rd.val ≠ 31) :=
  ⟨stThr (encI 0x2F 30 0 1) [], 64, 30, aThr [], by decide⟩

theorem witness_RouteProgramCommandsComplete_1 : ∃ (s : State) (p : Port) (rd rs : Fin 32) (imm : BitVec 16) (x : Pipe) (rest : List Pipe) (a : Nat), (s.start.piped p (encI 0x20 rd rs imm.toNat) x rest) ∧ (a = (s.start.pipeSrc p x rs + imm.zeroExtend 64).toNat) ∧ (a % 8 = 0) ∧ (a < 0x80000) :=
  ⟨stPipe (encI 0x20 1 2 8), 0, 1, 2, 8, aPipe (encI 0x20 1 2 8), [], 8, by decide⟩

theorem witness_RouteProgramCommandsComplete_2 : ∃ (s : State) (p : Port) (rd rs : Fin 32) (imm : BitVec 16) (x : Pipe) (rest : List Pipe) (a : Nat), (s.start.piped p (encI 0x20 rd rs imm.toNat) x rest) ∧ (a = (s.start.pipeSrc p x rs + imm.zeroExtend 64).toNat) ∧ (a % 8 ≠ 0 ∨ 0x80000 ≤ a) :=
  ⟨stPipe (encI 0x20 1 2 9), 0, 1, 2, 9, aPipe (encI 0x20 1 2 9), [], 9, by decide⟩

theorem witness_RouteProgramCommandsComplete_3 : ∃ (s : State) (p : Port) (rd : Fin 32) (x : Pipe) (rest : List Pipe) (v : Xlat), (s.start.piped p (encI 0x31 rd 0 0) x rest) ∧ (s.start.verdict x.req x.dom (privOf x.dom) = .allow v) :=
  ⟨st (fun m => { live m with doms := [(1, { state := .active, kind := .host, cas := [(0, aCas)] })], pipes := [(0, [{ aPipe (encI 0x31 1 0 0) with dom := some 1, req := { aReq with addr := 0 } }])] }), 0, 1, { aPipe (encI 0x31 1 0 0) with dom := some 1, req := { aReq with addr := 0 } }, [], { port := 16, dpa := 0, coh := some 0, spec := true }, by decide⟩

theorem witness_RouteProgramCommandsComplete_4 : ∃ (s : State) (p : Port) (rs : Fin 32) (x : Pipe) (rest : List Pipe), (s.start.piped p (encI 0x32 0 rs 0) x rest) :=
  ⟨stPipe (encI 0x32 0 2 0), 0, 2, aPipe (encI 0x32 0 2 0), [], by decide⟩

theorem witness_RouteProgramCommandsComplete_5 : ∃ (s : State) (p : Port) (rs : Fin 32) (x : Pipe) (rest : List Pipe), (s.start.piped p (encI 0x32 1 rs 0) x rest) :=
  ⟨stPipe (encI 0x32 1 2 0), 0, 2, aPipe (encI 0x32 1 2 0), [], by decide⟩

theorem witness_RouteProgramCommandsComplete_6 : ∃ (s : State) (p : Port) (rs : Fin 32) (x : Pipe) (rest : List Pipe), (s.start.piped p (encI 0x32 2 rs 0) x rest) :=
  ⟨stPipe (encI 0x32 2 2 0), 0, 2, aPipe (encI 0x32 2 2 0), [], by decide⟩

theorem witness_RouteProgramCommandsComplete_7 : ∃ (s : State) (p : Port) (rs : Fin 32) (x : Pipe) (w : Nat), (s.start.piped p (encI 0x30 0 rs 0) x []) ∧ (w = (s.start.pipeSrc p x rs).toNat) :=
  ⟨stPipe (encI 0x30 0 2 0), 0, 2, aPipe (encI 0x30 0 2 0), 0, by decide⟩

theorem witness_RouteProgramCommandsComplete_8 : ∃ (s : State) (slot : Fin 8) (len : Fin 32) (prog : List Nat), (s.latch.tf = false) ∧ (slot.val ≠ 0) ∧ (s.start.rpSelected slot = false) ∧ (1 ≤ len.val) ∧ (len.val ≤ 24) ∧ (prog = (List.range len.val).map fun i => s.start.rd (SEQ_RP_BUF_INSTR i)) ∧ (routeCheck prog = 0) :=
  ⟨st (fun m => m.wr (SEQ_RP_BUF_INSTR 0) (encI 0x30 0 0 0)), 7, 1, [encI 0x30 0 0 0], ⟨by decide, by decide, by decide +kernel, by decide, by decide, by decide, by decide⟩⟩

theorem witness_RouteProgramCommandsComplete_9 : ∃ (s : State) (slot : Fin 8) (len : Fin 32), (s.latch.tf = false) ∧ (slot.val ≠ 0) ∧ (s.start.rpSelected slot = false) :=
  ⟨State.reset, 1, 0, ⟨by decide, by decide, by decide +kernel⟩⟩

theorem witness_RouteProgramCommandsComplete_10 : ∃ (s : State) (i : Fin 128) (v : BitVec 32), (s.latch.tf = false) ∧ (((List.range 8).all fun k => v.toNat / 2 ^ (4 * k) % 8 == 0 || (SMap.find s.start.rp (v.toNat / 2 ^ (4 * k) % 8)).isSome) = true) :=
  ⟨State.reset, 127, 0x80000000, by decide⟩

theorem witness_ThreadLifeAndSequencerCommandsComplete_1 : ∃ (s : State) (d : Dom) (q : Fin 64) (idx : BitVec 32) (k : Nat) (t : Thread) (r : Run), (s.start.threads.find? (fun x => x.2.entry == some { dom := d.val, q := q.val, idx := idx.toNat } && !x.2.running) = some (k, t)) ∧ (s.start.run { dom := d.val, q := q.val, idx := idx.toNat } = some r) :=
  ⟨st (fun m => { que 0x20 [] m with threads := [(64, { manager := false, win := 4096, entry := some { dom := 0, q := 0, idx := 0 } })] }), 0, 0, 0, 64, { manager := false, win := 4096, entry := some { dom := 0, q := 0, idx := 0 } }, aRun 0x20 [], by decide⟩

theorem witness_ThreadLifeAndSequencerCommandsComplete_2 : ∃ (s : State) (th : Thr) (pc : Fin 1048576) (g : List (Nat × Word)) (ls : List (Nat × List Byte)), (pc.val % 4 = 0) ∧ (s.start.thr th = none) ∧ (s.start.coreTakes (th.val / 8) true = true) ∧ (¬(th.val / 8 = 1 ∧ s.start.flag SEQ_CTRL_LOCKSTEP = true)) ∧ (¬(th.val / 8 = 0 ∧ s.start.fwDown = true)) ∧ (2 ≤ s.start.rd WKT_BOOT_STATUS_STAGE) :=
  ⟨st live, 0, 8, [], [], by decide⟩

theorem witness_ThreadLifeAndSequencerCommandsComplete_3 : ∃ (s : State) (d : Dom) (ix : Fin 64) (f : FrozenThr) (th base win : Nat), (SMap.find s.start.frozen (d.val * 64 + ix) = some f) ∧ (f.resume = true) ∧ ((s.start.dom d).state = .active) ∧ (win = (if bget (Mem.readBytes s.start.ddr (s.start.ctxAt d ix) 512) 0x108 4 = 0 then 4 else bget (Mem.readBytes s.start.ddr (s.start.ctxAt d ix) 512) 0x108 4) * 1024) ∧ (s.start.placeThread win = some (th, base)) :=
  ⟨st (fun m => { (live m).wr SEQ_CORE_MODE_TENANT 0xFFFFFFFF with doms := [(1, { state := .active, kind := .host })], frozen := [(64, { entry := none, gen := 0, resume := true })] }), 1, 0, { entry := none, gen := 0, resume := true }, 16, 0, 4096, by decide +kernel⟩

theorem witness_ThreadLifeAndSequencerCommandsComplete_4 : ∃ (s : State) (th : Thr) (data : List Byte) (t : Thread) (e : EntryRef) (src dst n : Nat), (s.start.thr th = some t) ∧ (t.running = true) ∧ (t.dmload = true) ∧ (s.start.staleThread t = false) ∧ (s.start.overBudget t = false) ∧ (t.entry = some e) ∧ (src = (t.reg 1).toNat) ∧ (dst = (t.reg 2).toNat) ∧ (n = (t.reg 3).toNat) ∧ (src % 8 = 0) ∧ (n % 8 = 0) ∧ (0x20000 ≤ dst) ∧ (dst + n ≤ (s.start.seqd t.dom).bytes) ∧ (n = 0 ∨ s.start.fmCheck th t { src := .thread th.val, kind := .ncRead, addr := src } n = none) :=
  ⟨st (fun m => { thrM 0 { aThr [(1, 0), (2, 0x20000), (3, 0)] with origin := 0x10000, entry := some { dom := 1, q := 0, idx := 0 } } m with seqDom := [(1, { size := 1 })] }), 64, [], { aThr [(1, 0), (2, 0x20000), (3, 0)] with origin := 0x10000, entry := some { dom := 1, q := 0, idx := 0 } }, { dom := 1, q := 0, idx := 0 }, 0, 0x20000, 0, by decide⟩

theorem witness_ThreadLifeAndSequencerCommandsComplete_5 : ∃ (s : State), (s.start.flag SEQ_CTRL_LOCKSTEP = true) ∧ (s.start.lockAt = none ∨ ∃ k, s.start.lockAt = some k ∧ k + 1000000000 ≤ s.start.now) :=
  ⟨st fun m => m.wr SEQ_CTRL_LOCKSTEP 1, by decide⟩

theorem witness_ThreadLifeAndSequencerCommandsComplete_7 : ∃ (s : State) (v : BitVec 64) (d base size : Nat), (d = s.start.rd SEQ_DOM_SEL_DOMAIN) ∧ (base = v.toNat / 2 ^ 20 % 2 ^ 20) ∧ (size = v.toNat / 2 ^ 40 % 2 ^ 12) ∧ (s.start.domThreads d = 0) ∧ (d ≠ 0 ∨ size = 0) ∧ (s.start.sliceBad d base size = false) :=
  ⟨State.reset, 0, 0, 0, 0, by decide⟩

theorem witness_ThreadLifeAndSequencerCommandsComplete_9 : ∃ (s : State) (v : BitVec 32), (s.start.flag SEQ_CTRL_LOCK = false) ∧ (v.getLsbD 1 = true) :=
  ⟨State.reset, 3, by decide⟩

theorem witness_TimebaseCommandsComplete_3 : ∃ (s : State) (v : BitVec 32), (s.start.flag TB_CTRL_CLKIN_EN = false) :=
  ⟨State.reset, 0, by decide⟩

theorem witness_TimebaseCommandsComplete_4 : ∃ (s : State) (rate : Int), (s.start.flag TB_CTRL_CLKIN_EN = true) ∧ (-2147483 ≤ rate) ∧ (rate ≤ 2147483) :=
  ⟨(st fun m => m.wr TB_CTRL_CLKIN_EN 1), -2147483, by decide⟩

theorem witness_TimebaseCommandsComplete_5 : ∃ (s : State) (e : Int), (s.start.flag TB_CTRL_PPS_EN = true) ∧ (s.start.ppsSeen = false ∨ 500000000 * 2 ^ 32 ≤ s.start.ppsAge) ∧ (e = ppsOffset s.start.tbNs) ∧ (e.natAbs ≤ min 1000000 (s.start.rd TB_WINDOW_WINDOW)) :=
  ⟨(st fun m => { m.wr TB_CTRL_PPS_EN 1 with tb := 5 }), 0, by decide⟩

theorem witness_TimebaseCommandsComplete_6 : ∃ (s : State) (e : Int), (s.start.flag TB_CTRL_PPS_EN = true) ∧ (s.start.flag TB_CTRL_PPS_FORCE = false) ∧ (s.start.ppsSeen = false ∨ 500000000 * 2 ^ 32 ≤ s.start.ppsAge) ∧ (e = ppsOffset s.start.tbNs) ∧ (min 1000000 (s.start.rd TB_WINDOW_WINDOW) < e.natAbs) :=
  ⟨(st fun m => { m.wr TB_CTRL_PPS_EN 1 with tb := 500000000 * 2 ^ 32 }), 500000000, by decide⟩

theorem witness_TimebaseCommandsComplete_7 : ∃ (s : State), (s.start.ppsLost = false) :=
  ⟨State.reset, by decide⟩

theorem witness_TimebaseCommandsComplete_8 : ∃ (s : State) (c : Fin 32) (n : Fin 9) (v : Word) (k : Nat), (n.val < 8) ∧ (s.start.flag (CNT_FB_CTRL_FREEZE c) = false) :=
  ⟨State.reset, 31, 7, 5, 3, by decide⟩

theorem witness_TimebaseCommandsComplete_9 : ∃ (s : State) (c : Fin 32) (v : Word) (k : Nat), (s.start.flag (CNT_FB_CTRL_FREEZE c) = false) ∧ (s.start.flag (CNT_FB_CTRL_CYC_EN c) = true) :=
  ⟨(st fun m => m.wr (CNT_FB_CTRL_CYC_EN 0) 1), 0, 5, 1, by decide⟩

theorem witness_SlotPowerCommandsComplete_1 : ∃ (s : State) (c : Chan) (i v bus : Nat), (s.start.spcSt c < 2 ∨ s.start.spcSt c = 5) :=
  ⟨State.reset, 71, 70000, 12000, 12000, by decide⟩

theorem witness_SlotPowerCommandsComplete_2 : ∃ (s : State) (c : Chan) (i v bus : Nat), (2 ≤ s.start.spcSt c) ∧ (s.start.spcSt c ≤ 4) :=
  ⟨(st fun m => m.wr (SPC_STATUS_STATE 5) 4), 5, 100, 12000, 12000, by decide⟩

theorem witness_SlotPowerCommandsComplete_3 : ∃ (s : State) (b : Bool) (i vin bus : Nat), (s.start.flag (feedValid b) = false) :=
  ⟨State.reset, true, 0, 12000, 12000, by decide⟩

theorem witness_SlotPowerCommandsComplete_4 : ∃ (s : State) (c : Chan), (c.val < 64) ∧ (2 ≤ s.start.spcSt c) ∧ (s.start.spcSt c ≤ 4) :=
  ⟨(st fun m => m.wr (SPC_STATUS_STATE 63) 2), 63, by decide⟩

theorem witness_SlotPowerCommandsComplete_5 : ∃ (s : State) (c : Chan), (64 ≤ c.val) ∧ (2 ≤ s.start.spcSt c) ∧ (s.start.spcSt c ≤ 4) :=
  ⟨(st fun m => m.wr (SPC_STATUS_STATE 64) 4), 64, by decide⟩

theorem witness_SlotPowerCommandsComplete_6 : ∃ (s : State) (c : Chan), (s.start.owners c = []) ∧ (s.start.spcSt c = 0) :=
  ⟨State.reset, 5, ⟨by decide +kernel, by decide⟩⟩

theorem witness_SlotPowerCommandsComplete_7 : ∃ (s : State) (c : Chan), (s.start.owners c = []) :=
  ⟨State.reset, 71, by decide +kernel⟩

theorem witness_SlotPowerCommandsComplete_10 : ∃ (s : State) (c : Nat) (rest : List Nat), (s.start.slotWait = c :: rest) ∧ (c < 72) ∧ (s.start.rampSum + s.start.rd (SPC_RAMP_INRUSH_EST c) ≤ s.start.rd ORG_CTRL_BUS_INRUSH) :=
  ⟨(st fun m => { (m.wr ORG_CTRL_BUS_INRUSH 100).wr (SPC_RAMP_INRUSH_EST 5) 100 with slotWait := [5] }), 5, [], ⟨by decide, by decide, by decide +kernel⟩⟩

theorem witness_SlotPowerCommandsComplete_11 : ∃ (s : State) (c : Chan), (s.start.spcSt c = 2) :=
  ⟨(st fun m => m.wr (SPC_STATUS_STATE 5) 2), 5, by decide⟩

theorem witness_SlotPowerCommandsComplete_12 : ∃ (s : State) (c : Chan), (s.start.spcSt c = 3) ∧ ((s.start.sx c).qual = true) ∧ (s.start.flag (SPC_STATUS_TIMER c) = false) ∧ (s.start.flag (SPC_STATUS_LIMITING c) = false) ∧ (s.start.owners c = []) :=
  ⟨(st fun m => (m.wr (SPC_STATUS_STATE 5) 3).updSx 5 fun x => { x with qual := true }), 5, ⟨by decide, by decide, by decide, by decide, by decide +kernel⟩⟩

theorem witness_SlotPowerCommandsComplete_13 : ∃ (s : State) (c : Chan), (s.start.spcSt c = 4) ∧ (s.start.owners c = []) :=
  ⟨(st fun m => m.wr (SPC_STATUS_STATE 5) 4), 5, ⟨by decide, by decide +kernel⟩⟩

theorem witness_SlotPowerCommandsComplete_14 : ∃ (s : State) (c : Chan), (s.start.flag (SPC_STATUS_TIMER c) = true) :=
  ⟨(st fun m => m.wr (SPC_STATUS_TIMER 5) 1), 5, by decide⟩

theorem witness_SlotPowerCommandsComplete_15 : ∃ (s : State) (c : Chan), (s.start.spcSt c = 5) :=
  ⟨(st fun m => m.wr (SPC_STATUS_STATE 5) 5), 5, by decide⟩

theorem witness_SlotPowerCommandsComplete_16 : ∃ (s : State) (c : Chan), (s.start.flag (SPC_STATUS_PG c) = true) :=
  ⟨(st fun m => m.wr (SPC_STATUS_PG 5) 1), 5, by decide⟩

theorem witness_FeedCommandsComplete_1 : ∃ (s : State) (b : Bool), (s.start.feedLive b = true) :=
  ⟨(st fun m => (m.wr (feedValid true) 1).wr (feedEn true) 1), true, by decide⟩

theorem witness_FeedCommandsComplete_2 : ∃ (s : State) (b : Bool), (s.start.feedLive b = true) ∧ ((s.start.fx b).ready = false) ∧ (s.start.flag (feedRev b) = false) :=
  ⟨(st fun m => (m.wr (feedValid true) 1).wr (feedEn true) 1), true, by decide⟩

theorem witness_FeedCommandsComplete_3 : ∃ (s : State) (b : Bool), (s.start.flag (feedOn b) = true) :=
  ⟨(st fun m => m.wr (feedOn false) 1), false, by decide⟩

theorem witness_PowerStateCommandsComplete_1 : ∃ (s : State) (mask : Word), (s.latch.tf = false) ∧ ((List.range 64).all (fun t => !mask.getLsbD t || bit (s.start.rd WKT_SHUTTER_TILE) t || s.start.mayGate t) = true) :=
  ⟨State.reset, 1, by decide +kernel⟩

theorem witness_PowerStateCommandsComplete_2 : ∃ (s : State) (t : Tile), (s.start.gated t = true) ∧ (bit (s.start.rd WKT_SHUTTER_TILE) t = false) :=
  ⟨(st fun m => m.wr WKT_SHUTTER_STATUS_TILE (2 ^ 63)), 63, by decide⟩

theorem witness_PowerStateCommandsComplete_3 : ∃ (s : State), (s.start.rd WKT_BOOT_STATUS_STAGE = 3) ∧ (s.start.rd WKT_PWR_STATUS_STATE ≤ 1) ∧ (s.start.boot.orderly = none) ∧ (s.start.mayIdle = true) :=
  ⟨(st fun m => (m.wr WKT_BOOT_STATUS_STAGE 3).wr WKT_PWR_CTRL_IDLE_EN 1), ⟨by decide, by decide, by decide, by decide +kernel⟩⟩

theorem witness_PowerStateCommandsComplete_4 : ∃ (s : State), (s.start.rd WKT_PWR_STATUS_STATE = 2) :=
  ⟨(st fun m => m.wr WKT_PWR_STATUS_STATE 2), by decide⟩

theorem witness_PowerStateCommandsComplete_5 : ∃ (s : State) (v : BitVec 32) (l2 : Bool), ((s.start.pwrCtrl v.toNat).rd WKT_PWR_STATUS_STATE < 3) ∧ ((s.start.pwrCtrl v.toNat).rd WKT_BOOT_STATUS_STAGE = 3) ∧ (s.start.boot.orderly = none) ∧ ((s.start.pwrCtrl v.toNat).flag WKT_PWR_CTRL_FORCE = true ∨ l2 = true) ∧ ((s.start.pwrCtrl v.toNat).privetWalks = false) ∧ ((s.start.pwrCtrl v.toNat).rebuilding = false) ∧ ((s.start.pwrCtrl v.toNat).recovering = false) ∧ (s.start.mir = []) ∧ (s.start.pldm.st = .idle) :=
  ⟨(st fun m => m.wr WKT_BOOT_STATUS_STAGE 3), 1, true, by decide⟩

theorem witness_PowerStateCommandsComplete_6 : ∃ (s : State) (mems : List (Nat × QMem)), (s.start.rd WKT_PWR_STATUS_STATE = 3) ∧ (s.start.pw.committed = false) ∧ (s.start.dormantDrained = false) :=
  ⟨(st fun m => { m.wr WKT_PWR_STATUS_STATE 3 with threads := [(64, aThr [])] }), [], by decide⟩

theorem witness_PowerStateCommandsComplete_7 : ∃ (s : State), (s.start.rd WKT_PWR_STATUS_STATE = 3) ∧ (s.start.pw.committed = false) ∧ (s.start.freezeTenants.dormantDrained = true) ∧ (s.start.freezeTenants.spillTier1.tier1Out = true) :=
  ⟨(st fun m => m.wr WKT_PWR_STATUS_STATE 3), ⟨by decide, by decide, by decide +kernel, by decide +kernel⟩⟩

theorem witness_PowerStateCommandsComplete_8 : ∃ (s : State) (low : Bool), (s.start.pw.window = true) ∧ (s.start.rd WKT_PWR_STATUS_STATE ≠ 4) :=
  ⟨(st fun m => { m with pw := { window := true } }), true, by decide⟩

theorem witness_PowerStateCommandsComplete_10 : ∃ (s : State), (s.start.pw.committed = true) ∧ (s.start.rd WKT_WAKE_TIMER_MS ≠ 0) :=
  ⟨(st fun m => { m.wr WKT_WAKE_TIMER_MS 1 with pw := { committed := true } }), by decide⟩

theorem witness_PowerStateCommandsComplete_11 : ∃ (s : State) (low : Bool) (mems : List (Nat × QMem)), (s.start.pw.pend ≠ 0) ∧ (low = false) ∧ (s.start.rd WKT_PWR_STATUS_STATE = 4) :=
  ⟨(st fun m => { m.wr WKT_PWR_STATUS_STATE 4 with pw := { pend := 1, committed := true } }), false, [], by decide⟩

theorem witness_PowerStateCommandsComplete_12 : ∃ (s : State) (low : Bool) (mems : List (Nat × QMem)), (s.start.pw.pend ≠ 0) ∧ (low = false) ∧ (s.start.rd WKT_PWR_STATUS_STATE = 3) ∧ (s.start.pw.committed = false) :=
  ⟨(st fun m => { m.wr WKT_PWR_STATUS_STATE 3 with pw := { pend := 1 } }), false, [], by decide⟩

theorem witness_PowerStateCommandsComplete_13 : ∃ (s : State) (vlane : Bool), (s.start.rd WKT_PWR_STATUS_STATE = 5) ∧ ((if vlane then s.start.pins.vlaneEn && !s.start.pins.vlanePg else s.start.pins.vcoreEn && !s.start.pins.vcorePg) = true) :=
  ⟨(st fun m => { m.wr WKT_PWR_STATUS_STATE 5 with pins := { m.pins with vcoreEn := true, vcorePg := false } }), false, by decide⟩

theorem witness_RasCommandsComplete_1 : ∃ (s : State) (key : Nat) (e : Trk), (s.start.entry key = some e) ∧ (e.late = false) ∧ (e.phase ≠ .draining) ∧ (¬(e.answered = true ∧ e.outs = [])) ∧ (e.x.coh = none) ∧ (e.x.pair = none) :=
  ⟨(st fun m => { live m with trk := [(0, anEntry)] }), 0, anEntry, by decide⟩

theorem witness_RasCommandsComplete_2 : ∃ (s : State) (key : Nat) (e : Trk) (p : Nat), (s.start.entry key = some e) ∧ (e.late = true) ∧ (e.outs = [p]) ∧ (e.specTag = none) :=
  ⟨(st fun m => { live m with trk := [(0, { anEntry with late := true, outs := [16] })] }), 0, { anEntry with late := true, outs := [16] }, 16, by decide⟩

theorem witness_RasCommandsComplete_3 : ∃ (s : State) (p : Port) (tag : Fin 8192) (r : Rsp) (load : Option (Fin 4)) (v : Nat) (e : Trk), (SMap.find s.start.tags (p.val / 16 * 8192 + tag) = some v) ∧ (s.start.entry (v / 1024) = some e) ∧ (e.late = true) :=
  ⟨(st fun m => { live m with trk := [(0, { anEntry with late := true, outs := [16] })], tags := [(8192, 16)] }), 16, 0, .ca, none, 16, { anEntry with late := true, outs := [16] }, by decide⟩

theorem witness_RasCommandsComplete_4 : ∃ (s : State) (p : Port), (s.start.isUp p = true) :=
  ⟨(st live), 0, by decide⟩

theorem witness_RasCommandsComplete_5 : ∃ (s : State) (p : Port), (s.start.isUp p = false) ∧ (s.start.portPooled p = true) :=
  ⟨(st fun m => (live m).wr (TILE_PORT_CTRL_ROLE 16) 0), 16, by decide⟩

theorem witness_RasCommandsComplete_6 : ∃ (s : State) (p : Port) (i : Nat), (s.start.isUp p = true) ∧ (i = p.val / 32) :=
  ⟨(st live), 0, 0, by decide⟩

theorem witness_RasCommandsComplete_7 : ∃ (s : State) (e : ErrRec) (x : FaultAt), (codeClass e.block e.code = some .corrected) :=
  ⟨(st live), { cls := .corrected, block := 5, code := 1 }, .nothing, by decide⟩

theorem witness_RasCommandsComplete_8 : ∃ (s : State) (e : ErrRec) (x : FaultAt) (p : Nat), (codeClass e.block e.code = some .portFatal) ∧ (¬(e.block = 1 ∧ e.code = 3)) ∧ (e.port = some p) ∧ (s.start.portExists p = true) :=
  ⟨(st live), { cls := .corrected, block := 2, code := 4, port := some 16 }, .nothing, 16, by decide⟩

theorem witness_RasCommandsComplete_9 : ∃ (s : State) (e : ErrRec) (x : FaultAt), (codeClass e.block e.code = some .deviceFatal) :=
  ⟨(st live), { cls := .deviceFatal, block := 7, code := 2 }, .nothing, by decide⟩

theorem witness_RasCommandsComplete_10 : ∃ (s : State) (i : Nat) (g : Merging), (s.start.merging[i]? = some g) :=
  ⟨(st fun m => { live m with merging := [aMerge] }), 0, aMerge, by decide⟩

theorem witness_RasCommandsComplete_12 : ∃ (s : State) (ch : Fin 8) (l : Nat), (s.start.rd ERR_SCRUB_HOURS ≠ 0) ∧ (l ∉ s.start.ddrBad) :=
  ⟨(st fun m => m.wr ERR_SCRUB_HOURS 24), 7, 5, by decide⟩

theorem witness_RasCommandsComplete_15 : ∃ (s : State) (v : BitVec 32), (v.getLsbD 0 = true) :=
  ⟨State.reset, 1, by decide⟩

theorem witness_RasCommandsComplete_16 : ∃ (s : State) (f : Nat) (v : BitVec 32), (s.start.fnAnswers s.latch f = true) :=
  ⟨(st live), 0, 3, by decide⟩

theorem witness_RegisterAccessCommandsComplete_1 : ∃ (s : State) (src : BarSrc) (off : Fin 268435456) (wide : Bool), (s.start.reaches s.latch src = true) :=
  ⟨(st live), .fn 0, 0, true, by decide⟩

theorem witness_RegisterAccessCommandsComplete_3 : ∃ (s : State) (src : BarSrc) (off : Fin 268435456), (lowDword (.bar0 src off) s.latch = true) ∧ (s.start.reaches s.latch src = true) :=
  ⟨(st live), .fn 0, 0x200000, ⟨by decide +kernel, by decide⟩⟩

theorem witness_RegisterAccessCommandsComplete_4 : ∃ (s : State) (src : BarSrc) (off : Fin 268435456) (v : BitVec 32), (lowDword (.bar0 src off) s.latch = true) ∧ (s.start.reaches s.latch src = true) :=
  ⟨(st live), .mctp, 0x200000, 5, ⟨by decide +kernel, by decide⟩⟩

theorem witness_RegisterAccessCommandsComplete_5 : ∃ (s : State) (src : BarSrc) (off : Fin 268435456) (wide : Bool) (v : Word) (mem : QMem), (s.start.reaches s.latch src = true) :=
  ⟨(st live), .mctp, 0, false, 0, {}, by decide⟩

theorem witness_RegisterAccessCommandsComplete_7 : ∃ (s : State) (p : Fin 4) (w : TfCtrWrite) (wide : Bool) (v : Word) (mem : QMem), (s.start.tfHas s.latch p = true) ∧ (s.start.coldReq = none) :=
  ⟨{ (st live) with latch := { latched := true, tf := true, personalities := 4 } }, 3, .cycle 0, false, 0, {}, by decide⟩

theorem witness_RegisterAccessCommandsComplete_8 : ∃ (s : State) (src : BarSrc) (off : Fin 268435456) (wide : Bool) (v : Word), (s.start.reaches s.latch src = true) ∧ ((s.start.aliasOf off).isSome = true) :=
  ⟨(st live), .mctp, 0x100800, false, 1, ⟨by decide, by decide +kernel⟩⟩

theorem witness_RegisterAccessCommandsComplete_9 : ∃ (s : State) (src : BarSrc) (off : Fin 268435456) (size : Nat), (s.start.reaches s.latch src = true) ∧ (src.thread? = none) ∧ (¬((size = 4 ∧ off.val % 4 = 0) ∨ (size = 8 ∧ off.val % 8 = 0))) ∧ (size ≤ 8) ∧ (s.start.coldReq = none) :=
  ⟨(st live), .mctp, 268435455, 8, by decide⟩

theorem witness_RegisterAccessCommandsComplete_10 : ∃ (s : State) (src : BarSrc) (off : Fin 268435456) (size : Nat), (s.start.reaches s.latch src = true) ∧ (src.thread? = none) ∧ (¬((size = 4 ∧ off.val % 4 = 0) ∨ (size = 8 ∧ off.val % 8 = 0))) ∧ (size ≤ 8) ∧ (s.start.coldReq = none) :=
  ⟨(st live), .mctp, 1, 1, by decide⟩

theorem witness_RegisterAccessCommandsComplete_11 : ∃ (s : State) (f : Fin 8) (off : Fin 268435456) (dws : List (BitVec 32)) (mem : QMem), (s.start.reaches s.latch (.fn f) = true) ∧ (2 < dws.length) ∧ (off.val % 8 = 0) ∧ (off.val / 64 = (off.val + 4 * dws.length - 1) / 64) :=
  ⟨(st live), 0, 0, [1, 2, 3], {}, by decide⟩

theorem witness_RegisterAccessCommandsComplete_12 : ∃ (s : State) (f : Fin 8) (off : Fin 268435456) (dws : List (BitVec 32)) (full : Bool) (mem : QMem), (s.start.reaches s.latch (.fn f) = true) ∧ (s.start.coldReq = none) ∧ (2 < dws.length) ∧ (full = false ∨ off.val % 4 ≠ 0 ∨ off.val / 64 ≠ (off.val + 4 * dws.length - 1) / 64) :=
  ⟨(st live), 0, 56, [1, 2, 3], true, {}, by decide⟩

theorem witness_RegisterAccessCommandsComplete_13 : ∃ (s : State) (src : BarSrc) (v : BitVec 32), (s.start.reaches s.latch src = true) :=
  ⟨(st live), .mctp, 2, by decide⟩

theorem witness_RegisterAccessCommandsComplete_14 : ∃ (s : State) (src : BarSrc) (v : BitVec 32), (s.start.reaches s.latch src = true) :=
  ⟨(st live), .mctp, 1, by decide⟩

theorem witness_RegisterAccessCommandsComplete_15 : ∃ (s : State) (v : Fin 11), (bit s.start.irqOwed v = true) :=
  ⟨(st fun m => { m with irqOwed := 1024 }), 10, by decide⟩

theorem witness_RegisterAccessCommandsComplete_16 : ∃ (s : State) (size : BitVec 8) (tag : BitVec 16) (off : BitVec 32), (s.start.mctpServed = true) ∧ ((size.toNat = 4 ∧ off.toNat % 4 = 0) ∨ (size.toNat = 8 ∧ off.toNat % 8 = 0)) ∧ ((s.start.wakeIdle .mctp).answers .mctp off.toNat = true) :=
  ⟨(st fun m => { live m with boot := { m.boot with auxGood := true } }), 4, 7, 0, by decide⟩

theorem witness_RegisterAccessCommandsComplete_17 : ∃ (s : State) (size : BitVec 8) (tag : BitVec 16) (off : BitVec 32) (data : Word) (mem : QMem), (s.start.mctpServed = true) ∧ ((size.toNat = 4 ∧ off.toNat % 4 = 0) ∨ (size.toNat = 8 ∧ off.toNat % 8 = 0)) ∧ ((s.start.wakeIdle .mctp).answers .mctp off.toNat = true) :=
  ⟨(st fun m => { live m with boot := { m.boot with auxGood := true } }), 8, 7, 8, 1, {}, by decide⟩

theorem witness_Tf256CommandsComplete_1 : ∃ (s : State) (p : Fin 4) (off : Fin 32768) (bytes : List Byte) (sumOk : Bool) (ports : List TfPort) (c : TfCopy), (s.start.tfHas s.latch p = true) ∧ (s.start.fwDown = false) ∧ (c = SMap.get {} s.start.flash.tf p) :=
  ⟨stTf, 3, 32767, [1, 2], true, [], _, ⟨by decide, by decide, rfl⟩⟩

theorem witness_Tf256CommandsComplete_2 : ∃ (s : State) (p : Fin 4) (v : Fin 16) (i : Fin 64) (body : HdmBody) (cas : List (Nat × Casement)), (s.start.tfHas s.latch p = true) ∧ (s.start.rd WKT_BOOT_STATUS_STAGE = 3) ∧ (s.start.fwDown = false) ∧ ((SMap.get ({} : HdmDec) s.start.hdm (tfDom p v * 64 + i)).slots = []) ∧ (s.start.hdmCover p (tfDom p v) body = some (cas, none)) :=
  ⟨stTfHost, 0, 0, 0, { base := 0, size := 4096, targets := [(2, none)] }, [(0, { base := 0, k := 12, r := true, w := true, a := true, spec := false, coh := false, hedge := 0, privOnly := false, ilv := false, mirror := false, target := 16, offset := 0, cohBase := 0 })], by decide +kernel⟩

theorem witness_Tf256CommandsComplete_3 : ∃ (s : State) (p : Fin 4) (v : Fin 16) (i : Fin 64) (body : HdmBody), (s.start.tfHas s.latch p = true) ∧ (s.start.rd WKT_BOOT_STATUS_STAGE = 3) ∧ (s.start.fwDown = false) ∧ ((SMap.get ({} : HdmDec) s.start.hdm (tfDom p v * 64 + i)).slots = []) ∧ (s.start.hdmCover p (tfDom p v) body = none) :=
  ⟨stTf, 0, 0, 0, { base := 0, size := 4096, targets := [(2, none)] }, by decide +kernel⟩

theorem witness_Tf256CommandsComplete_4 : ∃ (s : State) (p : Fin 4) (v : Fin 16) (i : Fin 64) (x : HdmDec), (s.start.tfHas s.latch p = true) ∧ (s.start.rd WKT_BOOT_STATUS_STAGE = 3) ∧ (s.start.fwDown = false) ∧ (x = SMap.get {} s.start.hdm (tfDom p v * 64 + i)) ∧ (x.clearing = false) ∧ (x.slots ≠ []) :=
  ⟨{ stTf with m := { stTf.m with hdm := [(tfDom 0 0 * 64, { slots := [0] })] } }, 0, 0, 0, { slots := [0] }, by decide⟩

theorem witness_Tf256CommandsComplete_5 : ∃ (s : State) (p : Fin 4) (op : FwaOp) (time : Nat), (s.start.tfHas s.latch p = true) ∧ (s.start.fwDown = false) ∧ (time ≤ 400) :=
  ⟨stTf, 3, .sensor, 400, by decide⟩

theorem witness_Tf256CommandsComplete_6 : ∃ (s : State) (p : Fin 4), (s.start.tfHas s.latch p = true) ∧ (s.start.fwDown = true) :=
  ⟨{ stTf with m := { stTf.m with fwDown := true } }, 0, by decide⟩

theorem witness_Tf256CommandsComplete_7 : ∃ (s : State) (src : BarSrc) (p : Fin 4) (v : BitVec 32), (s.start.reaches s.latch src = true) :=
  ⟨stTf, .mctp, 3, 1, by decide⟩

theorem witness_MemoryInstructionsTrapAsTheRulesGive_1 : ∃ (s : State) (th : Thr) (rd rb : Fin 32) (space size : Fin 4) (off : BitVec 12) (t : Thread), (s.start.fetches th (encM 0x10 rd rb space size off) t) ∧ (space.val = 3) ∧ (t.manager = false) :=
  ⟨stThr (encM 0x10 1 2 3 0 0) [], 64, 1, 2, 3, 0, 0, aThr [], by decide⟩

theorem witness_MemoryInstructionsTrapAsTheRulesGive_2 : ∃ (s : State) (th : Thr) (rd rb : Fin 32) (space size : Fin 4) (off : BitVec 12) (t : Thread) (a n : Nat), (s.start.fetches th (encM 0x10 rd rb space size off) t) ∧ (space.val = 3 → t.manager = true) ∧ (a = (t.reg rb + off.signExtend 64).toNat) ∧ (n = 2 ^ size.val) ∧ (a % n ≠ 0) :=
  ⟨stThr (encM 0x10 1 2 0 1 1) [], 64, 1, 2, 0, 1, 1, aThr [], 1, 2, by decide⟩

theorem witness_MemoryInstructionsTrapAsTheRulesGive_3 : ∃ (s : State) (th : Thr) (rd rb : Fin 32) (space size : Fin 4) (off : BitVec 12) (t : Thread) (a n : Nat), (s.start.fetches th (encM 0x10 rd rb space size off) t) ∧ (space.val = 0) ∧ (a = (t.reg rb + off.signExtend 64).toNat) ∧ (n = 2 ^ size.val) ∧ (a % n = 0) ∧ (t.win < a + n) :=
  ⟨stThr (encM 0x10 1 2 0 3 0) [(2, 4096)], 64, 1, 2, 0, 3, 0, aThr [(2, 4096)], 4096, 8, by decide⟩

theorem witness_MemoryInstructionsTrapAsTheRulesGive_4 : ∃ (s : State) (th : Thr) (rd rb : Fin 32) (space size : Fin 4) (off : BitVec 12) (t : Thread) (a n : Nat), (s.start.fetches th (encM 0x10 rd rb space size off) t) ∧ (space.val = 1) ∧ (a = (t.reg rb + off.signExtend 64).toNat) ∧ (n = 2 ^ size.val) ∧ (a % n = 0) ∧ (s.start.dmLimit t < a + n) :=
  ⟨stThr (encM 0x10 1 2 1 3 0) [], 64, 1, 2, 1, 3, 0, aThr [], 0, 8, by decide⟩

theorem witness_MemoryInstructionsTrapAsTheRulesGive_5 : ∃ (s : State) (th : Thr) (rd rb : Fin 32) (space size : Fin 4) (off : BitVec 12) (t : Thread) (a n : Nat), (s.start.fetches th (encM 0x10 rd rb space size off) t) ∧ (space.val = 3) ∧ (t.manager = true) ∧ (a = (t.reg rb + off.signExtend 64).toNat) ∧ (n = 2 ^ size.val) ∧ (a % n = 0) ∧ (0x80000 < a + n) :=
  ⟨stMgr (encM 0x10 1 2 3 3 0) [(2, 0x80000)], 0, 1, 2, 3, 3, 0, mThr [(2, 0x80000)], 0x80000, 8, by decide⟩

theorem witness_MemoryInstructionsTrapAsTheRulesGive_6 : ∃ (s : State) (th : Thr) (rd rb : Fin 32) (space size : Fin 4) (off : BitVec 12) (t : Thread) (a n : Nat) (x : Nat) (m : Mach), (s.start.fetches th (encM 0x10 rd rb space size off) t) ∧ (space.val = 2) ∧ (a = (t.reg rb + off.signExtend 64).toNat) ∧ (n = 2 ^ size.val) ∧ (a % n = 0) ∧ (t.writing a n = false) ∧ (s.start.fmCheck th t ({ src := .thread th.val, kind := .ncRead, addr := a }) n = some (x, m)) :=
  ⟨stThr (encM 0x10 1 2 2 3 0) [], 64, 1, 2, 2, 3, 0, aThr [], 0, 8, 0, refusedM (stThr (encM 0x10 1 2 2 3 0) []) ({ src := .thread 64, kind := .ncRead, addr := 0 }) 8, by (repeat' apply And.intro) <;> first | decide | rfl⟩

theorem witness_MemoryInstructionsTrapAsTheRulesGive_7 : ∃ (s : State) (th : Thr) (rd rb : Fin 32) (space size : Fin 4) (off : BitVec 12) (t : Thread), (s.start.fetches th (encM 0x11 rd rb space size off) t) ∧ (space.val = 3) :=
  ⟨stThr (encM 0x11 1 2 3 0 0) [], 64, 1, 2, 3, 0, 0, aThr [], by decide⟩

theorem witness_MemoryInstructionsTrapAsTheRulesGive_8 : ∃ (s : State) (th : Thr) (rd rb : Fin 32) (space size : Fin 4) (off : BitVec 12) (t : Thread) (a n : Nat), (s.start.fetches th (encM 0x11 rd rb space size off) t) ∧ (space.val ≠ 3) ∧ (a = (t.reg rb + off.signExtend 64).toNat) ∧ (n = 2 ^ size.val) ∧ (a % n ≠ 0) :=
  ⟨stThr (encM 0x11 1 2 0 1 1) [], 64, 1, 2, 0, 1, 1, aThr [], 1, 2, by decide⟩

theorem witness_MemoryInstructionsTrapAsTheRulesGive_9 : ∃ (s : State) (th : Thr) (rd rb : Fin 32) (space size : Fin 4) (off : BitVec 12) (t : Thread) (a n : Nat), (s.start.fetches th (encM 0x11 rd rb space size off) t) ∧ (space.val = 0) ∧ (a = (t.reg rb + off.signExtend 64).toNat) ∧ (n = 2 ^ size.val) ∧ (a % n = 0) ∧ (t.win < a + n) :=
  ⟨stThr (encM 0x11 1 2 0 3 0) [(2, 4096)], 64, 1, 2, 0, 3, 0, aThr [(2, 4096)], 4096, 8, by decide⟩

theorem witness_MemoryInstructionsTrapAsTheRulesGive_10 : ∃ (s : State) (th : Thr) (rd rb : Fin 32) (space size : Fin 4) (off : BitVec 12) (t : Thread) (a n : Nat), (s.start.fetches th (encM 0x11 rd rb space size off) t) ∧ (space.val = 1) ∧ (a = (t.reg rb + off.signExtend 64).toNat) ∧ (n = 2 ^ size.val) ∧ (a % n = 0) ∧ (s.start.dmLimit t < a + n ∨ s.start.dmGuarded t a n = true) :=
  ⟨stThr (encM 0x11 1 2 1 3 0) [], 64, 1, 2, 1, 3, 0, aThr [], 0, 8, by decide⟩

theorem witness_MemoryInstructionsTrapAsTheRulesGive_11 : ∃ (s : State) (th : Thr) (rd rb : Fin 32) (space size : Fin 4) (off : BitVec 12) (t : Thread) (a n : Nat) (x : Nat) (m : Mach), (s.start.fetches th (encM 0x11 rd rb space size off) t) ∧ (space.val = 2) ∧ (a = (t.reg rb + off.signExtend 64).toNat) ∧ (n = 2 ^ size.val) ∧ (a % n = 0) ∧ (t.outW.length < 32) ∧ (s.start.fmCheck th t (lineWrite (.thread th.val) a (leBytes n (t.reg rd).toNat)) n = some (x, m)) :=
  ⟨stThr (encM 0x11 1 2 2 3 0) [], 64, 1, 2, 2, 3, 0, aThr [], 0, 8, 0, refusedM (stThr (encM 0x11 1 2 2 3 0) []) (lineWrite (.thread 64) 0 (leBytes 8 0)) 8, by (repeat' apply And.intro) <;> first | decide | rfl⟩

theorem witness_MemoryInstructionsTrapAsTheRulesGive_12 : ∃ (s : State) (th : Thr) (rl rb : Fin 32) (space n : Fin 4) (off : BitVec 12) (t : Thread), (s.start.fetches th (encM 0x13 rl rb space n off) t) ∧ (space.val = 0 ∨ space.val = 3) :=
  ⟨stThr (encM 0x13 1 2 3 0 0) [], 64, 1, 2, 3, 0, 0, aThr [], by decide⟩

theorem witness_MemoryInstructionsTrapAsTheRulesGive_13 : ∃ (s : State) (th : Thr) (rl rb : Fin 32) (space n : Fin 4) (off : BitVec 12) (t : Thread) (far ls len : Nat), (s.start.fetches th (encM 0x13 rl rb space n off) t) ∧ (space.val = 1 ∨ space.val = 2) ∧ (far = (t.reg rb + off.signExtend 64).toNat) ∧ (ls = (t.reg rl).toNat) ∧ (len = 64 * 2 ^ n.val) ∧ (far % len ≠ 0) :=
  ⟨stThr (encM 0x13 1 2 1 1 64) [], 64, 1, 2, 1, 1, 64, aThr [], 64, 0, 128, by decide⟩

theorem witness_MemoryInstructionsTrapAsTheRulesGive_14 : ∃ (s : State) (th : Thr) (rl rb : Fin 32) (space n : Fin 4) (off : BitVec 12) (t : Thread) (far ls len : Nat), (s.start.fetches th (encM 0x13 rl rb space n off) t) ∧ (space.val = 1 ∨ space.val = 2) ∧ (far = (t.reg rb + off.signExtend 64).toNat) ∧ (ls = (t.reg rl).toNat) ∧ (len = 64 * 2 ^ n.val) ∧ (far % len = 0) ∧ (ls % 64 ≠ 0) :=
  ⟨stThr (encM 0x13 1 2 1 0 0) [(1, 32)], 64, 1, 2, 1, 0, 0, aThr [(1, 32)], 0, 32, 64, by decide⟩

theorem witness_MemoryInstructionsTrapAsTheRulesGive_15 : ∃ (s : State) (th : Thr) (rl rb : Fin 32) (space n : Fin 4) (off : BitVec 12) (t : Thread) (far ls len : Nat), (s.start.fetches th (encM 0x13 rl rb space n off) t) ∧ (space.val = 1 ∨ space.val = 2) ∧ (far = (t.reg rb + off.signExtend 64).toNat) ∧ (ls = (t.reg rl).toNat) ∧ (len = 64 * 2 ^ n.val) ∧ (far % len = 0) ∧ (ls % 64 = 0) ∧ (t.win < ls + len) :=
  ⟨stThr (encM 0x13 1 2 2 3 0) [(1, 4032)], 64, 1, 2, 2, 3, 0, aThr [(1, 4032)], 0, 4032, 512, by decide⟩

theorem witness_MemoryInstructionsTrapAsTheRulesGive_16 : ∃ (s : State) (th : Thr) (rl rb : Fin 32) (space n : Fin 4) (off : BitVec 12) (t : Thread) (far ls len : Nat), (s.start.fetches th (encM 0x13 rl rb space n off) t) ∧ (space.val = 1) ∧ (far = (t.reg rb + off.signExtend 64).toNat) ∧ (ls = (t.reg rl).toNat) ∧ (len = 64 * 2 ^ n.val) ∧ (far % len = 0) ∧ (ls % 64 = 0) ∧ (ls + len ≤ t.win) ∧ (s.start.dmLimit t < far + len) :=
  ⟨stThr (encM 0x13 1 2 1 0 0) [], 64, 1, 2, 1, 0, 0, aThr [], 0, 0, 64, by decide⟩

theorem witness_MemoryInstructionsTrapAsTheRulesGive_17 : ∃ (s : State) (th : Thr) (rl rb : Fin 32) (space n : Fin 4) (off : BitVec 12) (t : Thread) (far ls len : Nat) (x : Nat) (m : Mach), (s.start.fetches th (encM 0x13 rl rb space n off) t) ∧ (space.val = 2) ∧ (far = (t.reg rb + off.signExtend 64).toNat) ∧ (ls = (t.reg rl).toNat) ∧ (len = 64 * 2 ^ n.val) ∧ (far % len = 0) ∧ (ls % 64 = 0) ∧ (ls + len ≤ t.win) ∧ (t.writing far len = false) ∧ (s.start.fmCheck th t { src := .thread th.val, kind := .ncRead, addr := far } len = some (x, m)) :=
  ⟨stThr (encM 0x13 1 2 2 0 0) [], 64, 1, 2, 2, 0, 0, aThr [], 0, 0, 64, 0, refusedM (stThr (encM 0x13 1 2 2 0 0) []) { src := .thread 64, kind := .ncRead, addr := 0 } 64, by (repeat' apply And.intro) <;> first | decide | rfl⟩

theorem witness_MemoryInstructionsTrapAsTheRulesGive_18 : ∃ (s : State) (th : Thr) (rl rb : Fin 32) (space n : Fin 4) (off : BitVec 12) (t : Thread), (s.start.fetches th (encM 0x14 rl rb space n off) t) ∧ (space.val = 0 ∨ space.val = 3) :=
  ⟨stThr (encM 0x14 1 2 3 0 0) [], 64, 1, 2, 3, 0, 0, aThr [], by decide⟩

theorem witness_MemoryInstructionsTrapAsTheRulesGive_19 : ∃ (s : State) (th : Thr) (rl rb : Fin 32) (space n : Fin 4) (off : BitVec 12) (t : Thread) (far ls len : Nat), (s.start.fetches th (encM 0x14 rl rb space n off) t) ∧ (space.val = 1 ∨ space.val = 2) ∧ (far = (t.reg rb + off.signExtend 64).toNat) ∧ (ls = (t.reg rl).toNat) ∧ (len = 64 * 2 ^ n.val) ∧ (far % len ≠ 0) :=
  ⟨stThr (encM 0x14 1 2 1 1 64) [], 64, 1, 2, 1, 1, 64, aThr [], 64, 0, 128, by decide⟩

theorem witness_MemoryInstructionsTrapAsTheRulesGive_20 : ∃ (s : State) (th : Thr) (rl rb : Fin 32) (space n : Fin 4) (off : BitVec 12) (t : Thread) (far ls len : Nat), (s.start.fetches th (encM 0x14 rl rb space n off) t) ∧ (space.val = 1 ∨ space.val = 2) ∧ (far = (t.reg rb + off.signExtend 64).toNat) ∧ (ls = (t.reg rl).toNat) ∧ (len = 64 * 2 ^ n.val) ∧ (far % len = 0) ∧ (ls % 64 ≠ 0) :=
  ⟨stThr (encM 0x14 1 2 1 0 0) [(1, 32)], 64, 1, 2, 1, 0, 0, aThr [(1, 32)], 0, 32, 64, by decide⟩

theorem witness_MemoryInstructionsTrapAsTheRulesGive_21 : ∃ (s : State) (th : Thr) (rl rb : Fin 32) (space n : Fin 4) (off : BitVec 12) (t : Thread) (far ls len : Nat), (s.start.fetches th (encM 0x14 rl rb space n off) t) ∧ (space.val = 1 ∨ space.val = 2) ∧ (far = (t.reg rb + off.signExtend 64).toNat) ∧ (ls = (t.reg rl).toNat) ∧ (len = 64 * 2 ^ n.val) ∧ (far % len = 0) ∧ (ls % 64 = 0) ∧ (t.win < ls + len) :=
  ⟨stThr (encM 0x14 1 2 2 3 0) [(1, 4032)], 64, 1, 2, 2, 3, 0, aThr [(1, 4032)], 0, 4032, 512, by decide⟩

theorem witness_MemoryInstructionsTrapAsTheRulesGive_22 : ∃ (s : State) (th : Thr) (rl rb : Fin 32) (space n : Fin 4) (off : BitVec 12) (t : Thread) (far ls len : Nat), (s.start.fetches th (encM 0x14 rl rb space n off) t) ∧ (space.val = 1) ∧ (far = (t.reg rb + off.signExtend 64).toNat) ∧ (ls = (t.reg rl).toNat) ∧ (len = 64 * 2 ^ n.val) ∧ (far % len = 0) ∧ (ls % 64 = 0) ∧ (ls + len ≤ t.win) ∧ (s.start.dmLimit t < far + len ∨ s.start.dmGuarded t far len = true) :=
  ⟨stThr (encM 0x14 1 2 1 0 0) [], 64, 1, 2, 1, 0, 0, aThr [], 0, 0, 64, by decide⟩

theorem witness_MemoryInstructionsTrapAsTheRulesGive_23 : ∃ (s : State) (th : Thr) (rl rb : Fin 32) (space n : Fin 4) (off : BitVec 12) (t : Thread) (far ls len : Nat) (x : Nat) (m : Mach), (s.start.fetches th (encM 0x14 rl rb space n off) t) ∧ (space.val = 2) ∧ (far = (t.reg rb + off.signExtend 64).toNat) ∧ (ls = (t.reg rl).toNat) ∧ (len = 64 * 2 ^ n.val) ∧ (far % len = 0) ∧ (ls % 64 = 0) ∧ (ls + len ≤ t.win) ∧ (t.outW.length + len / 64 ≤ 32) ∧ (s.start.fmCheck th t { src := .thread th.val, kind := .ncWrite true, addr := far } len = some (x, m)) :=
  ⟨stThr (encM 0x14 1 2 2 0 0) [], 64, 1, 2, 2, 0, 0, aThr [], 0, 0, 64, 0, refusedM (stThr (encM 0x14 1 2 2 0 0) []) { src := .thread 64, kind := .ncWrite true, addr := 0 } 64, by (repeat' apply And.intro) <;> first | decide | rfl⟩

theorem witness_MemoryInstructionsTrapAsTheRulesGive_24 : ∃ (s : State) (th : Thr) (rd rb ra rc : Fin 32) (op : Fin 16) (size : Fin 4) (t : Thread) (n : Nat), (s.start.fetches th (encI 0x15 rd rb (ra.val * 2 ^ 11 + rc.val * 2 ^ 6 + op.val * 4 + size)) t) ∧ (n = 4 * 2 ^ size.val) ∧ (9 < op.val ∨ (n = 16 ∧ op.val ≠ 9) ∨ n = 32) :=
  ⟨stThr (encI 0x15 4 2 (6 * 2 ^ 11 + 8 * 2 ^ 6 + 9 * 4 + 3)) [], 64, 4, 2, 6, 8, 9, 3, aThr [], 32, by decide⟩

theorem witness_MemoryInstructionsTrapAsTheRulesGive_25 : ∃ (s : State) (th : Thr) (rd rb ra rc : Fin 32) (op : Fin 16) (size : Fin 4) (t : Thread) (n : Nat), (s.start.fetches th (encI 0x15 rd rb (ra.val * 2 ^ 11 + rc.val * 2 ^ 6 + op.val * 4 + size)) t) ∧ (n = 4 * 2 ^ size.val) ∧ (op.val = 9) ∧ (n = 16) ∧ (rd.val % 2 = 1 ∨ ra.val % 2 = 1 ∨ rc.val % 2 = 1) :=
  ⟨stThr (encI 0x15 4 2 (7 * 2 ^ 11 + 8 * 2 ^ 6 + 9 * 4 + 2)) [], 64, 4, 2, 7, 8, 9, 2, aThr [], 16, by decide⟩

theorem witness_MemoryInstructionsTrapAsTheRulesGive_26 : ∃ (s : State) (th : Thr) (rd rb ra rc : Fin 32) (op : Fin 16) (size : Fin 4) (t : Thread) (a n : Nat), (s.start.fetches th (encI 0x15 rd rb (ra.val * 2 ^ 11 + rc.val * 2 ^ 6 + op.val * 4 + size)) t) ∧ (a = (t.reg rb).toNat) ∧ (n = 4 * 2 ^ size.val) ∧ ((op.val ≤ 9 ∧ n ≤ 8) ∨ (op.val = 9 ∧ n = 16 ∧ rd.val % 2 = 0 ∧ ra.val % 2 = 0 ∧ rc.val % 2 = 0)) ∧ (a % n ≠ 0) :=
  ⟨stThr (encI 0x15 1 2 (3 * 2 ^ 11 + 4 * 2 ^ 6 + 0 * 4 + 0)) [(2, 2)], 64, 1, 2, 3, 4, 0, 0, aThr [(2, 2)], 2, 4, by decide⟩

theorem witness_MemoryInstructionsTrapAsTheRulesGive_27 : ∃ (s : State) (th : Thr) (rd rb ra rc : Fin 32) (op : Fin 16) (size : Fin 4) (t : Thread) (a n : Nat) (va vc x : Nat) (m : Mach), (s.start.fetches th (encI 0x15 rd rb (ra.val * 2 ^ 11 + rc.val * 2 ^ 6 + op.val * 4 + size)) t) ∧ (a = (t.reg rb).toNat) ∧ (n = 4 * 2 ^ size.val) ∧ ((op.val ≤ 9 ∧ n ≤ 8) ∨ (op.val = 9 ∧ n = 16 ∧ rd.val % 2 = 0 ∧ ra.val % 2 = 0 ∧ rc.val % 2 = 0)) ∧ (a % n = 0) ∧ (t.writing a n = false) ∧ (va = (if n = 16 then (t.reg ra).toNat + 2 ^ 64 * (t.reg (ra.val + 1)).toNat else (t.reg ra).toNat % 2 ^ (8 * n))) ∧ (vc = (if n = 16 then (t.reg rc).toNat + 2 ^ 64 * (t.reg (rc.val + 1)).toNat else (t.reg rc).toNat % 2 ^ (8 * n))) ∧ (s.start.fmCheck th t { src := .thread th.val, kind := .atomic op n va vc, addr := a, len := n } n = some (x, m)) :=
  ⟨stThr (encI 0x15 1 2 (3 * 2 ^ 11 + 4 * 2 ^ 6 + 0 * 4 + 0)) [], 64, 1, 2, 3, 4, 0, 0, aThr [], 0, 4, 0, 0, 0, refusedM (stThr (encI 0x15 1 2 (3 * 2 ^ 11 + 4 * 2 ^ 6 + 0 * 4 + 0)) []) { src := .thread 64, kind := .atomic 0 4 0 0, addr := 0, len := 4 } 4, by (repeat' apply And.intro) <;> first | decide | rfl⟩

theorem witness_MemoryInstructionsTrapAsTheRulesGive_28 : ∃ (s : State) (th : Thr) (rs rb : Fin 32) (imm : BitVec 16) (t : Thread), (s.start.fetches th (encI 0x21 rs rb imm.toNat) t) ∧ (t.manager = false) :=
  ⟨stThr (encI 0x21 1 2 8) [], 64, 1, 2, 8, aThr [], by decide⟩

theorem witness_MemoryInstructionsTrapAsTheRulesGive_29 : ∃ (s : State) (th : Thr) (rs rb : Fin 32) (imm : BitVec 16) (t : Thread) (a : Nat), (s.start.fetches th (encI 0x21 rs rb imm.toNat) t) ∧ (t.manager = true) ∧ (a = (t.reg rb + imm.zeroExtend 64).toNat) ∧ (a % 8 ≠ 0) :=
  ⟨stMgr (encI 0x21 1 2 4) [], 0, 1, 2, 4, mThr [], 4, by decide⟩

theorem witness_MemoryInstructionsTrapAsTheRulesGive_30 : ∃ (s : State) (th : Thr) (rs rb : Fin 32) (imm : BitVec 16) (t : Thread) (a : Nat), (s.start.fetches th (encI 0x21 rs rb imm.toNat) t) ∧ (t.manager = true) ∧ (a = (t.reg rb + imm.zeroExtend 64).toNat) ∧ (a % 8 = 0) ∧ (0x80000 ≤ a) :=
  ⟨stMgr (encI 0x21 1 2 8) [(2, 0x7FFF8)], 0, 1, 2, 8, mThr [(2, 0x7FFF8)], 0x80000, by decide⟩

theorem witness_ModeLatchChangesOnlyAtAColdReset_1 : ∃ (c : Instr) (s t : State), exec c s = .next t := ⟨.resetCtrlCold 0x5A17, { State.reset with latch := { latched := true, tf := true, personalities := 4 } }, _, rfl⟩

theorem witness_ModeLatchChangesOnlyAtAColdReset_2 : ∃ (c : Instr) (s t : State), exec c s = .next t ∧ (∃ x, c = .resetCtrlImmediateCore x) := ⟨.resetCtrlImmediateCore 0x5A17, st live, _, rfl, _, rfl⟩

theorem witness_EveryStepKeepsTheModeLegal_1 : ∃ s t : State, s.latch.legal = true ∧ step s = .next t := ⟨{ State.reset with latch := { latched := true, tf := true, personalities := 4 }, pending := [.auxGood] }, _, by decide, rfl⟩

theorem witness_StoresWriteExactlyTheirBytes_1 : ∃ (s : State) (th : Thr) (rs rb : Fin 32) (size : Fin 4) (off : BitVec 12) (t : Thread) (a n : Nat), s.start.fetches th (encM 0x11 rs rb 0 size off) t ∧ a = (t.reg rb + off.signExtend 64).toNat ∧ n = 2 ^ size.val ∧ a % n = 0 ∧ a + n ≤ t.win :=
  ⟨stThr (encM 0x11 1 2 0 3 0) [(2, 4088)], 64, 1, 2, 3, 0, aThr [(2, 4088)], 4088, 8, by decide⟩

theorem witness_StoresWriteExactlyTheirBytes_2 : ∃ (s : State) (th : Thr) (rs rb : Fin 32) (size : Fin 4) (off : BitVec 12) (t : Thread) (a n : Nat), s.start.fetches th (encM 0x11 rs rb 1 size off) t ∧ a = (t.reg rb + off.signExtend 64).toNat ∧ n = 2 ^ size.val ∧ a % n = 0 ∧ a + n ≤ s.start.dmLimit t ∧ s.start.dmGuarded t a n = false :=
  ⟨st (fun m => { thrM (encM 0x11 1 2 1 3 0) (aThr [(2, 0xFFFF8)]) m with seqDom := [(1, { size := 1 })] }), 64, 1, 2, 3, 0, aThr [(2, 0xFFFF8)], 0xFFFF8, 8, by decide⟩

theorem witness_StoresWriteExactlyTheirBytes_3 : ∃ (s : State) (th : Thr) (rl rb : Fin 32) (n : Fin 4) (off : BitVec 12) (t : Thread) (far ls len : Nat), s.start.fetches th (encM 0x14 rl rb 1 n off) t ∧ far = (t.reg rb + off.signExtend 64).toNat ∧ ls = (t.reg rl).toNat ∧ len = 64 * 2 ^ n.val ∧ far % len = 0 ∧ ls % 64 = 0 ∧ ls + len ≤ t.win ∧ far + len ≤ s.start.dmLimit t ∧ s.start.dmGuarded t far len = false :=
  ⟨st (fun m => { thrM (encM 0x14 1 2 1 3 0) (aThr [(2, 0x20000)]) m with seqDom := [(1, { size := 1 })] }), 64, 1, 2, 3, 0, aThr [(2, 0x20000)], 0x20000, 0, 512, by decide⟩

theorem witness_StoresWriteExactlyTheirBytes_4 : ∃ (s : State) (th : Thr) (t : Thread) (ls n far : Nat), (s.start.threadTake th).thr th = some t ∧ (s.start.threadTake th).staleThread t = false ∧ t.hold = some (.fld false ls n far) ∧ (s.start.threadTake th).ddrBadAt ((s.start.threadTake th).dmAt t far) n = false :=
  ⟨st (thrM 0 { aThr [] with hold := some (.fld false 0 64 0) }), 64, { aThr [] with hold := some (.fld false 0 64 0) }, 0, 64, 0, by decide⟩

theorem witness_StoresWriteExactlyTheirBytes_5 : ∃ (s : State) (th : Thr) (rs rb : Fin 32) (imm : BitVec 16) (t : Thread) (a : Nat), s.start.fetches th (encI 0x21 rs rb imm.toNat) t ∧ t.manager = true ∧ a = (t.reg rb + imm.zeroExtend 64).toNat ∧ a % 8 = 0 ∧ a < 0x80000 :=
  ⟨stMgr (encI 0x21 1 2 8) [(2, 0x7FFF0)], 0, 1, 2, 8, mThr [(2, 0x7FFF0)], 0x7FFF8, by decide⟩

theorem witness_RegisterInstructionsLeaveEverythingElse_1 : ∃ (i : Instr) (s t : State) (th : Thr) (rd : Fin 32) (pd : Fin 8) (u : Thread), inThread i = some (th, rd, pd) ∧ s.start.thr th = some u ∧ u.running = true ∧ s.start.staleThread u = false ∧ s.start.overBudget u = false ∧ exec i s = .next t :=
  ⟨.addi (.thread 64) 1 2 5, stThr (encI 0x01 1 2 5) [], _, 64, 1, 0, aThr [], by decide, by decide, by decide, by decide, by decide, rfl⟩

theorem witness_ManagerTrapGoesToItsHandlerOrStops_1 : ∃ (m : Mach) (th : Nat) (t : Thread), m.thr th = some t ∧ t.manager = true ∧ t.pc + 4 ≤ t.win ∧ t.tvec ≠ 0 ∧ t.trec.valid = false :=
  ⟨{ threads := [(0, { mThr [] with tvec := 64 })] }, 0, { mThr [] with tvec := 64 }, by decide⟩

theorem witness_ManagerTrapGoesToItsHandlerOrStops_2 : ∃ (m : Mach) (th : Nat) (t : Thread), m.thr th = some t ∧ t.manager = true ∧ (t.tvec = 0 ∨ t.trec.valid = true) :=
  ⟨{ threads := [(0, mThr [])] }, 0, mThr [], by decide⟩

theorem witness_TenantTrapIsRecordedAndEndsTheEntry_1 : ∃ (m : Mach) (th : Nat) (t : Thread), m.thr th = some t ∧ t.manager = false ∧ m.staleThread t = false ∧ t.pc + 4 ≤ t.win :=
  ⟨{ threads := [(64, { aThr [] with pc := 4092 })], doms := [(1, { state := .active, kind := .host })], seqDom := [(1, { size := 1, traps := 127 })] }, 64, { aThr [] with pc := 4092 }, by decide⟩

theorem witness_TenantTrapIsRecordedAndEndsTheEntry_2 : ∃ (m : Mach) (th : Nat) (t : Thread) (e : EntryRef) (q : Sq) (k : Nat) (r : Run), m.thr th = some t ∧ t.manager = false ∧ m.staleThread t = false ∧ t.pc + 4 ≤ t.win ∧ t.entry = some e ∧ m.sq e.dom e.q = some q ∧ q.run[k]? = some r ∧ r.idx = e.idx ∧ r.done = false :=
  ⟨{ threads := [(64, { aThr [] with entry := some { dom := 1, q := 0, idx := 0 } })], doms := [(1, { state := .active, kind := .host })], sqs := [(64, { aSq with run := [aRun 0x60 []] })] }, 64,
    { aThr [] with entry := some { dom := 1, q := 0, idx := 0 } }, { dom := 1, q := 0, idx := 0 }, { aSq with run := [aRun 0x60 []] }, 0, aRun 0x60 [], by decide⟩

theorem witness_JournalKeepsARecordOrDropsIt_1 : ∃ (m : Mach) (e : ErrRec) (n head : Nat), n = m.rd ERR_JRN_CFG_LOG2_ENTRIES ∧ 10 ≤ n ∧ n ≤ 24 ∧ head = m.rd ERR_JRN_HEAD_COUNT ∧ (e.cls = .corrected → (head + 2 ^ 32 - m.rd ERR_JRN_TAIL_COUNT) % 2 ^ 32 * 16 < 15 * 2 ^ n) ∧ (head + 2 ^ 32 - m.rd ERR_JRN_TAIL_COUNT) % 2 ^ 32 < 2 ^ n :=
  ⟨(({} : Mach).wr ERR_JRN_CFG_LOG2_ENTRIES 10).wr ERR_JRN_HEAD_COUNT 959, { cls := .corrected, block := 5, code := 1 }, 10, 959, by decide⟩

theorem witness_JournalKeepsARecordOrDropsIt_2 : ∃ (m : Mach) (e : ErrRec) (n fill : Nat), n = m.rd ERR_JRN_CFG_LOG2_ENTRIES ∧ 10 ≤ n ∧ n ≤ 24 ∧ fill = (m.rd ERR_JRN_HEAD_COUNT + 2 ^ 32 - m.rd ERR_JRN_TAIL_COUNT) % 2 ^ 32 ∧ (if e.cls = .corrected then 15 * 2 ^ n ≤ fill * 16 else 2 ^ n ≤ fill) :=
  ⟨(({} : Mach).wr ERR_JRN_CFG_LOG2_ENTRIES 10).wr ERR_JRN_HEAD_COUNT 960, { cls := .corrected, block := 5, code := 1 }, 10, 960, by decide⟩

theorem witness_JournalKeepsARecordOrDropsIt_3 : ∃ m : Mach, m.rd ERR_JRN_CFG_LOG2_ENTRIES = 0 := ⟨{}, by decide⟩

theorem witness_AccessCheckIsByteWise_1 : ∃ (m : Mach) (d : Nat) (priv : Bool) (n : Need) (a len : Nat) (x : Xlat), disjointCas (m.dom d).cas ∧ disjointCas (m.dom 0).cas ∧ m.check d priv n a len = .allow x :=
  ⟨{ doms := [(0, { state := .active, kind := .d0 }), (1, { state := .active, kind := .host, cas := [(0, aCas), (1, { aCas with base := 4096, target := 32 })] })] }, 1, false, { rd := true }, 0, 8192, _, by simp [disjointCas, Mach.dom, SMap.get, SMap.find, aCas], by simp [disjointCas, Mach.dom, SMap.get, SMap.find], rfl⟩

theorem witness_AccessCheckIsByteWise_2 : ∃ (m : Mach) (d : Nat) (priv : Bool) (n : Need) (a len b c slot : Nat), disjointCas (m.dom d).cas ∧ disjointCas (m.dom 0).cas ∧ 1 ≤ len ∧ len ≤ 2048 ∧ m.check d priv n a len = .refuse b c slot :=
  ⟨{ doms := [(0, { state := .active, kind := .d0 }), (1, { state := .active, kind := .host, cas := [(0, aCas)] })] }, 1, false, { rd := true }, 4095, 2048, 4096, 1, 0xFFFF, by simp [disjointCas, Mach.dom, SMap.get, SMap.find, aCas], by simp [disjointCas, Mach.dom, SMap.get, SMap.find], by decide, by decide, rfl⟩

theorem witness_RefusedAccessFillsOrCountsTheViolation_1 : ∃ (m : Mach) (d : Nat), (m.dom d).viol.valid = false := ⟨{}, 4095, by decide⟩

theorem witness_RefusedAccessFillsOrCountsTheViolation_2 : ∃ (m : Mach) (d : Nat), (m.dom d).viol.valid = true := ⟨{ doms := [(5, { state := .active, kind := .host, viol := { valid := true, count := 0xFFFFFFFF } })] }, 5, by decide⟩

theorem witness_ShortTripTurnsTheChannelOff_1 : ∃ (s : State) (c : Chan), c.val < 64 ∧ 2 ≤ s.m.spcSt c ∧ s.m.spcSt c ≤ 4 := ⟨st fun m => m.wr (SPC_STATUS_STATE 63) 4, 63, by decide⟩

theorem witness_RisenSummaryBitsAreOwedTheirVector_1 : ∃ v : Nat, v < 11 := ⟨10, by decide⟩

theorem witness_TranslationFollowsTheCasement_1 : ∃ (c : Casement) (a s : Nat), c.base ≤ a ∧ s = a - c.base + c.offset ∧ c.ilv = false ∧ c.mirror = false := ⟨aCas, 4095, 4095, by decide⟩

theorem witness_TranslationFollowsTheCasement_2 : ∃ (m : Mach) (c : Casement) (a s g : Nat) (t : IlvSet) (b : Member), c.base ≤ a ∧ s = a - c.base + c.offset ∧ c.ilv = true ∧ t = m.ilvSet (c.target % 1024) ∧ g = s / (256 * 2 ^ t.gran) ∧ b = SMap.get {} t.members (g % 2 ^ t.ways) :=
  ⟨{}, { aCas with ilv := true, target := 0 }, 4095, 4095, 15, {}, {}, by decide⟩

theorem witness_TranslationFollowsTheCasement_3 : ∃ (m : Mach) (c : Casement) (a s w : Nat) (p : MirPair), c.base ≤ a ∧ s = a - c.base + c.offset ∧ c.ilv = false ∧ c.mirror = true ∧ p = m.mirPair (c.target % 512) ∧ w = p.readFrom a :=
  ⟨{}, { aCas with mirror := true, target := 0 }, 4095, 4095, 1, {}, by decide⟩

theorem witness_TranslationFollowsTheCasement_4 : ∃ (c : Casement) (a : Nat), c.base ≤ a := ⟨aCas, 0, by decide⟩

theorem witness_InterleaveSetsTranslateInjectively_1 : ∃ (m : Mach) (c : Casement) (a b : Nat) (t : IlvSet), c.ilv = true ∧ t = m.ilvSet (c.target % 1024) ∧ (∀ i, i < 2 ^ t.ways → ∀ j, j < 2 ^ t.ways → (SMap.get {} t.members i).port = (SMap.get {} t.members j).port →
    (if (SMap.get {} t.members i).mld then some (SMap.get {} t.members i).ld else none) = (if (SMap.get {} t.members j).mld then some (SMap.get {} t.members j).ld else none) → i = j) ∧
    c.base ≤ a ∧ c.base ≤ b ∧ (m.translate c a).port = (m.translate c b).port ∧ (m.translate c a).ld = (m.translate c b).ld ∧ (m.translate c a).dpa = (m.translate c b).dpa :=
  ⟨{ ilv := [(0, { ways := 1, members := [(0, { port := 1 }), (1, { port := 2 })] })] }, { aCas with ilv := true, target := 0 }, 256, 256, { ways := 1, members := [(0, { port := 1 }), (1, { port := 2 })] }, rfl, rfl, by decide, by decide, by decide, rfl, rfl, rfl⟩

theorem witness_LockedLockstepStays_1 : ∃ (s : State) (v : BitVec 32), (s.start.rd SEQ_CTRL_LOCK = 0) :=
  ⟨State.reset, 2, by decide⟩

theorem witness_LockedLockstepStays_2 : ∃ (s : State) (v : BitVec 32), (s.start.rd SEQ_CTRL_LOCK = 1) ∧ (v.toNat % 2 = s.start.rd SEQ_CTRL_LOCKSTEP) :=
  ⟨st (fun m => m.wr SEQ_CTRL_LOCK 1), 1, by decide⟩

theorem witness_LockedLockstepStays_3 : ∃ (s : State) (v : BitVec 32), (s.start.rd SEQ_CTRL_LOCK = 1) ∧ (v.toNat % 2 ≠ s.start.rd SEQ_CTRL_LOCKSTEP) :=
  ⟨st (fun m => m.wr SEQ_CTRL_LOCK 1), 0, by decide⟩

end Sys2Proof.Tests
end

section
/-! SUPPORT. The proofs of the statements on the supplies, the mode latch and register accesses. First the facts about the model's
operations: registers that nothing lists, the cold reset, register accesses, and what a command may do to the mode latch. -/
namespace Sys2Proof.Machine

/-! ### Registers that nothing lists -/

theorem Mach.reg_of_find_none {m : Mach} {off : Nat} (h : SMap.find m.regs off = none) : m.reg off = regReset off := by
  simp [Mach.reg, SMap.get, h]

/-- A register of a range that was reset reads its reset value. -/
theorem Mach.reg_resetRegs {m : Mach} {lo hi off : Nat} (h : lo ≤ off ∧ off < hi) : (m.resetRegs lo hi).reg off = regReset off :=
  Mach.reg_of_find_none (by simp only [Mach.resetRegs, SMap.find_drop, h, and_self, if_true])

theorem Mach.rd_mod (m : Mach) (f : Fld) : m.rd f % 2 ^ f.w = m.rd f := Nat.mod_mod _ _

theorem regReset_bootStatus : regReset WKT_BOOT_STATUS = 0 := by decide

/-- A field of the boot status reads 0 while the register is not listed. -/
theorem Mach.rd_bootStatus_of_find_none {m : Mach} {f : Fld} (hf : f.off = WKT_BOOT_STATUS)
    (h : SMap.find m.regs WKT_BOOT_STATUS = none) : m.rd f = 0 := by
  simp [Mach.rd, hf, Mach.reg_of_find_none h, regReset_bootStatus]

/-! ### The cold reset (R87, R99) -/

/-- What R4 needs of a state that a cold reset left: no latched mode, the boot progress at its start, no thread and no byte of local DDR5. -/
def State.ColdReset (t : State) : Prop :=
  t.latch = {} ∧ t.m.boot = {} ∧ t.m.rd WKT_BOOT_STATUS_STAGE = 0 ∧ t.m.threads = [] ∧ t.m.ddr = []

theorem State.cold_stage (s : State) (c : Nat) : (s.cold c).m.rd WKT_BOOT_STATUS_STAGE = 0 := by
  simp (disch := decide) only [State.cold, Mach.recordCause, Mach.rd_wr_ne]
  exact Mach.rd_bootStatus_of_find_none rfl rfl

theorem State.cold_lastReset (s : State) (c : Nat) : (s.cold c).m.rd WKT_BOOT_STATUS_LAST_RESET = c % 256 :=
  Mach.rd_wr_same _ WKT_BOOT_STATUS_LAST_RESET _ (by decide)

theorem State.cold_prevReset (s : State) (c : Nat) :
    (s.cold c).m.rd WKT_BOOT_STATUS_PREV_RESET = s.m.rd WKT_BOOT_STATUS_LAST_RESET := by
  simp (disch := decide) only [State.cold, Mach.recordCause, Mach.rd_wr_ne, Mach.rd_wr_same]
  exact (Nat.mod_mod _ _).trans (Mach.rd_mod _ _)

theorem State.cold_attempts (s : State) (c : Nat) :
    (s.cold c).m.rd WKT_BOOT_STATUS_ATTEMPTS = s.m.rd WKT_BOOT_STATUS_ATTEMPTS := by
  simp (disch := decide) only [State.cold, Mach.recordCause, Mach.rd_wr_ne, Mach.rd_wr_same, Mach.rd_mod]

theorem State.cold_coldReset (s : State) (c : Nat) : (s.cold c).ColdReset :=
  ⟨rfl, rfl, s.cold_stage c, rfl, rfl⟩

/-! ### What a command answers whose meaning is known -/

theorem act_eq_done {f : Mach → Mach} {s : State} {m : Mach} (h : f s.start = m) : act f s = .next (s.done m) := h ▸ act_start f s

theorem actL_eq_done {f : ModeLatch → Mach → Mach} {s : State} {m : Mach} (h : f s.latch s.start = m) :
    actL f s = .next (s.done m) := h ▸ actL_start f s

theorem State.after_of_coldReq_none {s : State} {m : Mach} (h : m.coldReq = none) : s.after m = s.done m := by
  simp only [State.after, h]

theorem State.after_of_coldReq_some {s : State} {m : Mach} {c : Nat} (h : m.coldReq = some c) :
    s.after m = { s with m := { m with coldReq := none } }.cold c := by
  simp only [State.after, h]

/-- A register access that asked for a cold reset answers the state after it (R87). -/
theorem actW_of_coldReq_some {f : ModeLatch → Mach → Mach} {s : State} {c : Nat} (h : (f s.latch s.start).coldReq = some c) :
    actW f s = .next ({ s with m := { f s.latch s.start with coldReq := none } }.cold c) := by
  simp only [State.start] at h
  simp only [actW, h]
  rfl

theorem actW_after (f : ModeLatch → Mach → Mach) (s : State) : actW f s = .next (s.after (f s.latch s.start)) := by
  cases hc : (f s.latch s.start).coldReq with
  | none => rw [actW_start f s hc, State.after_of_coldReq_none hc]
  | some c => rw [State.after_of_coldReq_some hc, actW_of_coldReq_some hc]

/-- A register access whose meaning is known is carried out as State.after says. -/
theorem actW_eq_after {f : ModeLatch → Mach → Mach} {s : State} {m : Mach} (h : f s.latch s.start = m) :
    actW f s = .next (s.after m) := h ▸ actW_after f s

/-- A register access that asks for no cold reset is carried out as any other command. -/
theorem actW_eq_done {f : ModeLatch → Mach → Mach} {s : State} {m : Mach} (h : f s.latch s.start = m) (hc : m.coldReq = none) :
    actW f s = .next (s.done m) := by
  rw [actW_eq_after h, State.after_of_coldReq_none hc]

/-- The management PERST# pin rises; what the pending reveal of R602 makes of that state is the next one. -/
theorem execMgPerstNDeassert_eq {s : State} {m : Mach}
    (h : Mach.applyReveal { s.start with pins := { s.start.pins with mgPerstN := true } } s.latch = m) :
    execMgPerstNDeassert s = .next (s.done m) := actL_eq_done h

/-! ### Accesses from a source that reaches BAR0 -/

section
variable {m : Mach} {l : ModeLatch} {src : BarSrc}

theorem readAt_bar0 (off : Fin 268435456) (wide : Bool) (h : m.reaches l src = true) :
    readAt (.bar0 src off) wide l m =
      (m.barRead l src off wide).2.send (.barData src (BitVec.ofNat 64 (m.barRead l src off wide).1)) := if_pos h

theorem writeAt_bar0 (off : Fin 268435456) (wide : Bool) (v : Nat) (mem : QMem) (h : m.reaches l src = true) :
    writeAt (.bar0 src off) wide v mem l m = m.barWrite l src off wide v mem := if_pos h

theorem aliasWrite_eq {off : Nat} (wide : Bool) (v : Word) (h : m.reaches l src = true) (ha : (m.aliasOf off).isSome = true) :
    aliasWrite src off wide v l m = m.barWrite l src off wide v.toNat {} := by
  simp only [aliasWrite, h, ha, Bool.and_self, if_true]

theorem lockedFieldWrite_eq (v : BitVec 32) (h : m.reaches l src = true) :
    lockedFieldWrite src v l m = m.barWrite l src SEQ_CTRL false v.toNat {} := if_pos h

theorem irqEoi_eq (v : BitVec 32) (h : m.reaches l src = true) :
    irqEoi src v l m = m.barWrite l src GLB_IRQ_EOI false v.toNat {} := if_pos h

/-! ### The low dword of a 64-bit register (R125, R617) -/

theorem execLowDwordRead_eq {a : BarAt} {s : State} (h : lowDword a s.latch = true) :
    execLowDwordRead a s = .next (s.after (readAt a false s.latch s.start)) := actW_eq_after (if_pos h)

theorem execLowDwordWriteHold_eq {a : BarAt} {s : State} (v : BitVec 32) (h : lowDword a s.latch = true) :
    execLowDwordWriteHold a v s = .next (s.after (writeAt a false v.toNat {} s.latch s.start)) := actW_eq_after (if_pos h)

/-! ### Sizes (R616, R618) -/

theorem sizeOk_iff (off size : Nat) : sizeOk off size = true ↔ (size = 4 ∧ off % 4 = 0) ∨ (size = 8 ∧ off % 8 = 0) := by
  simp [sizeOk]

/-- An access leaves the power state as it is, or ends IDLE (R561). -/
theorem Mach.wakeIdle_cases (m : Mach) (src : BarSrc) :
    m.wakeIdle src = m ∨ m.wakeIdle src = m.wr WKT_PWR_STATUS_STATE m.onState := by
  unfold Mach.wakeIdle idleExit
  split
  · exact .inl rfl
  · exact (ite_eq_or_eq _ _ _).symm

theorem Mach.wakeIdle_coldReq (m : Mach) (src : BarSrc) : (m.wakeIdle src).coldReq = m.coldReq := by
  obtain h | h := m.wakeIdle_cases src
  · rw [h]
  · rw [h, Mach.wr_coldReq]

theorem Mach.wakeIdle_out (m : Mach) (src : BarSrc) : (m.wakeIdle src).out = m.out := by
  obtain h | h := m.wakeIdle_cases src
  · rw [h]
  · rw [h, Mach.wr_out]

@[simp] theorem Mach.sizeErr_out (m : Mach) (off : Nat) : (m.sizeErr off).out = m.out := rfl

theorem Mach.sizeErr_flag (m : Mach) (off : Nat) : (m.sizeErr off).flag GLB_ACC_EVENT_SIZE_ERR = true := by
  rw [Mach.flag, Mach.sizeErr, Mach.rd_wr_ne _ _ _ _ (by decide), Mach.rd_raise_same _ _ (by decide) (by decide)]
  rfl

theorem Mach.sizeErr_offset (m : Mach) (off : Fin 268435456) : (m.sizeErr off).rd GLB_ACC_ADDR_OFFSET = off.val :=
  (Mach.rd_wr_same _ _ _ (by decide)).trans (Nat.mod_eq_of_lt off.isLt)

/-- An access of a wrong size by a function or by MCTP, of 8 bytes at most: its error is recorded, and a read is answered with 0. -/
theorem accessSizeError_eq {off size : Nat} (write : Bool) (hr : m.reaches l src = true) (ht : src.thread? = none)
    (hs : ¬((size = 4 ∧ off % 4 = 0) ∨ (size = 8 ∧ off % 8 = 0))) (h8 : size ≤ 8) :
    accessSizeError src off size write l m =
      if write then (m.wakeIdle src).sizeErr off else ((m.wakeIdle src).sizeErr off).send (.barData src 0) := by
  have hbad : sizeOk off size = false := by rwa [← Bool.not_eq_true, sizeOk_iff]
  simp [accessSizeError, hr, ht, hbad, Nat.not_lt.mpr h8]

/-- A long write from an 8-byte boundary inside one 64-byte block is split (R618). -/
theorem longWriteTlp_split {f : Fin 8} {off : Nat} {dws : List (BitVec 32)} (mem : QMem) (hr : m.reaches l (.fn f) = true)
    (hn : 2 < dws.length) (h8 : off % 8 = 0) (h64 : off / 64 = (off + 4 * dws.length - 1) / 64) :
    longWriteTlp f off dws true mem l m = m.longWrite l (.fn f) mem off dws := by
  have h4 : off % 4 = 0 := by omega
  simp [longWriteTlp, hr, Nat.not_le.mpr hn, h8, h4, ← h64]

/-- A long write with a byte disabled, off a dword boundary or across 64 bytes is refused (R618). -/
theorem longWriteTlp_refused {f : Fin 8} {off : Nat} {dws : List (BitVec 32)} {full : Bool} (mem : QMem)
    (hr : m.reaches l (.fn f) = true) (hn : 2 < dws.length)
    (hbad : full = false ∨ off % 4 ≠ 0 ∨ off / 64 ≠ (off + 4 * dws.length - 1) / 64) :
    longWriteTlp f off dws full mem l m = (m.wakeIdle (.fn f)).sizeErr off := by
  have hbad' : (!full || off % 4 != 0 || off / 64 != (off + 4 * dws.length - 1) / 64) = true := by
    simpa [or_assoc] using hbad
  simp only [longWriteTlp, hr, Nat.not_le.mpr hn, hbad', decide_false, Bool.not_true, Bool.or_self, Bool.false_eq_true,
    if_false, if_true]

/-! ### MCTP (R629) -/

theorem mctpRegisterRead_eq {size : BitVec 8} {off : BitVec 32} (tag : BitVec 16) (hs : m.mctpServed = true)
    (hz : (size.toNat = 4 ∧ off.toNat % 4 = 0) ∨ (size.toNat = 8 ∧ off.toNat % 8 = 0))
    (ha : (m.wakeIdle .mctp).answers .mctp off.toNat = true) :
    mctpRegisterRead 1 size tag off l m = (m.barRead l .mctp off.toNat (size == 8)).2.send
      (.mctp 0x81 0 tag.toNat off.toNat (m.barRead l .mctp off.toNat (size == 8)).1) := by
  simp [mctpRegisterRead, hs, (sizeOk_iff _ _).2 hz, ha, Mach.mctpAnswer]

theorem mctpRegisterWrite_eq {size : BitVec 8} {off : BitVec 32} (tag : BitVec 16) (data : Word) (mem : QMem) (hs : m.mctpServed = true)
    (hz : (size.toNat = 4 ∧ off.toNat % 4 = 0) ∨ (size.toNat = 8 ∧ off.toNat % 8 = 0))
    (ha : (m.wakeIdle .mctp).answers .mctp off.toNat = true) :
    mctpRegisterWrite size tag off data mem l m =
      (m.barWrite l .mctp off.toNat (size == 8) data.toNat mem).send (.mctp 0x82 0 tag.toNat off.toNat 0) := by
  simp [mctpRegisterWrite, hs, (sizeOk_iff _ _).2 hz, ha, Mach.mctpAnswer]

end

/-! ### What a command may do to the mode latch (R3, R4) -/

/-- What act and actL answer keeps the mode latch. -/
theorem latch_of_next {s t : State} {m : Mach} {q : List Instr}
    (h : Host.Outcome.next (φ := Fault) (ρ := Refusal) { latch := s.latch, m := m, pending := q } = .next t) : t.latch = s.latch := by
  injection h with h
  rw [← h]

theorem State.after_latch (s : State) (m : Mach) : (s.after m).latch = s.latch ∨ (s.after m).ColdReset := by
  unfold State.after
  split
  · exact .inr (State.cold_coldReset _ _)
  · exact .inl rfl

theorem actW_latch {f : ModeLatch → Mach → Mach} {s t : State} (h : actW f s = .next t) : t.latch = s.latch ∨ t.ColdReset := by
  rw [actW_after] at h
  injection h with h
  exact h ▸ State.after_latch s _

/-- R7, as the header checks enforce it. -/
theorem Image.verifies_mode {im : Image} {f : Fuses} (h : im.verifies f = true) :
    im.mode = 0 ∨ im.mode = 1 ∧ 1 ≤ im.personalities ∧ im.personalities ≤ 4 := by
  simp only [Image.verifies, Bool.and_eq_true, Bool.or_eq_true, beq_iff_eq, decide_eq_true_eq] at h
  tauto

theorem Image.modeLatch_legal {im : Image} {f : Fuses} (h : im.verifies f = true) : im.modeLatch.legal = true := by
  rcases Image.verifies_mode h with h0 | ⟨h1, hlo, hhi⟩
  · simp [Image.modeLatch, ModeLatch.legal, h0]
  · simp [Image.modeLatch, ModeLatch.legal, h1, hlo, hhi]

/-- A boot that follows a cold reset takes the slot under verification and latches its image's mode (R3). -/
def State.Latches (s t : State) : Prop :=
  s.latch.latched = false ∧
    ∃ b, s.m.boot.trying = some b ∧ (s.m.flash.slot b).verifies s.m.fuses = true ∧ t.latch = (s.m.flash.slot b).modeLatch

theorem execSlotVerifyDone_latch {s t : State} (h : execSlotVerifyDone s = .next t) : t.latch = s.latch ∨ s.Latches t := by
  unfold execSlotVerifyDone at h
  simp only at h
  split at h
  · exact .inl (latch_of_next h)
  next b hb =>
    split_ifs at h with hv hl hs
    · injection h with h
      exact .inr ⟨by simpa using hl, b, hb, hv, by rw [← h]⟩
    all_goals exact .inl (latch_of_next h)

theorem execResetCtrlCold_key (s : State) : execResetCtrlCold 0x5A17 s = .next (s.cold 0x02) := if_pos rfl

theorem execResetCtrlCold_latch {key : BitVec 16} {s t : State} (h : execResetCtrlCold key s = .next t) : t.latch = s.latch ∨ t.ColdReset := by
  unfold execResetCtrlCold at h
  split at h
  · injection h with h
    exact .inr (h ▸ State.cold_coldReset _ _)
  · exact .inl (latch_of_next h)

theorem execVauxPowerOn_coldReset {s t : State} (h : execVauxPowerOn s = .next t) : t.ColdReset := by
  injection h with h
  subst h
  exact ⟨rfl, rfl, Mach.rd_bootStatus_of_find_none rfl (SMap.find_del_same _ _), rfl, rfl⟩

theorem execAuxResetNAssert_coldReset {s t : State} (h : execAuxResetNAssert s = .next t) : t.ColdReset := by
  injection h with h
  subst h
  exact ⟨rfl, rfl, s.cold_stage 0x01, rfl, rfl⟩

theorem execSupplyUndervoltage_coldReset {s t : State} (h : execSupplyUndervoltage s = .next t) : t.ColdReset := by
  injection h with h
  subst h
  exact State.cold_coldReset s 0x0F

/-- The three things that a command may do to the mode latch: leave it, clear it by a cold reset, or take the mode of the image under
verification. Four commands reset cold of their own; a register access may ask for it (R87). -/
theorem exec_latch {c : Instr} {s t : State} (h : exec c s = .next t) :
    t.latch = s.latch ∨ t.ColdReset ∨ (c = .slotVerifyDone ∧ s.Latches t) := by
  cases c
  case vauxPowerOn => exact .inr (.inl (execVauxPowerOn_coldReset h))
  case auxResetNAssert => exact .inr (.inl (execAuxResetNAssert_coldReset h))
  case supplyUndervoltage => exact .inr (.inl (execSupplyUndervoltage_coldReset h))
  case resetCtrlCold => exact (execResetCtrlCold_latch h).imp_right .inl
  case slotVerifyDone => exact (execSlotVerifyDone_latch h).imp_right fun hl => .inr ⟨rfl, hl⟩
  case lowDwordRead a => exact (actW_latch (show execLowDwordRead a s = _ from h)).imp_right .inl
  case lowDwordWriteHold a v => exact (actW_latch (show execLowDwordWriteHold a v s = _ from h)).imp_right .inl
  case rcFieldRead | registerWrite | aliasWrite | lockedFieldWrite | irqEoi | tfQuirkWrite | accessSizeError |
      longWriteTlp | mctpRegisterRead | mctpRegisterWrite | csrrd | csrwr | csrset | csrclr =>
    exact (actW_latch h).imp_right .inl
  -- Every other command runs by act or actL, which do not write the latch; each in a lemma of its own, so that the kernel holds one
  -- unfolding of exec at a time.
  all_goals as_aux_lemma => exact .inl (latch_of_next h)

/-! ### A step is the front command's, or the idle cycle -/

theorem step_of_pending_nil {s : State} (h : s.pending = []) : step s = idle s := by
  simp [step, h]

theorem step_of_pending_cons {s : State} {c : Instr} {rest : List Instr} (h : s.pending = c :: rest) :
    step s = exec c { s with pending := rest } := by
  simp [step, h]

/-! ### The obligations -/

/-- Settles O46, by the three things that a command may do to the mode latch: what stays is legal by hypothesis, what a cold reset leaves
is the empty latch, and an image that verifies has a legal mode (R7). -/
theorem everyStepKeepsTheModeLegal : Obligations.EveryStepKeepsTheModeLegal := by
  intro s t hs h
  cases hp : s.pending with
  | nil =>
    rw [step_of_pending_nil hp] at h
    exact (latch_of_next h).symm ▸ hs
  | cons c rest =>
    rw [step_of_pending_cons hp] at h
    obtain hl | ⟨hl, -⟩ | ⟨-, -, b, -, hv, hl⟩ := exec_latch h
    · exact hl.symm ▸ hs
    · exact hl.symm ▸ rfl
    · exact hl.symm ▸ Image.modeLatch_legal hv

/-- Settles O42: each command's meaning, under the checks that its clause assumes to pass, is the access that the clause names. -/
theorem registerAccessCommandsComplete : Obligations.RegisterAccessCommandsComplete := by
  unfold Obligations.RegisterAccessCommandsComplete
  refine ⟨?read, ?fnRead, ?lowRead, ?lowWrite, ?write, ?fnWrite, ?tfWrite, ?aliased, ?sizeRead, ?sizeWrite, ?longSplit, ?longRefused,
    ?locked, ?eoi, ?vector, ?mctpRead, ?mctpWrite⟩
  case read => exact fun s src off wide hr => actW_eq_after (readAt_bar0 off wide hr)
  case fnRead => exact fun s f off wide => actW_after _ s
  case lowRead => exact fun s src off hl hr => readAt_bar0 off false hr ▸ execLowDwordRead_eq hl
  case lowWrite => exact fun s src off v hl hr => writeAt_bar0 off false v.toNat {} hr ▸ execLowDwordWriteHold_eq v hl
  case write => exact fun s src off wide v mem hr => actW_eq_after (writeAt_bar0 off wide v.toNat mem hr)
  case fnWrite => exact fun s f off wide v mem => actW_after _ s
  case tfWrite => exact fun s p w wide v mem hp _ => actW_eq_after (if_pos hp)
  case aliased => exact fun s src off wide v hr ha => actW_eq_after (aliasWrite_eq wide v hr ha)
  case sizeRead =>
    intro s src off size hr ht hs h8 hc
    refine ⟨_, actW_eq_done (accessSizeError_eq false hr ht hs h8) ((Mach.wakeIdle_coldReq _ _).trans hc),
      Mach.sizeErr_flag _ _, Mach.sizeErr_offset _ off, ?_⟩
    simp [Mach.wakeIdle_out, State.start_out]
  case sizeWrite =>
    intro s src off size hr ht hs h8 hc
    exact ⟨_, actW_eq_done (accessSizeError_eq true hr ht hs h8) ((Mach.wakeIdle_coldReq _ _).trans hc),
      Mach.sizeErr_flag _ _, Mach.sizeErr_offset _ off, Mach.wakeIdle_out s.start src⟩
  case longSplit => exact fun s f off dws mem hr hn h8 h64 => actW_eq_after (longWriteTlp_split mem hr hn h8 h64)
  case longRefused =>
    intro s f off dws full mem hr hc hn hbad
    exact actW_eq_done (longWriteTlp_refused mem hr hn hbad) ((Mach.wakeIdle_coldReq _ _).trans hc)
  case locked => exact fun s src v hr => actW_eq_after (lockedFieldWrite_eq v hr)
  case eoi => exact fun s src v hr => actW_eq_after (irqEoi_eq v hr)
  case vector => exact fun s v hv => act_eq_done (if_pos hv)
  case mctpRead => exact fun s size tag off hs hz ha => actW_eq_after (mctpRegisterRead_eq tag hs hz ha)
  case mctpWrite => exact fun s size tag off data mem hs hz ha => actW_eq_after (mctpRegisterWrite_eq tag data mem hs hz ha)

/-- Settles O45: the first clause is exec_latch; the commands of the second run by act alone, which does not write the latch. -/
theorem modeLatchChangesOnlyAtAColdReset : Obligations.ModeLatchChangesOnlyAtAColdReset := by
  refine ⟨fun c s t h => ?_, fun c s t h hc => ?_⟩
  · obtain hl | hcold | ⟨hc, hnone, b, hb, -, hl⟩ := exec_latch h
    · exact .inl hl
    · exact .inr (.inl hcold)
    · exact .inr (.inr ⟨hc, hnone, b, hb, hl⟩)
  · obtain ⟨d, q, idx, rfl⟩ | ⟨d, q, idx, rfl⟩ | rfl | ⟨x, rfl⟩ | rfl | ⟨u, x, rfl⟩ | ⟨x, rfl⟩ | ⟨x, rfl⟩ | rfl := hc
    all_goals exact latch_of_next h

/-- Settles O3. -/
theorem resetStateIsLegalAndCanonical : Obligations.ResetStateIsLegalAndCanonical :=
  ⟨rfl, rfl, rfl, rfl, rfl, rfl⟩

/-- Settles O7: the cold resets by what State.cold leaves, the pins and AUX good by the branch of their rules. -/
theorem supplyAndPinCommandsComplete : Obligations.SupplyAndPinCommandsComplete := by
  refine ⟨fun s => ?vaux, fun s => ?auxReset, fun s => ?undervoltage, fun s => ?resetCtrl, fun s h => ?auxGood, fun s => ?perst,
    fun s h => ?reveal, fun s h => ?noReveal⟩
  case vaux =>
    have hdel := SMap.find_del_same (s.cold 0).m.regs WKT_BOOT_STATUS
    exact ⟨_, rfl, rfl, rfl, rfl, rfl, rfl, rfl, Mach.rd_bootStatus_of_find_none rfl hdel, Mach.rd_bootStatus_of_find_none rfl hdel⟩
  case auxReset => exact ⟨_, rfl, rfl, rfl, rfl, rfl, rfl, rfl, rfl, s.cold_lastReset 0x01, s.cold_prevReset 0x01⟩
  case undervoltage => exact ⟨_, rfl, rfl, rfl, rfl, rfl, rfl, s.cold_lastReset 0x0F, s.cold_prevReset 0x0F⟩
  case resetCtrl => exact ⟨_, execResetCtrlCold_key s, rfl, rfl, rfl, rfl, s.cold_lastReset 0x02, s.cold_attempts 0x02⟩
  case auxGood => exact act_eq_done (if_neg (Bool.eq_false_iff.1 h))
  case perst => exact ⟨_, rfl, rfl, Mach.reg_resetRegs (by decide)⟩
  case reveal => exact execMgPerstNDeassert_eq (if_pos h)
  case noReveal => exact execMgPerstNDeassert_eq (if_neg (Bool.eq_false_iff.1 h))

end Sys2Proof.Machine
end

section
/-! SUPPORT. The proofs of the statements on the switch core: requests, tracker entries, class fences, cells, responses and planes. First
what the counters of a tile leave alone, then each command's meaning under the checks that its clause assumes to pass. -/
namespace Sys2Proof.Machine

/-! ### A native counter and the registers below the counters (R506) -/

theorem Mach.rd_count_ne (m : Mach) (off n : Nat) (g : Fld) (h : g.off ≠ off) : (m.count off n).rd g = m.rd g :=
  Mach.rd_setReg_ne m off _ g h

/-- A tile counter is none of the registers below the counters' range. -/
theorem Mach.rd_count_tile (m : Mach) (t k n : Nat) (g : Fld) (h : g.off < 0x4080000) : (m.count (CNT_TILE t k) n).rd g = m.rd g :=
  Mach.rd_count_ne m _ n g (by unfold CNT_TILE; omega)

theorem Mach.rpSel_count_tile (m : Mach) (t k n : Nat) (p : Port) : (m.count (CNT_TILE t k) n).rpSel p = m.rpSel p := by
  have h : (SEQ_RP_SEL_SLOT (p / 8)).off < 0x4080000 := by
    simp only [SEQ_RP_SEL_SLOT, SEQ_RP_SEL]
    omega
  simp only [Mach.rpSel, Mach.rd_count_tile _ _ _ _ _ h]

theorem Mach.isZitch_count_tile (m : Mach) (t k n : Nat) (p : Port) : (m.count (CNT_TILE t k) n).isZitch p = m.isZitch p := by
  have hmap : (TILE_PORTMAP_MAP (tileOf p)).off < 0x4080000 := by
    simp only [TILE_PORTMAP_MAP, TILE_PORTMAP, tileOf]
    omega
  have hctrl : TILE_PORT_CTRL p < 0x4080000 := by
    simp only [TILE_PORT_CTRL]
    omega
  have hrole : (m.count (CNT_TILE t k) n).rd (TILE_PORT_CTRL_ROLE p) = m.rd (TILE_PORT_CTRL_ROLE p) := Mach.rd_count_tile _ _ _ _ _ hctrl
  have hproto : (m.count (CNT_TILE t k) n).rd (TILE_PORT_CTRL_PROTO p) = m.rd (TILE_PORT_CTRL_PROTO p) := Mach.rd_count_tile _ _ _ _ _ hctrl
  simp only [Mach.isZitch, Mach.isFabric, Mach.portExists, Mach.nibble, Mach.role, Mach.flag, Mach.rd_count_tile _ _ _ _ _ hmap, hrole, hproto]

@[simp] theorem Mach.count_tfLast (m : Mach) (off n : Nat) : (m.count off n).tfLast = m.tfLast := rfl
@[simp] theorem Mach.count_pipes (m : Mach) (off n : Nat) : (m.count off n).pipes = m.pipes := rfl
@[simp] theorem Mach.count_reseqs (m : Mach) (off n : Nat) : (m.count off n).reseqs = m.reseqs := rfl
@[simp] theorem Mach.count_tags (m : Mach) (off n : Nat) : (m.count off n).tags = m.tags := rfl
@[simp] theorem Mach.count_reqDom (m : Mach) (off n : Nat) (r : Req) : (m.count off n).reqDom r = m.reqDom r := rfl

@[simp] theorem Mach.ibTake_tfLast (m : Mach) (p v n : Nat) : (m.ibTake p v n).tfLast = m.tfLast := rfl
@[simp] theorem Mach.ibTake_pipes (m : Mach) (p v n : Nat) : (m.ibTake p v n).pipes = m.pipes := rfl
@[simp] theorem Mach.ibTake_rpSel (m : Mach) (p v n q : Nat) : (m.ibTake p v n).rpSel q = m.rpSel q := rfl
@[simp] theorem Mach.ibTake_reqDom (m : Mach) (p v n : Nat) (r : Req) : (m.ibTake p v n).reqDom r = m.reqDom r := rfl

/-- The port that takes a request in marks it; its domain and its slots stay. -/
theorem Mach.reqDom_with (m : Mach) (r : Req) (z : Bool) (n : Nat) : m.reqDom { r with zitch := z, stamp := n } = m.reqDom r := rfl
theorem Req.slots_with (r : Req) (z : Bool) (n : Nat) : { r with zitch := z, stamp := n }.slots = r.slots := rfl

section
variable {m : Mach}

/-! ### Requests (R25, R208, R209, R456) -/

/-- A request on a port of a default program, which is no Zitch port, outside TF-256 mode. -/
theorem requestReceive_default {r : Req} {p : Port} (hsrc : r.src = .port p) (htake : m.takesFrom r = true) (hz : m.isZitch p = false)
    (hvc : r.vc ≠ 2) (htf : m.tfLast = false) (hsel : m.rpSel p = 0) (hpipe : SMap.get [] m.pipes p = []) :
    requestReceive r m = ((((m.ibTake p (r.vc % 8) r.slots).count (CNT_TILE (p / 16) (6 * (p.val % 16))) 1).count
      (CNT_TILE (p / 16) (6 * (p.val % 16) + 2)) r.slots).count (CNT_TILE (p / 16) 106) 1).routeDefault
        { r with zitch := false, stamp := SMap.get 0 m.vc2Rx p } (m.reqDom r) := by
  have hport : r.src.port? = some p.val := by rw [hsrc]; rfl
  cases hd : m.reqDom r <;>
    simp [requestReceive, hport, htake, hz, hvc, htf, hsel, hpipe, hd, tileOf, Mach.reqDom_with, Req.slots_with, Mach.rpSel_count_tile]

section
variable {t : Tile} {q key : Nat} {w : Waiting} {rest : List Waiting} (hq : m.nextClass t = some q) (hkey : m.freeEntry t = some key)
  (hw : m.waitQ t q = w :: rest)
include hq hkey hw

/-- A class below its minimum takes an entry out of its turn. -/
theorem trackerEntryGrant_below (hlt : m.inUse t q < m.qMin t q) :
    trackerEntryGrant t m = (m.setWaitQ t q rest).takeEntry t key w q := by
  simp only [trackerEntryGrant, hq, hkey, hw, hlt, if_true]

/-- A class that has its minimum takes an entry in its turn. -/
theorem trackerEntryGrant_inTurn (hle : m.qMin t q ≤ m.inUse t q) :
    trackerEntryGrant t m =
      { m.setWaitQ t q rest with trkRr := SMap.set 0 m.trkRr t ((q + 1) % 16) }.takeEntry t key w q := by
  simp only [trackerEntryGrant, hq, hkey, hw, Nat.not_lt.mpr hle, if_false]
  rfl

end

/-- The one message that waits behind a class with nothing untransmitted is admitted (R223). -/
theorem Mach.fenceRelease_one {src key tc : Nat} {k : Pkt} (hc : SMap.get {} m.classes key = { tc := tc, untx := 0, fence := [k] }) :
    m.fenceRelease src key [k] =
      { m with classes := SMap.set {} m.classes key { tc := k.tc, untx := 1, fence := [] } }.joinVoq src k := by
  simp only [Mach.fenceRelease, hc]
  rfl

theorem classFenceRelease_one {src : Fin 1088} {dst : Tile} {v : VC} {k : Pkt} {tc : Nat} (hsrc : src.val < 1024)
    (hc : SMap.get {} m.classes ((src.val * 64 + dst) * 8 + v) = { tc := tc, untx := 0, fence := [k] }) :
    classFenceRelease src dst v m =
      { m with classes := SMap.set {} m.classes ((src.val * 64 + dst) * 8 + v) { tc := k.tc, untx := 1, fence := [] } }.joinVoq
        (src / 16) k := by
  simp only [classFenceRelease, hsrc, if_true, congrArg ClassRec.fence hc, Mach.fenceRelease_one hc, tileOf]

/-! ### Cells (R214 to R216) -/

section
variable {dst src : Tile} {tc : Fin 8}

theorem cellReceive_bad (seq : Fin 65536) (plane : Plane) : cellReceive dst src tc seq plane false m = m.cellError dst plane := by
  simp only [cellReceive, Bool.not_false, if_true]

/-- A good cell of the window that its input tile retains and that is not stored yet. -/
theorem cellReceive_new {seq : Fin 65536} {c : Reseq} {x : Cell} (plane : Plane) (hc : SMap.get {} m.reseqs (reseqKey dst src tc) = c)
    (hwin : (seq.val + 65536 - c.e) % 65536 ≤ 255) (hret : (m.voq (voqKey src dst tc)).retained.find? (fun x => x.seq == seq.val) = some x)
    (hnew : SMap.find c.stored seq.val = none) :
    cellReceive dst src tc seq plane true m =
      { m.count (CNT_TILE dst 101) 1 with
        reseqs := SMap.set {} m.reseqs (reseqKey dst src tc)
          { c with stored := SMap.ins c.stored seq.val x.last } }.releaseFrom (reseqKey dst src tc) 257 := by
  have hdup : ¬ 65280 ≤ (seq.val + 65536 - c.e) % 65536 := by omega
  simp only [cellReceive, Bool.not_true, Bool.false_eq_true, hc, hdup, Nat.not_lt.mpr hwin, hret, hnew, Option.isSome_none, if_false,
    Mach.count_reseqs]

theorem reseqTimeout_missing
    (h : (m.voq (voqKey src dst tc)).retained.any (fun x => x.seq == (SMap.get ({} : Reseq) m.reseqs (reseqKey dst src tc)).e) = true) :
    reseqTimeout dst src tc m = ((m.count (CNT_TILE dst 102) 1).raise (TILE_CORE_EVENT_RESEQ_NAK dst)).send
      (.reseqNak dst src tc (SMap.get ({} : Reseq) m.reseqs (reseqKey dst src tc)).e) := if_pos h

end

/-! ### Responses (R26, R184) -/

section
variable {p : Port} {tag : Fin 8192}

/-- A response on a port that is no Zitch port, to an entry that is not late and not for its speculative read. -/
theorem responseReceive_taken {key : Nat} {e : Trk} (r : Rsp) (hup : m.linkUp p = true) (hz : m.isZitch p = false)
    (htag : SMap.find m.tags (p / 16 * 8192 + tag) = some (key * 1024 + p)) (he : m.entry key = some e)
    (hspec : e.specTag = none) (hlate : e.late = false) :
    responseReceive p tag r none m =
      ({ (m.count (CNT_TILE (p / 16) (6 * (p.val % 16))) 1).count (CNT_TILE (p / 16) (6 * (p.val % 16) + 2)) (r.slots e.devLen) with
          tags := SMap.del m.tags (p / 16 * 8192 + tag) }.setEntry key { e with outs := e.outs.erase p }).takeRsp key p r := by
  have hport : (key * 1024 + p.val) % 1024 = p.val := by omega
  have hkey : (key * 1024 + p.val) / 1024 = key := by omega
  simp [responseReceive, hup, tileOf, htag, hport, hkey, he, hspec, hlate, Mach.isZitch_count_tile, hz]

/-- A response on a downstream port that matches no tag is contained (R184). -/
theorem responseReceive_unmatched (r : Rsp) (hup : m.linkUp p = true) (htag : SMap.find m.tags (p / 16 * 8192 + tag) = none)
    (hdown : m.isDown p = true) : responseReceive p tag r none m = m.contain p 2 5 := by
  simp [responseReceive, hup, tileOf, htag, unexpectedCompletion, hdown]

end

/-! ### Planes (R228) -/

/-- The first of the four planes goes out of service, for an uncorrectable error or by software: nothing follows but the record. -/
theorem planeOut_first {n : Plane} {unc : Bool} {u : Mach} (hin : bit (m.rd GLB_PLANE_STATUS_IN_SERVICE) n = true)
    (hcause : unc = true ∨ bit (m.rd GLB_PLANE_CTRL_OUT) n = true)
    (hu : u = ((m.wr GLB_PLANE_STATUS_IN_SERVICE (withBit (m.rd GLB_PLANE_STATUS_IN_SERVICE) n false)).raise
      GLB_PLANE_EVENT_PLANE_OUT).error { cls := .corrected, block := 0, code := 2, loc := n })
    (hthree : u.planes.length = 3) : planeOut n unc m = u := by
  have hgoes : (unc || bit (m.rd GLB_PLANE_CTRL_OUT) n) = true := by simpa using hcause
  subst hu
  simp [planeOut, hin, Bool.or_assoc, hgoes, hthree]

end

/-! ### The obligation -/

/-- Settles O17: each command's meaning, under the checks that its clause assumes to pass, is the one that the clause names. -/
theorem requestPathCommandsComplete : Obligations.RequestPathCommandsComplete := by
  unfold Obligations.RequestPathCommandsComplete
  refine ⟨?request, ?grantBelow, ?grantInTurn, ?fence, ?badCell, ?cell, ?timeout, ?nak, ?ack, ?response, ?unmatched, ?plane⟩
  case request =>
    rintro s r p n hsrc htake hz hvc htf hsel hpipe rfl
    exact act_eq_done (requestReceive_default hsrc htake hz hvc htf hsel hpipe)
  case grantBelow => exact fun s t q key w rest hq hkey hw hlt => act_eq_done (trackerEntryGrant_below hq hkey hw hlt)
  case grantInTurn => exact fun s t q key w rest hq hkey hw hle => act_eq_done (trackerEntryGrant_inTurn hq hkey hw hle)
  case fence =>
    rintro s src dst v k key hsrc rfl hc
    exact act_eq_done (classFenceRelease_one hsrc hc)
  case badCell => exact fun s dst src tc seq plane => act_eq_done (cellReceive_bad seq plane)
  case cell =>
    rintro s dst src tc seq plane c x hc hwin hret hnew
    exact act_eq_done (cellReceive_new plane hc.symm hwin hret hnew)
  case timeout =>
    rintro s dst src tc e rfl h
    exact act_eq_done (reseqTimeout_missing h)
  case nak =>
    rintro s dst src tc e l rfl
    exact act_eq_done rfl
  case ack =>
    rintro s dst src tc v e acked rfl rfl rfl
    exact act_start _ s
  case response =>
    rintro s p tag r key e u hup hz htag he hspec hlate rfl
    exact act_eq_done (responseReceive_taken r hup hz htag he hspec hlate)
  case unmatched => exact fun s p tag r hup htag hdown => act_eq_done (responseReceive_unmatched r hup htag hdown)
  case plane => exact fun s n unc u hin hcause hu hthree => act_eq_done (planeOut_first hin hcause hu hthree)

end Sys2Proof.Machine
end

section
/-! SUPPORT. The proofs of the statements on the registers at VAUX power-on and on the staged start. First what a field of the reset state
reads, then each command's meaning under the checks that its clause assumes to pass. -/
namespace Sys2Proof.Machine

/-! ### The register file at VAUX power-on (R634) -/

/-- At VAUX power-on no register is listed, so a field reads its part of its register's reset value. -/
theorem State.reset_rd (f : Fld) : State.reset.m.rd f = (regReset f.off).toNat >>> f.lo % 2 ^ f.w := by
  rw [Mach.rd, Mach.reg_of_find_none (SMap.find_nil f.off)]

section
variable {m : Mach}

/-! ### Slot choice and verification (R69, R81, R83) -/

theorem Mach.trySlot_good {slot : Bool} (last : Bool) (h : m.bad slot = false) :
    m.trySlot slot last = { m with boot := { m.boot with trying := some slot, lastTry := last } } := by
  simp only [Mach.trySlot, h, Bool.not_false, if_true]

theorem bootSlotChoice_good (haux : m.boot.auxGood = true) (hst : m.rd WKT_BOOT_STATUS_STAGE = 0) (htry : m.boot.trying = none)
    (hboot : m.boot.booted = none) (hbad : m.bad m.firstSlot = false) :
    bootSlotChoice m = { m with boot := { m.boot with trying := some m.firstSlot, lastTry := false } } := by
  rw [bootSlotChoice, if_pos ⟨haux, hst, htry, hboot⟩, Mach.trySlot_good false hbad]

theorem Mach.takeSlot_stage (m : Mach) (slot : Bool) : (m.takeSlot slot).rd WKT_BOOT_STATUS_STAGE = 1 := by
  change Mach.rd (Mach.wrB (Mach.wrB _ _ _) _ _) _ = 1
  simp (disch := decide) only [Mach.wrB, Mach.rd_wr_ne, Mach.rd_wr_same]
  rfl

/-- A cold-reset boot, which finds no mode latched, takes a verified slot and latches its mode (R3). -/
theorem execSlotVerifyDone_first {s : State} {slot : Bool} (htry : s.m.boot.trying = some slot)
    (hv : (s.m.flash.slot slot).verifies s.m.fuses = true) (hl : s.latch.latched = false) :
    execSlotVerifyDone s = .next { s with
      latch := (s.m.flash.slot slot).modeLatch
      m := Mach.takeSlot { s.start with
        tfPrev := s.m.tfLast, tfLast := (s.m.flash.slot slot).modeLatch.tf,
        boot := { s.m.boot with importTf := !(s.m.flash.slot slot).modeLatch.tf && s.m.tfLast } } slot } := by
  simp only [execSlotVerifyDone, htry, hv, hl, Bool.not_false, if_true]
  rfl

/-! ### Stage C: its start, the rails and the loader (R43, R44, R71 to R73) -/

theorem sysPwrgdWaitTimeout_low (hst : m.rd WKT_BOOT_STATUS_STAGE = 1) (hlow : m.pins.sysPwrgd = false) :
    sysPwrgdWaitTimeout m =
      Mach.wr { m with pins := { m.pins with warmResetN := true } } WKT_BOOT_STATUS_HALT_CODE 6 := if_pos ⟨hst, by rw [hlow]; rfl⟩

theorem powerGoodDeadlineMiss_low {r : Rail} (hst : m.rd WKT_BOOT_STATUS_STAGE = 2) (hen : m.pins.en r = true)
    (hpg : m.pins.pg r = false) :
    powerGoodDeadlineMiss r m = ((m.wr WKT_BOOT_STATUS_STAGE 4).wr WKT_BOOT_STATUS_HALT_CODE
      (if r = .vcore then 3 else if r = .vddq then 4 else 5)).startDrop true true true := by
  have hc : m.rd WKT_BOOT_STATUS_STAGE = 2 ∧ m.pins.en r = true ∧ (!m.pins.pg r) = true := ⟨hst, hen, by rw [hpg]; rfl⟩
  cases r <;> exact if_pos hc

/-- VCORE and VLANE are lost alike (R44). -/
theorem railPowerGoodLoss_core {r : Rail} (hen : m.pins.en r = true) (hr : r ≠ .vddq) :
    railPowerGoodLoss r m =
      (Mach.startDrop { m with pins := m.pins.setPg r false } true false true).disorderly 0x08 false := by
  rw [railPowerGoodLoss, if_pos hen]
  cases r with
  | vcore => rfl
  | vddq => exact absurd rfl hr
  | vlane => rfl

theorem sysPwrgdLoss_up (hen : m.pins.vcoreEn = true) :
    sysPwrgdLoss m = (((Mach.allChannelsOff { m with pins := { m.pins with sysPwrgd := false } }).assertAllPerst).startDrop
      true false true).disorderly 0x0A false := if_pos hen

theorem loaderVerified_first (hst : m.rd WKT_BOOT_STATUS_STAGE = 2) (hpll : m.boot.pllLock = true) (hup : m.boot.loaderUp = false) :
    loaderVerified m = { m with boot := { m.boot with loaderUp := true, loaded := 1 } } := if_pos ⟨hst, hpll, by rw [hup]; rfl⟩

theorem sectionLoaded_good {sec : Section} (hst : m.rd WKT_BOOT_STATUS_STAGE = 2) (hup : m.boot.loaderUp = true)
    (hlt : m.boot.loaded < m.bootImage.sectionCount) (hsec : m.bootImage.sections[m.boot.loaded]? = some sec)
    (hok : sec.digestOk = true) :
    sectionLoaded m.boot.loaded m = { m with boot := { m.boot with loaded := m.boot.loaded + 1 } } := by
  simp only [sectionLoaded, hst, hup, hlt, hsec, hok, and_self, if_true]

/-- A full training that the cache does not replace serves the channel and is cached (R86). -/
theorem ddr5TrainingDone_full {ch : Fin 8} {id : DimmId} {mo : Bool} (hst : m.starting = true) (hpg : m.pins.vddqPg = true)
    (hup : m.boot.loaderUp = true) (htr : bit m.boot.trained ch = false) (hdis : bit m.boot.disabled ch = false)
    (hcache : (m.cacheServes ch id && mo) = false) :
    ddr5TrainingDone ch id mo true m = Mach.trainedCh { m with flash := m.flash.writeCache ch id } ch false := by
  simp only [ddr5TrainingDone, hst, hpg, hup, htr, hdis, hcache, Bool.not_false, Bool.false_eq_true, true_or, and_self, if_true, if_false]

/-! ### Stage F (R73, R74, R570) -/

/-- Outside TF-256 mode no domain of a personality is made (R598). -/
theorem Mach.tfDomains_native {l : ModeLatch} (m : Mach) (h : l.tf = false) : m.tfDomains l = m := by
  simp only [Mach.tfDomains, h, Bool.not_false, if_true]

/-- The end of a wake in native mode. -/
theorem stageFReached_wake {l : ModeLatch} (mems : List (Nat × QMem)) (hst : m.rd WKT_PWR_STATUS_STATE = 5)
    (hpll : m.boot.pllLock = true) (hpg : m.pins.vlanePg = true) (hl : l.tf = false)
    (htr : (m.boot.trained ||| m.boot.disabled) &&& 0xFF = 0xFF) :
    stageFReached l mems m = (m.wakeDone mems).upstreamPorts.foldl (fun m p => m.send (.drs p)) (m.wakeDone mems) := by
  simp [stageFReached, hst, hpll, hpg, hl, htr]

/-- Stage F of a boot in native mode that imports no TF-256 configuration (R614). -/
theorem stageFReached_boot {l : ModeLatch} (mems : List (Nat × QMem)) (hpwr : m.rd WKT_PWR_STATUS_STATE = 0)
    (hst : m.rd WKT_BOOT_STATUS_STAGE = 2) (hup : m.boot.loaderUp = true) (hall : m.boot.loaded = m.bootImage.sectionCount)
    (hl : l.tf = false) (htr : (m.boot.trained ||| m.boot.disabled) &&& 0xFF = 0xFF) (hpg : m.pins.vlanePg = true)
    (himp : m.boot.importTf = false) :
    stageFReached l mems m = (let m := (m.privetStageF.releasePerst.wr WKT_BOOT_STATUS_STAGE 3).wr WKT_BOOT_STATUS_ATTEMPTS 0
      let m := Mach.rescanAll { m with fuses := m.fuses.program m.bootImage } mems
      m.upstreamPorts.foldl (fun m p => m.send (.drs p)) m) := by
  simp [stageFReached, hpwr, hst, hup, hall, hl, htr, hpg, himp, Mach.tfDomains_native]

/-- Stage F is reached; what its checks make of that state is the next one. -/
theorem execStageFReached_eq {s : State} {mems : List (Nat × QMem)} (h : stageFReached s.latch mems s.start = m) :
    execStageFReached mems s = .next (s.done m) := actL_eq_done (f := fun l m => stageFReached l mems m) h

/-! ### The next enable falls (R43) -/

theorem Mach.dropNext_vlane (h : m.boot.dropVlane = true) :
    m.dropNext = { m with boot := { m.boot with dropVlane := false }, pins := { m.pins with vlaneEn := false } } := if_pos h

/-- Only a DORMANT entry ends with an enable (R562). -/
theorem Mach.dormantReached_of_ne (h : m.rd WKT_PWR_STATUS_STATE ≠ 3) : m.dormantReached = m := if_neg fun hc => h hc.1

/-- Outside a DORMANT entry the first of the enables to fall is VLANE_EN, and nothing follows. -/
theorem execEnableDeassert_vlane {s : State} (h : s.start.boot.dropVlane = true) (hst : s.start.rd WKT_PWR_STATUS_STATE = 0) :
    execEnableDeassert s = .next (s.done { s.start with
      boot := { s.start.boot with dropVlane := false }, pins := { s.start.pins with vlaneEn := false } }) := by
  have hne : s.start.rd WKT_PWR_STATUS_STATE ≠ 3 := by omega
  refine act_eq_done (f := fun m => m.dropNext.dormantReached) ?_
  rw [Mach.dropNext_vlane h]
  exact Mach.dormantReached_of_ne hne

end

/-! ### The obligations -/

/-- Settles O4: the reset state reads the register tables (State.reset_rd), which hold the values that the clauses list. -/
theorem resetRegistersReadTheirResetValues : Obligations.ResetRegistersReadTheirResetValues := by
  unfold Obligations.ResetRegistersReadTheirResetValues
  simp only [State.reset_rd]
  exact ⟨by decide, by decide, by decide, by decide, by decide, by decide⟩

/-- Settles O8: each command's meaning, under the checks that its clause assumes to pass, is the one that the clause names. -/
theorem stagedStartCommandsComplete : Obligations.StagedStartCommandsComplete := by
  unfold Obligations.StagedStartCommandsComplete
  refine ⟨?choice, ?verified, ?pwrgdWait, ?perst, ?retrain, ?enable, ?powerGood, ?deadline, ?railLoss, ?vddqLoss, ?pwrgdLoss, ?pll,
    ?loader, ?sections, ?training, ?wake, ?stageF, ?watchdog, ?retry, ?deassert⟩
  case choice =>
    exact fun s haux hst htry hboot hbad => ⟨_, act_eq_done (bootSlotChoice_good haux hst htry hboot hbad), rfl, rfl⟩
  case verified =>
    exact fun s slot htry hv hl => ⟨_, execSlotVerifyDone_first htry hv hl, rfl, Mach.takeSlot_stage _ slot, rfl, rfl⟩
  case pwrgdWait =>
    exact fun s hst hlow =>
      ⟨_, act_eq_done (sysPwrgdWaitTimeout_low hst hlow), Mach.rd_wr_same _ WKT_BOOT_STATUS_HALT_CODE 6 (by decide), rfl⟩
  case perst => exact fun s hst => actL_eq_done (if_pos hst)
  case retrain => exact fun s h => ⟨_, act_eq_done (if_pos h), rfl⟩
  case enable => exact fun s r h => ⟨_, act_eq_done (if_pos h), rfl⟩
  case powerGood => exact fun s r => ⟨_, rfl, rfl⟩
  case deadline => exact fun s r hst hen hpg => act_eq_done (powerGoodDeadlineMiss_low hst hen hpg)
  case railLoss => exact fun s r hen hr => act_eq_done (railPowerGoodLoss_core hen hr)
  case vddqLoss => exact fun s hen => act_eq_done (if_pos hen)
  case pwrgdLoss => exact fun s hen => act_eq_done (sysPwrgdLoss_up hen)
  case pll => exact fun s hst hen hpg => ⟨_, act_eq_done (if_pos ⟨hst, hen, hpg⟩), rfl⟩
  case loader => exact fun s hst hpll hup => ⟨_, act_eq_done (loaderVerified_first hst hpll hup), rfl⟩
  case sections => exact fun s sec hst hup hlt hsec hok => ⟨_, act_eq_done (sectionLoaded_good hst hup hlt hsec hok), rfl⟩
  case training =>
    exact fun s ch id mo hst hpg hup htr hdis hcache => act_eq_done (ddr5TrainingDone_full hst hpg hup htr hdis hcache)
  case wake => exact fun s mems hst hpll hpg hl htr => execStageFReached_eq (stageFReached_wake mems hst hpll hpg hl htr)
  case stageF =>
    exact fun s mems hpwr hst hup hall hl htr hpg himp =>
      execStageFReached_eq (stageFReached_boot mems hpwr hst hup hall hl htr hpg himp)
  case watchdog => exact fun s hst => act_eq_done (if_pos hst)
  case retry => exact fun s p tag hst hrole => ⟨_, act_eq_done (if_pos ⟨hst, hrole⟩), rfl, rfl⟩
  case deassert => exact fun s h hst => ⟨_, execEnableDeassert_vlane h hst, rfl, rfl⟩

end Sys2Proof.Machine
end

section
/-! SUPPORT. The proof of the statement on the writes of buffer allocations. First what each write does to a tile that is not gated, under
the checks of its rule, then the commands. -/
namespace Sys2Proof.Machine

section
variable {m : Mach} {t : Tile} {v : BitVec 32}

/-- A write to a tile that Shutter does not gate is carried out at once (R558). -/
theorem Mach.orShut_of_not_gated {t : Nat} (off v : Nat) (f : Mach → Mach) (h : m.gated t = false) : m.orShut t off v f = f m :=
  if_neg (ne_true_of_eq_false h)

/-! ### Ingress allocations (R204, R205) -/

/-- The least size of R205 is an allocation's; the agent reservation has none (log 59, a deduction of the model). -/
theorem tileIbufAllocWrite_agent (hsum : m.ibSum t - m.rd (TILE_IBUF_AGENT_SLOTS t) + v.toNat % 2 ^ 18 ≤ 131072) :
    tileIbufAllocWrite t none v m = m.wr (TILE_IBUF_AGENT_SLOTS t) (v.toNat % 2 ^ 18) := if_neg (Nat.not_lt.mpr hsum)

/-! ### Tracker quota classes (R209) -/

theorem tileTrkQclassWrite_admitted {q : Fin 16} (hle : v.toNat % 2 ^ 12 ≤ v.toNat / 2 ^ 16 % 2 ^ 12)
    (hsum : ((List.range 16).map fun i => m.qMin t i).sum - m.qMin t q + v.toNat % 2 ^ 12 ≤ 2048) :
    tileTrkQclassWrite t q v m =
      (m.wr (TILE_TRK_QCLASS_MIN t q) (v.toNat % 2 ^ 12)).wr (TILE_TRK_QCLASS_MAX t q) (v.toNat / 2 ^ 16 % 2 ^ 12) := by
  simp only [tileTrkQclassWrite, gt_iff_lt, Nat.not_lt.mpr hle, Nat.not_lt.mpr hsum, decide_false, Bool.or_false, Bool.false_eq_true,
    if_false]

section
variable {o : Fin 16} {c : VC} (hport : m.portExists (t.val * 16 + o) = true)
include hport

/-- An allocation that differs from the one in force waits for the port's next training. -/
theorem tileIbufAllocWrite_waits (hsum : m.ibSum t - m.ibufAlloc (t.val * 16 + o) c + v.toNat % 2 ^ 18 ≤ 131072)
    (hmin : 17 ≤ v.toNat % 2 ^ 18) (hnew : v.toNat % 2 ^ 18 ≠ m.ibufCur (t.val * 16 + o) c) :
    tileIbufAllocWrite t (some (o, c)) v m =
      { m with ibNew := SMap.ins m.ibNew ((t.val * 16 + o) * 8 + c) (v.toNat % 2 ^ 18) } := by
  simp only [tileIbufAllocWrite, hport, gt_iff_lt, Nat.not_lt.mpr hsum, Nat.not_lt.mpr hmin, hnew, decide_false, Bool.not_true,
    Bool.or_false, Bool.false_eq_true, if_false]

/-! ### Egress limits (R218) -/

theorem tileEbufWrite_portMax : tileEbufWrite t o none v m = m.wr (TILE_EBUF_PORTMAX_MAX (t.val * 16 + o)) v.toNat := by
  simp only [tileEbufWrite, hport, Bool.not_true, Bool.false_eq_true, if_false]

theorem tileEbufWrite_vc (hle : v.toNat % 2 ^ 13 ≤ v.toNat / 2 ^ 16 % 2 ^ 13)
    (hsum : ((m.tilePorts t).map fun q => ((List.range 8).map fun i => m.rd (TILE_EBUF_VC_MIN q i)).sum).sum -
      m.rd (TILE_EBUF_VC_MIN (t.val * 16 + o) c) + v.toNat % 2 ^ 13 ≤ 4096) :
    tileEbufWrite t o (some c) v m = (m.wr (TILE_EBUF_VC_MIN (t.val * 16 + o) c) (v.toNat % 2 ^ 13)).wr
      (TILE_EBUF_VC_MAX (t.val * 16 + o) c) (v.toNat / 2 ^ 16 % 2 ^ 13) := by
  simp only [tileEbufWrite, hport, gt_iff_lt, Nat.not_lt.mpr hle, Nat.not_lt.mpr hsum, decide_false, Bool.not_true, Bool.or_false,
    Bool.false_eq_true, if_false]

end
end

/-- A write to a tile that Shutter does not gate answers the state that its meaning gives. -/
theorem act_orShut_eq_done {s : State} {t off v : Nat} {f : Mach → Mach} {m : Mach} (hgate : s.start.gated t = false)
    (h : f s.start = m) : act (fun u => u.orShut t off v f) s = .next (s.done m) :=
  act_eq_done ((Mach.orShut_of_not_gated off v f hgate).trans h)

/-! ### The obligation -/

/-- Settles O18: each write reaches its tile at once, and under the checks that its clause assumes to pass it does what the clause names. -/
theorem bufferRegisterCommandsComplete : Obligations.BufferRegisterCommandsComplete := by
  unfold Obligations.BufferRegisterCommandsComplete
  refine ⟨?agent, ?allocation, ?portMax, ?vcLimits, ?quotaClass⟩
  case agent => exact fun s t v hgate hsum => act_orShut_eq_done hgate (tileIbufAllocWrite_agent hsum)
  case allocation =>
    exact fun s t o c v hgate hport hsum hmin hnew => act_orShut_eq_done hgate (tileIbufAllocWrite_waits hport hsum hmin hnew)
  case portMax => exact fun s t o v hgate hport => act_orShut_eq_done hgate (tileEbufWrite_portMax hport)
  case vcLimits => exact fun s t o c v hgate hport hle hsum => act_orShut_eq_done hgate (tileEbufWrite_vc hport hle hsum)
  case quotaClass => exact fun s t q v hgate hle hsum => act_orShut_eq_done hgate (tileTrkQclassWrite_admitted hle hsum)

end Sys2Proof.Machine
end

section
/-! SUPPORT. The proof of the statement on Privet's recovery, repair and adaptive speculation. First what each operation does on the
machine under the conditions of its rule, then the commands. -/
namespace Sys2Proof.Machine

section
variable {m : Mach}

/-! ### Recovery (R293, R295) -/

theorem privetRecovery_first (h : m.recovering = false) :
    privetRecovery m =
      { m with
        t1 := m.shadow.foldl (fun t (x : Nat × SMap PvtEnt) => if ((m.ring.map RingRec.set).eraseDups).contains x.1 then t
          else x.2.foldl (fun t (y : Nat × PvtEnt) => SMap.ins t y.1 y.2) t) m.t1
        recover := ((m.ring.map RingRec.set).eraseDups).foldl
          (fun r x => if (m.recoveryLines x).isEmpty then r else SMap.ins r x (m.recoveryLines x)) m.recover
        recovering := true, ring := [], changed := [] } :=
  if_neg (ne_true_of_eq_false h)

theorem recoveryDone_last (hrec : m.recovering = true) (hnil : m.recover = []) :
    recoveryDone m = { m with recovering := false }.raise PVT_LOSS_EVENT_RECOVERY_DONE := by
  simp only [recoveryDone, hrec, hnil, List.isEmpty_nil, Bool.and_true, if_true]

theorem tier1Uncorrectable_found {set : Fin 262144} {way : Fin 16} {e : PvtEnt} {u : Mach}
    (hfind : SMap.find m.t1 (set.val * 16 + way.val) = some e)
    (hu : u = m.error { cls := .corrected, block := 4, code := 2, loc := set.val % 64 + way.val * 64 }) :
    tier1Uncorrectable set way m =
      { u with
        t1 := SMap.del u.t1 (set.val * 16 + way.val)
        recover := SMap.ins u.recover set
          ((u.recoveryLines set ++ (u.setImage set).map (fun (x : Nat × PvtEnt) => x.2.key) ++ [e.key]).eraseDups) } := by
  subst hu
  simp only [tier1Uncorrectable, hfind]

/-! ### Repair (R576, R577) -/

/-- A way that holds no entry of the bank has nothing to spill, and one of the bank's two spares takes its place. -/
theorem spareWayMap_empty {bank : Fin 64} {way : Fin 16}
    (hempty : m.t1.filter (fun (i, _) => i / 16 % 64 == bank.val && i % 16 == way.val) = [])
    (hspare : SMap.get 0 m.sparesUsed bank < 2) :
    spareWayMap bank way m =
      { m with sparesUsed := SMap.set 0 m.sparesUsed bank (SMap.get 0 m.sparesUsed bank + 1) }.error
        { cls := .corrected, block := 4, code := 3, loc := bank.val + way.val * 64 } := by
  simp only [spareWayMap, hempty, List.foldl_nil, hspare, if_true]

theorem lostBucket_first {b : Nat} (hon : m.t2On = true) (hlt : b < 2 ^ (m.rd PVT_T2_CFG_LOG2_ENTRIES - 2))
    (hnew : m.lostBuckets.contains b = false) (hroom : m.lostBuckets.length < 256) :
    lostBucket b m =
      { m with lostBuckets := m.lostBuckets ++ [b], t2 := SMap.drop m.t2 (b * 4) (b * 4 + 4) }.error
        { cls := .corrected, block := 4, code := 5, loc := b % 8 * 64 } := by
  simp only [lostBucket, hon, hnew, ge_iff_le, Nat.not_le.mpr hlt, Nat.not_le.mpr hroom, decide_false, Bool.not_true, Bool.or_false,
    Bool.false_eq_true, if_false]

/-! ### Adaptive speculation (R307, R308) -/

section
variable {d : Dom} (hadapt : m.flag LVR_SPEC_CFG_ADAPT_EN = true)
  (hfull : 2 ^ max 6 (m.rd LVR_SPEC_CFG_WINDOW_LOG2) ≤ (SMap.get {} m.specWin d).eligible)
include hadapt hfull

/-- Only a full window of an adapting domain is judged; both verdicts start from here. -/
theorem specWindowClose_judged :
    specWindowClose d m =
      let size := 2 ^ max 6 (m.rd LVR_SPEC_CFG_WINDOW_LOG2)
      let conflicts := (SMap.get {} m.specWin d).conflicts
      let u := { m with specWin := SMap.del m.specWin d }
      if u.specOn d && conflicts * 256 > m.rd LVR_SPEC_CFG_HI * size then
        (((u.setSpec d true).wr LVR_SPEC_LAST_DOMAIN d).wrB LVR_SPEC_LAST_OFF true).raise LVR_SPEC_EVENT_SPEC_OFF
      else if !u.specOn d && conflicts * 256 < m.rd LVR_SPEC_CFG_LO * size then
        (((u.setSpec d false).wr LVR_SPEC_LAST_DOMAIN d).wrB LVR_SPEC_LAST_OFF false).raise LVR_SPEC_EVENT_SPEC_ON
      else u := by
  have hgo : ¬ (!m.flag LVR_SPEC_CFG_ADAPT_EN ||
      (SMap.get {} m.specWin d).eligible < 2 ^ max 6 (m.rd LVR_SPEC_CFG_WINDOW_LOG2)) = true := by
    simpa [hadapt] using hfull
  exact if_neg hgo

theorem specWindowClose_off
    (hhi : m.rd LVR_SPEC_CFG_HI * 2 ^ max 6 (m.rd LVR_SPEC_CFG_WINDOW_LOG2) < (SMap.get {} m.specWin d).conflicts * 256)
    (hon : { m with specWin := SMap.del m.specWin d }.specOn d = true) :
    specWindowClose d m =
      (((({ m with specWin := SMap.del m.specWin d }.setSpec d true).wr LVR_SPEC_LAST_DOMAIN d).wrB LVR_SPEC_LAST_OFF true)).raise
        LVR_SPEC_EVENT_SPEC_OFF := by
  simp only [specWindowClose_judged hadapt hfull, hon, hhi, decide_true, Bool.and_true, if_true]

theorem specWindowClose_on
    (hlo : (SMap.get {} m.specWin d).conflicts * 256 < m.rd LVR_SPEC_CFG_LO * 2 ^ max 6 (m.rd LVR_SPEC_CFG_WINDOW_LOG2))
    (hoff : { m with specWin := SMap.del m.specWin d }.specOn d = false) :
    specWindowClose d m =
      (((({ m with specWin := SMap.del m.specWin d }.setSpec d false).wr LVR_SPEC_LAST_DOMAIN d).wrB LVR_SPEC_LAST_OFF false)).raise
        LVR_SPEC_EVENT_SPEC_ON := by
  simp only [specWindowClose_judged hadapt hfull, hoff, hlo, decide_true, Bool.false_and, Bool.not_false, Bool.true_and,
    Bool.false_eq_true, if_false, if_true]

end

/-- A write whose low threshold is below its high one, and that keeps adaptation on, writes the four fields and no more. -/
theorem lvrSpecCfgWrite_stays {v : BitVec 32} (hlt : v.toNat / 2 ^ 16 % 256 < v.toNat / 2 ^ 8 % 256) (hbit : bit v.toNat 0 = true)
    (hwas : m.flag LVR_SPEC_CFG_ADAPT_EN = true) :
    lvrSpecCfgWrite v m =
      (((m.wrB LVR_SPEC_CFG_ADAPT_EN true).wr LVR_SPEC_CFG_WINDOW_LOG2 (v.toNat / 16 % 16)).wr LVR_SPEC_CFG_HI
        (v.toNat / 2 ^ 8 % 256)).wr LVR_SPEC_CFG_LO (v.toNat / 2 ^ 16 % 256) := by
  simp only [lvrSpecCfgWrite, ge_iff_le, Nat.not_le.mpr hlt, hbit, hwas, Bool.not_true, Bool.false_eq_true, if_false]

end

/-! ### The obligation -/

/-- Settles O22: each command answers the machine that its rule gives under the conditions of its clause. -/
theorem privetRasAndSpeculationCommandsComplete : Obligations.PrivetRasAndSpeculationCommandsComplete := by
  unfold Obligations.PrivetRasAndSpeculationCommandsComplete
  refine ⟨?flush, ?recovery, ?done, ?uncorrectable, ?stateLost, ?spareWay, ?lostBucket, ?specOff, ?specOn, ?specCfg⟩
  case flush =>
    rintro s _ rfl
    exact act_start shadowFlush s
  case recovery =>
    rintro s _ hrec rfl
    exact act_eq_done (privetRecovery_first hrec)
  case done => exact fun s hrec hnil => act_eq_done (recoveryDone_last hrec hnil)
  case uncorrectable => exact fun s set way e u hfind hu => act_eq_done (tier1Uncorrectable_found hfind hu)
  case stateLost => exact fun s => act_start Mach.stateLost s
  case spareWay => exact fun s bank way hempty hspare => act_eq_done (spareWayMap_empty hempty hspare)
  case lostBucket => exact fun s b hon hlt hnew hroom => act_eq_done (lostBucket_first hon hlt hnew hroom)
  case specOff => exact fun s d hadapt hfull hhi hon => act_eq_done (specWindowClose_off hadapt hfull hhi hon)
  case specOn => exact fun s d hadapt hfull hlo hoff => act_eq_done (specWindowClose_on hadapt hfull hlo hoff)
  case specCfg => exact fun s v hlt hbit hwas => act_eq_done (lvrSpecCfgWrite_stays hlt hbit hwas)

end Sys2Proof.Machine
end

section
/-! SUPPORT. The proofs of the statements on Casements, the access check and the violation record. First what a Casement's translation,
Casement matching, the default map and the check of one byte do, then the statements. -/
namespace Sys2Proof.Machine

/-! ### Translation (R331) -/

/-- s of R331: where an address lies in a Casement's target. -/
def Casement.place (c : Casement) (a : Nat) : Nat := a - c.base + c.offset

/-- The coherence address of an address of a COH Casement. -/
def Casement.cohAddr (c : Casement) (a : Nat) : Option Nat := if c.coh then some (c.cohBase + (a - c.base)) else none

/-- A Casement's address at a member of its set or pair. -/
def Casement.atMember (c : Casement) (a : Nat) (b : Member) (dpa : Nat) : Xlat :=
  { port := b.port, ld := if b.mld then some b.ld else none, dpa := dpa, coh := c.cohAddr a, hedge := c.hedge, spec := c.spec }

/-- The member of an interleave set that holds s of R331. -/
def IlvSet.memberAt (t : IlvSet) (s : Nat) : Member := SMap.get {} t.members (s / t.bytes % t.count)

/-- Where a member of an interleave set holds s of R331. -/
def IlvSet.dpaAt (t : IlvSet) (s : Nat) : Nat := (t.memberAt s).dpaBase + s / t.bytes / t.count * t.bytes + s % t.bytes

section
variable (m : Mach) {c : Casement} (a : Nat)

theorem Mach.translate_ilv (hilv : c.ilv = true) :
    m.translate c a = c.atMember a ((m.ilvSet (c.target % 1024)).memberAt (c.place a)) ((m.ilvSet (c.target % 1024)).dpaAt (c.place a)) :=
  if_pos hilv

theorem Mach.translate_mirror (hilv : c.ilv = false) (hmir : c.mirror = true) :
    m.translate c a =
      { c.atMember a ((m.mirPair (c.target % 512)).mem ((m.mirPair (c.target % 512)).readFrom a))
          (((m.mirPair (c.target % 512)).mem ((m.mirPair (c.target % 512)).readFrom a)).dpaBase + c.place a) with
        pair := some (c.target % 512), member := (m.mirPair (c.target % 512)).readFrom a } :=
  (if_neg (ne_true_of_eq_false hilv)).trans (if_pos hmir)

theorem Mach.translate_device (hilv : c.ilv = false) (hmir : c.mirror = false) :
    m.translate c a =
      { port := c.target % 1024, ld := if bit c.target 14 then some (c.target / 1024 % 16) else none, dpa := c.place a,
        coh := c.cohAddr a, hedge := c.hedge, spec := c.spec } :=
  (if_neg (ne_true_of_eq_false hilv)).trans (if_neg (ne_true_of_eq_false hmir))

/-- The coherence address does not depend on the kind of target. -/
theorem Mach.translate_coh : (m.translate c a).coh = c.cohAddr a := by
  cases hilv : c.ilv with
  | true => rw [m.translate_ilv a hilv]; rfl
  | false =>
    cases hmir : c.mirror with
    | true => rw [m.translate_mirror a hilv hmir]; rfl
    | false => rw [m.translate_device a hilv hmir]

end

/-- Settles O56: the translation by the kind of the Casement's target. -/
theorem translationFollowsTheCasement : Obligations.TranslationFollowsTheCasement := by
  unfold Obligations.TranslationFollowsTheCasement
  refine ⟨?device, ?interleaved, ?mirrored, ?coherent⟩
  case device =>
    rintro m c a _ - rfl hilv hmir
    rw [m.translate_device a hilv hmir]
    exact ⟨rfl, rfl, rfl⟩
  case interleaved =>
    rintro m c a _ _ _ _ - rfl hilv rfl rfl rfl
    rw [m.translate_ilv a hilv]
    exact ⟨rfl, rfl, rfl⟩
  case mirrored =>
    rintro m c a _ _ _ - rfl hilv hmir rfl rfl
    rw [m.translate_mirror a hilv hmir]
    exact ⟨rfl, rfl, rfl⟩
  case coherent => exact fun m c a _ => m.translate_coh a

/-- A set's member and the address in it give back the place in the set. -/
theorem IlvSet.place_inj {t : IlvSet} {x y : Nat} (hmember : x / t.bytes % t.count = y / t.bytes % t.count)
    (hdpa : t.dpaAt x = t.dpaAt y) : x = y := by
  have hoffset : x / t.bytes / t.count * t.bytes + x % t.bytes = y / t.bytes / t.count * t.bytes + y % t.bytes := by
    simp only [IlvSet.dpaAt, IlvSet.memberAt, hmember, Nat.add_assoc] at hdpa
    exact Nat.add_left_cancel hdpa
  have hpos : 0 < t.bytes := Nat.mul_pos (by decide) (Nat.two_pow_pos _)
  have stripe (z : Nat) : (z / t.bytes / t.count * t.bytes + z % t.bytes) / t.bytes = z / t.bytes / t.count := by
    rw [Nat.mul_comm, Nat.mul_add_div hpos, Nat.div_eq_of_lt (Nat.mod_lt _ hpos), Nat.add_zero]
  have hstripe : x / t.bytes / t.count = y / t.bytes / t.count := by rw [← stripe x, ← stripe y, hoffset]
  have hmod : x % t.bytes = y % t.bytes := by rw [hstripe] at hoffset; exact Nat.add_left_cancel hoffset
  have hdiv : x / t.bytes = y / t.bytes := by
    rw [← Nat.div_add_mod (x / t.bytes) t.count, ← Nat.div_add_mod (y / t.bytes) t.count, hstripe, hmember]
  rw [← Nat.div_add_mod x t.bytes, ← Nat.div_add_mod y t.bytes, hdiv, hmod]

/-- Settles O57: one port and LD is one member, and within a member the DPA gives the stripe and the offset in it. -/
theorem interleaveSetsTranslateInjectively : Obligations.InterleaveSetsTranslateInjectively := by
  unfold Obligations.InterleaveSetsTranslateInjectively
  rintro m c a b t hilv rfl hdistinct ha hb hport hld hdpa
  rw [m.translate_ilv a hilv, m.translate_ilv b hilv] at hport hld hdpa
  have hmember := hdistinct _ (Nat.mod_lt _ (Nat.two_pow_pos _)) _ (Nat.mod_lt _ (Nat.two_pow_pos _)) hport hld
  have hplace : a - c.base + c.offset = b - c.base + c.offset := IlvSet.place_inj hmember hdpa
  omega

/-! ### The violation record (R341) -/

@[simp] theorem Mach.dom_setDom_same (m : Mach) (d : Nat) (r : DomRec) : (m.setDom d r).dom d = r := SMap.get_set_same _ _ _ _

theorem Mach.dom_setDom_ne (m : Mach) {d x : Nat} (r : DomRec) (h : x ≠ d) : (m.setDom d r).dom x = m.dom x :=
  SMap.get_set_ne _ _ _ _ h

@[simp] theorem Mach.dom_raise (m : Mach) (f : Fld) (d : Nat) : (m.raise f).dom d = m.dom d := rfl

/-- The first refused access of a domain is counted and fills its record. -/
theorem Mach.violation_first {m : Mach} {d : Nat} (v : Viol) (h : (m.dom d).viol.valid = false) :
    m.violation d v = (((m.count (CNT_DOM d 11) 1).setDom d
      { m.dom d with viol := { v with time := m.tbNs, valid := true, gen := (m.dom d).gen, count := 0 } }).raise DOM_EVENT_VIOLATION) :=
  if_neg (ne_true_of_eq_false h)

/-- A further one is counted in the record too. -/
theorem Mach.violation_further {m : Mach} {d : Nat} (v : Viol) (h : (m.dom d).viol.valid = true) :
    m.violation d v = (m.count (CNT_DOM d 11) 1).setDom d
      { m.dom d with viol := { (m.dom d).viol with count := min ((m.dom d).viol.count + 1) 0xFFFFFFFF } } := if_pos h

/-- Settles O53: the record of the refused domain alone is written, by VALID. -/
theorem refusedAccessFillsOrCountsTheViolation : Obligations.RefusedAccessFillsOrCountsTheViolation := by
  unfold Obligations.RefusedAccessFillsOrCountsTheViolation
  constructor
  · intro m d v hvalid
    simp only [Mach.violation_first v hvalid, Mach.dom_raise, Mach.dom_setDom_same, true_and, and_true]
    exact ⟨Mach.rd_raise_same _ _ (by decide) (by decide), fun x hx => Mach.dom_setDom_ne _ _ hx⟩
  · intro m d v hvalid
    simp only [Mach.violation_further v hvalid, Mach.dom_setDom_same, true_and]
    exact fun x hx => Mach.dom_setDom_ne _ _ hx

/-! ### Casement matching (R326, R329) -/

/-- A Casement's range holds an address. -/
def Casement.holds (c : Casement) (a : Nat) : Prop := c.base ≤ a ∧ a < c.base + 2 ^ c.k

section
variable {m : Mach} {d a b : Nat}

theorem Mach.casAt_eq_none : m.casAt d a = none ↔ ∀ x ∈ (m.dom d).cas, ¬ x.2.holds a := by
  simp [Mach.casAt, Casement.holds]

theorem Mach.holds_of_casAt {i : Nat} {c : Casement} (h : m.casAt d a = some (i, c)) : c.holds a := by
  simpa [Casement.holds] using List.find?_some h

/-- Where no two ranges overlap, the Casement that holds an address is the one that matches it. -/
theorem find?_of_disjointCas {l : SMap Casement} {x : Nat × Casement} (hl : disjointCas l) (hx : x ∈ l) (ha : x.2.holds a) :
    l.find? (fun y => y.2.base ≤ a && a < y.2.base + 2 ^ y.2.k) = some x := by
  induction l with
  | nil => cases hx
  | cons y l ih =>
    obtain ⟨hy, hl⟩ := List.pairwise_cons.mp hl
    obtain rfl | hx := List.mem_cons.mp hx
    · exact List.find?_cons_of_pos (by simpa [Casement.holds] using ha)
    · rw [List.find?_cons_of_neg, ih hl hx]
      have hyx := hy x hx
      obtain ⟨hlo, hhi⟩ := ha
      simp only [Bool.and_eq_true, decide_eq_true_eq]
      omega

/-- A Casement that matches an address matches every address of its range. -/
theorem Mach.casAt_of_holds {i : Nat} {c : Casement} (hd : disjointCas (m.dom d).cas) (h : m.casAt d a = some (i, c)) (hb : c.holds b) :
    m.casAt d b = some (i, c) :=
  find?_of_disjointCas hd (List.mem_of_find?_eq_some h) hb

/-! ### The end of the range that one rule allows -/

section
variable (l : SMap Casement) (a e : Nat)

theorem foldl_casNext_le : l.foldl (fun e x => if a < x.2.base && x.2.base < e then x.2.base else e) e ≤ e := by
  induction l generalizing e with
  | nil => exact Nat.le_refl e
  | cons y l ih =>
    refine (ih _).trans ?_
    dsimp only
    split
    · next h => simp only [Bool.and_eq_true, decide_eq_true_eq] at h; exact h.2.le
    · exact Nat.le_refl e

theorem lt_foldl_casNext (h : a < e) : a < l.foldl (fun e x => if a < x.2.base && x.2.base < e then x.2.base else e) e := by
  induction l generalizing e with
  | nil => exact h
  | cons y l ih =>
    refine ih _ ?_
    dsimp only
    split
    · next h => simp only [Bool.and_eq_true, decide_eq_true_eq] at h; exact h.1
    · exact h

theorem foldl_casNext_le_base {x : Nat × Casement} (hx : x ∈ l) (ha : a < x.2.base) :
    l.foldl (fun e x => if a < x.2.base && x.2.base < e then x.2.base else e) e ≤ x.2.base := by
  induction l generalizing e with
  | nil => cases hx
  | cons y l ih =>
    obtain rfl | hx := List.mem_cons.mp hx
    · refine (foldl_casNext_le l a _).trans ?_
      simp only [ha, decide_true, Bool.true_and, decide_eq_true_eq]
      split <;> omega
    · exact ih _ hx

end

theorem Mach.casNext_le (m : Mach) (d a e : Nat) : m.casNext d a e ≤ e := foldl_casNext_le _ a e

theorem Mach.lt_casNext {e : Nat} (h : a < e) : a < m.casNext d a e := lt_foldl_casNext _ a e h

theorem Mach.casNext_le_base {e : Nat} {x : Nat × Casement} (hx : x ∈ (m.dom d).cas) (ha : a < x.2.base) :
    m.casNext d a e ≤ x.2.base := foldl_casNext_le_base _ a e hx ha

/-- Below the next Casement, an address is in none as the one before it is. -/
theorem Mach.casAt_none_of_lt_casNext {e : Nat} (h : m.casAt d a = none) (hab : a ≤ b) (hb : b < m.casNext d a e) :
    m.casAt d b = none := by
  rw [Mach.casAt_eq_none] at h ⊢
  rintro x hx ⟨hlo, hhi⟩
  have hbase : ¬ a < x.2.base := fun hlt => absurd (Mach.casNext_le_base (e := e) hx hlt) (by omega)
  exact h x hx ⟨by omega, by omega⟩

/-- The default map gives every address of a 2^37-byte slice the same port and LD (R337). -/
theorem Mach.defaultMap_slice {x : Xlat} (h : m.defaultMap a = some x) (hab : a ≤ b) (hb : b < a - a % 2 ^ 37 + 2 ^ 37) :
    ∃ y, m.defaultMap b = some y := by
  have hport : (b - 2 ^ 51) / 2 ^ 41 = (a - 2 ^ 51) / 2 ^ 41 := by omega
  have hld : b / 2 ^ 37 % 16 = a / 2 ^ 37 % 16 := by omega
  have hrange : (2 ^ 51 ≤ b ∧ b < 2 ^ 52) ↔ (2 ^ 51 ≤ a ∧ a < 2 ^ 52) := by omega
  simp only [Mach.defaultMap, hport, hld, hrange] at h ⊢
  split at h
  case isFalse => cases h
  case isTrue hin =>
    rw [if_pos hin]
    split at h
    · next hmld =>
      rw [if_pos hmld]
      split at h
      · next hpool => rw [if_pos hpool]; exact ⟨_, rfl⟩
      · cases h
    · next hmld =>
      rw [if_neg hmld]
      split at h
      · next hpool => rw [if_pos hpool]; exact ⟨_, rfl⟩
      · cases h

end

/-! ### The check of one byte (R330, R337, R339) -/

/-- The verdict of a Casement that matches a byte, with the end of the range that it allows. -/
def Mach.byCasement (m : Mach) (priv : Bool) (n : Need) (a slot : Nat) (c : Casement) (next : Nat) : Verdict × Nat :=
  if c.privOnly && !priv then (.refuse a 3 slot, a) else if c.allows n then (.allow (m.translate c a), next) else (.refuse a 2 slot, a)

/-- The verdict of the default map on a byte that no Casement matches (R337). -/
def Mach.byDefault (m : Mach) (d : Nat) (n : Need) (a : Nat) : Verdict × Nat :=
  (if n.atomic then none else m.defaultMap a).elim (.refuse a 4 0xFFFF, a) fun x =>
    (.allow x, m.casNext d a (m.casNext 0 a (a - a % 2 ^ 37 + 2 ^ 37)))

section
variable {m : Mach} {d : Nat} {priv : Bool} {n : Need} {a b i : Nat} {c : Casement}

/-- A byte is judged by the domain's own Casement, else, for a privileged access, by D0's, else by the default map. -/
theorem Mach.checkByte_eq : m.checkByte d priv n a =
    (m.casAt d a).elim
      (if priv then
        (m.casAt 0 a).elim (m.byDefault d n a) fun o => m.byCasement priv n a o.1 o.2 (m.casNext d a (o.2.base + 2 ^ o.2.k))
      else (.refuse a 1 0xFFFF, a))
      fun o => m.byCasement priv n a o.1 o.2 (o.2.base + 2 ^ o.2.k) := by
  have hdefault : m.byDefault d n a = match (if n.atomic then none else m.defaultMap a) with
      | some x => (.allow x, m.casNext d a (m.casNext 0 a (a - a % 2 ^ 37 + 2 ^ 37)))
      | none => (.refuse a 4 0xFFFF, a) := by
    cases hmap : (if n.atomic then none else m.defaultMap a) <;> simp only [Mach.byDefault, hmap, Option.elim]
  rw [hdefault]
  cases hown : m.casAt d a with
  | some o => simp only [Mach.checkByte, hown]; rfl
  | none =>
    cases priv with
    | false => simp only [Mach.checkByte, hown]; rfl
    | true =>
      by_cases hd : d = 0
      · subst hd; simp only [Mach.checkByte, hown]; rfl
      · simp only [Mach.checkByte, hown, hd]
        cases m.casAt 0 a <;> rfl

theorem Mach.checkByte_own (hat : m.casAt d a = some (i, c)) :
    m.checkByte d priv n a = m.byCasement priv n a i c (c.base + 2 ^ c.k) := by
  rw [Mach.checkByte_eq, hat, Option.elim_some]

theorem Mach.checkByte_unprivileged (hown : m.casAt d a = none) (hpriv : priv = false) :
    m.checkByte d priv n a = (.refuse a 1 0xFFFF, a) := by
  rw [Mach.checkByte_eq, hown, Option.elim_none, if_neg (ne_true_of_eq_false hpriv)]

theorem Mach.checkByte_ofD0 (hown : m.casAt d a = none) (hpriv : priv = true) (hat : m.casAt 0 a = some (i, c)) :
    m.checkByte d priv n a = m.byCasement priv n a i c (m.casNext d a (c.base + 2 ^ c.k)) := by
  rw [Mach.checkByte_eq, hown, Option.elim_none, if_pos hpriv, hat, Option.elim_some]

theorem Mach.checkByte_default (hown : m.casAt d a = none) (hpriv : priv = true) (h0 : m.casAt 0 a = none) :
    m.checkByte d priv n a = m.byDefault d n a := by
  rw [Mach.checkByte_eq, hown, Option.elim_none, if_pos hpriv, h0, Option.elim_none]

/-- A Casement allows every byte that it matches or refuses each. -/
theorem Mach.byCasement_cases (m : Mach) (priv : Bool) (n : Need) (i : Nat) (c : Casement) :
    (∀ a next, m.byCasement priv n a i c next = (.allow (m.translate c a), next)) ∨
    ∃ k, ∀ a next, m.byCasement priv n a i c next = (.refuse a k i, a) := by
  by_cases hpriv : (c.privOnly && !priv) = true
  · exact .inr ⟨3, fun _ _ => if_pos hpriv⟩
  · by_cases hallows : c.allows n = true
    · exact .inl fun _ _ => (if_neg hpriv).trans (if_pos hallows)
    · exact .inr ⟨2, fun _ _ => (if_neg hpriv).trans (if_neg hallows)⟩

theorem Mach.byCasement_allow {x : Xlat} {e next : Nat} (h : m.byCasement priv n a i c e = (.allow x, next)) :
    next = e ∧ ∀ b e', ∃ y, (m.byCasement priv n b i c e').1 = .allow y := by
  obtain hallow | ⟨k, hrefuse⟩ := m.byCasement_cases priv n i c
  · rw [hallow] at h
    cases h
    exact ⟨rfl, fun b e' => ⟨_, congrArg Prod.fst (hallow b e')⟩⟩
  · rw [hrefuse] at h; cases h

theorem Mach.byCasement_refuse {e b' k s : Nat} (h : (m.byCasement priv n a i c e).1 = .refuse b' k s) : b' = a := by
  obtain hallow | ⟨k, hrefuse⟩ := m.byCasement_cases priv n i c
  · rw [hallow] at h; cases h
  · rw [hrefuse] at h; cases h; rfl

/-- The default map allows a byte that it gives a place, unless the access is atomic. -/
theorem Mach.byDefault_cases (m : Mach) (d : Nat) (n : Need) (a : Nat) :
    m.byDefault d n a = (.refuse a 4 0xFFFF, a) ∨
    ∃ x, m.defaultMap a = some x ∧ (∀ b y, m.defaultMap b = some y → (m.byDefault d n b).1 = .allow y) ∧
      m.byDefault d n a = (.allow x, m.casNext d a (m.casNext 0 a (a - a % 2 ^ 37 + 2 ^ 37))) := by
  cases hatomic : n.atomic <;> simp only [Mach.byDefault, hatomic, if_true, Bool.false_eq_true, if_false]
  case true => exact .inl rfl
  case false =>
    cases m.defaultMap a with
    | none => exact .inl rfl
    | some x => exact .inr ⟨x, rfl, fun b y hy => by rw [hy, Option.elim_some], rfl⟩

theorem Mach.byDefault_allow {x : Xlat} {next : Nat} (h : m.byDefault d n a = (.allow x, next)) :
    next = m.casNext d a (m.casNext 0 a (a - a % 2 ^ 37 + 2 ^ 37)) ∧
    ∀ b, a ≤ b → b < a - a % 2 ^ 37 + 2 ^ 37 → ∃ y, (m.byDefault d n b).1 = .allow y := by
  obtain hrefuse | ⟨z, hmap, hall, hallow⟩ := m.byDefault_cases d n a
  · rw [hrefuse] at h; cases h
  · rw [hallow] at h
    cases h
    refine ⟨rfl, fun b hab hb => ?_⟩
    obtain ⟨y, hy⟩ := Mach.defaultMap_slice hmap hab hb
    exact ⟨y, hall b y hy⟩

theorem Mach.byDefault_refuse {b' k s : Nat} (h : (m.byDefault d n a).1 = .refuse b' k s) : b' = a := by
  obtain hrefuse | ⟨z, -, -, hallow⟩ := m.byDefault_cases d n a
  · rw [hrefuse] at h; cases h; rfl
  · rw [hallow] at h; cases h

/-- A refused byte is the one that the refusal names. -/
theorem Mach.checkByte_refuse {b' k s : Nat} (h : (m.checkByte d priv n a).1 = .refuse b' k s) : b' = a := by
  cases hown : m.casAt d a with
  | some o => rw [Mach.checkByte_own hown] at h; exact Mach.byCasement_refuse h
  | none =>
    cases hpriv : priv with
    | false => rw [Mach.checkByte_unprivileged hown hpriv] at h; cases h; rfl
    | true =>
      cases h0 : m.casAt 0 a with
      | some o => rw [Mach.checkByte_ofD0 hown hpriv h0] at h; exact Mach.byCasement_refuse h
      | none => rw [Mach.checkByte_default hown hpriv h0] at h; exact Mach.byDefault_refuse h

/-- The range that a byte's rule allows goes beyond the byte, and each of its bytes is allowed by the same rule. -/
theorem Mach.checkByte_allow {x : Xlat} {next : Nat} (hdis : disjointCas (m.dom d).cas) (h0dis : disjointCas (m.dom 0).cas)
    (h : m.checkByte d priv n a = (.allow x, next)) :
    a < next ∧ ∀ b, a ≤ b → b < next → ∃ y, (m.checkByte d priv n b).1 = .allow y := by
  cases hown : m.casAt d a with
  | some o =>
    obtain ⟨i, c⟩ := o
    obtain ⟨hlo, hhi⟩ := Mach.holds_of_casAt hown
    obtain ⟨rfl, hall⟩ := Mach.byCasement_allow ((Mach.checkByte_own hown).symm.trans h)
    refine ⟨hhi, fun b hab hb => ?_⟩
    rw [Mach.checkByte_own (Mach.casAt_of_holds hdis hown ⟨hlo.trans hab, hb⟩)]
    exact hall _ _
  | none =>
    cases hpriv : priv with
    | false => rw [Mach.checkByte_unprivileged hown hpriv] at h; cases h
    | true =>
      subst hpriv
      cases h0 : m.casAt 0 a with
      | some o =>
        obtain ⟨i, c⟩ := o
        obtain ⟨hlo, hhi⟩ := Mach.holds_of_casAt h0
        obtain ⟨rfl, hall⟩ := Mach.byCasement_allow ((Mach.checkByte_ofD0 hown rfl h0).symm.trans h)
        refine ⟨Mach.lt_casNext hhi, fun b hab hb => ?_⟩
        have hb0 := Mach.casAt_of_holds h0dis h0 ⟨hlo.trans hab, hb.trans_le (m.casNext_le d a _)⟩
        rw [Mach.checkByte_ofD0 (Mach.casAt_none_of_lt_casNext hown hab hb) rfl hb0]
        exact hall _ _
      | none =>
        obtain ⟨rfl, hall⟩ := Mach.byDefault_allow ((Mach.checkByte_default hown rfl h0).symm.trans h)
        have hslice : a < a - a % 2 ^ 37 + 2 ^ 37 := by omega
        refine ⟨Mach.lt_casNext (Mach.lt_casNext hslice), fun b hab hb => ?_⟩
        have hb0 : b < m.casNext 0 a (a - a % 2 ^ 37 + 2 ^ 37) := hb.trans_le (m.casNext_le d a _)
        rw [Mach.checkByte_default (Mach.casAt_none_of_lt_casNext hown hab hb) rfl (Mach.casAt_none_of_lt_casNext h0 hab hb0)]
        exact hall b hab (hb0.trans_le (m.casNext_le 0 a _))

/-! ### The check of an access, range after range -/

section
variable {e fuel : Nat}

/-- The first byte's refusal is the access's; its range is the last one, or the access goes on beyond it. -/
theorem Mach.checkFrom_cases (m : Mach) (d : Nat) (priv : Bool) (n : Need) (e fuel a : Nat) :
    (∃ b k s, (m.checkByte d priv n a).1 = .refuse b k s ∧ m.checkFrom d priv n e (fuel + 1) a = .refuse b k s) ∨
    ∃ x next, m.checkByte d priv n a = (.allow x, next) ∧
      ((e ≤ next ∧ m.checkFrom d priv n e (fuel + 1) a = .allow x) ∨
       (¬ e ≤ next ∧ ∃ y, m.checkFrom d priv n e fuel next = .allow y ∧ m.checkFrom d priv n e (fuel + 1) a = .allow x) ∨
       (¬ e ≤ next ∧ ∃ b k s, m.checkFrom d priv n e fuel next = .refuse b k s ∧
         m.checkFrom d priv n e (fuel + 1) a = .refuse b k s)) := by
  rw [Mach.checkFrom]
  rcases m.checkByte d priv n a with ⟨verdict, next⟩
  cases verdict with
  | refuse b k s => exact .inl ⟨b, k, s, rfl, rfl⟩
  | allow x =>
    refine .inr ⟨x, next, rfl, ?_⟩
    by_cases hend : e ≤ next
    · exact .inl ⟨hend, if_pos hend⟩
    · simp only [if_neg hend]
      cases m.checkFrom d priv n e fuel next with
      | allow y => exact .inr (.inl ⟨hend, y, rfl, rfl⟩)
      | refuse b k s => exact .inr (.inr ⟨hend, b, k, s, rfl, rfl⟩)

section
variable (hdis : disjointCas (m.dom d).cas) (h0dis : disjointCas (m.dom 0).cas)
include hdis h0dis

/-- An access that is allowed has every byte allowed, and its first byte's translation. -/
theorem Mach.allowed_of_checkFrom {x : Xlat} (h : m.checkFrom d priv n e fuel a = .allow x) :
    (m.checkByte d priv n a).1 = .allow x ∧ ∀ b, a ≤ b → b < e → ∃ y, (m.checkByte d priv n b).1 = .allow y := by
  induction fuel generalizing a x with
  | zero => cases h
  | succ fuel ih =>
    obtain ⟨b', k, s, -, hres⟩ | ⟨z, next, hbyte, hrange⟩ := m.checkFrom_cases d priv n e fuel a
    · cases hres.symm.trans h
    · obtain ⟨-, hrule⟩ := Mach.checkByte_allow hdis h0dis hbyte
      obtain ⟨hend, hres⟩ | ⟨-, y, hrest, hres⟩ | ⟨-, b', k, s, -, hres⟩ := hrange
      · cases hres.symm.trans h
        exact ⟨congrArg Prod.fst hbyte, fun b hab hb => hrule b hab (hb.trans_le hend)⟩
      · cases hres.symm.trans h
        refine ⟨congrArg Prod.fst hbyte, fun b hab hb => ?_⟩
        obtain hlt | hge := Nat.lt_or_ge b next
        · exact hrule b hab hlt
        · exact (ih hrest).2 b hge hb
      · cases hres.symm.trans h

/-- With as much fuel as bytes, a refusal is a byte's own, and every byte before it is allowed: each range takes a byte at least. -/
theorem Mach.refused_of_checkFrom {b k s : Nat} (hne : a < e) (hfuel : e ≤ a + fuel) (h : m.checkFrom d priv n e fuel a = .refuse b k s) :
    a ≤ b ∧ b < e ∧ (m.checkByte d priv n b).1 = .refuse b k s ∧
    ∀ i, a ≤ i → i < b → ∃ y, (m.checkByte d priv n i).1 = .allow y := by
  induction fuel generalizing a with
  | zero => omega
  | succ fuel ih =>
    obtain ⟨b', k', s', hbyte, hres⟩ | ⟨z, next, hbyte, hrange⟩ := m.checkFrom_cases d priv n e fuel a
    · cases hres.symm.trans h
      obtain rfl := Mach.checkByte_refuse hbyte
      exact ⟨Nat.le_refl _, hne, hbyte, fun i hai hia => absurd hia (Nat.not_lt.mpr hai)⟩
    · obtain ⟨hprogress, hrule⟩ := Mach.checkByte_allow hdis h0dis hbyte
      obtain ⟨-, hres⟩ | ⟨-, y, -, hres⟩ | ⟨hend, b', k', s', hrest, hres⟩ := hrange
      · cases hres.symm.trans h
      · cases hres.symm.trans h
      · cases hres.symm.trans h
        obtain ⟨hnb, hbe, hb, hbelow⟩ := ih (by omega) (by omega) hrest
        refine ⟨by omega, hbe, hb, fun i hai hib => ?_⟩
        obtain hlt | hge := Nat.lt_or_ge i next
        · exact hrule i hai hlt
        · exact hbelow i hge hib

end
end
end

/-- Settles O52: the check goes range after range, and 2,048 ranges are enough for an access of 2,048 bytes. -/
theorem accessCheckIsByteWise : Obligations.AccessCheckIsByteWise := by
  unfold Obligations.AccessCheckIsByteWise
  constructor
  · exact fun m d priv n a len x hdis h0dis h => Mach.allowed_of_checkFrom hdis h0dis h
  · exact fun m d priv n a len b c slot hdis h0dis hpos hlen h =>
      Mach.refused_of_checkFrom hdis h0dis (by omega) (by omega) h

end Sys2Proof.Machine
end

section
/-! SUPPORT. The proof of the statement on rule changes, mirror pairs and freezes. First what each operation does on the machine under the
conditions of its rule, then the commands. -/
namespace Sys2Proof.Machine

section
variable {m : Mach}

/-! ### Rule changes and fences (R343, R346, R347) -/

section
variable {c : PendChange} {rest : List PendChange} {d n : Nat} {new : Option Casement}
  (hchanges : m.changes = c :: rest) (hslot : c.change = .slot d n new)
include hchanges hslot

/-- A slot's change that waits for no walk commits, and its entry ends with the epoch that it began. -/
theorem commitPoint_slot {e : EntryRef} {u : Mach} (hwalk : c.needWalk = false) (hentry : c.entry = some e)
    (hu : u = { m with changes := rest }.commit (.slot d n new)) : commitPoint m = u.endEntry e { result := u.epoch } := by
  simp only [commitPoint, hchanges, hslot, hwalk, hentry, hu, Bool.false_eq_true, if_false]

/-- A walk is over once none of its lines is left to evict. -/
theorem coverageRemovalWalk_done {o : Casement} {l : List Nat} (hneed : c.needWalk = true) (hold : SMap.find (m.dom d).cas n = some o)
    (hwalk : c.walk = some l) (hevicted : l.any m.toEvict.contains = false) :
    coverageRemovalWalk m = { m with changes := { c with needWalk := false } :: rest } := by
  simp only [coverageRemovalWalk, hchanges, hslot, hneed, hold, hwalk, hevicted, Bool.false_eq_true, if_false]

end

theorem ruleFenceComplete_entry {i : Nat} {f : RuleFence} {e : EntryRef} (hfence : m.fences[i]? = some f)
    (hmet : (f.epochs.all fun (x : Nat × Nat) => m.fenceMet x.1 x.2) = true) (hentry : f.entry = some e) (hhdm : f.hdm = none)
    (hthread : f.thread = none) : ruleFenceComplete i m = { m with fences := m.fences.eraseIdx i }.endEntry e {} := by
  simp only [ruleFenceComplete, hfence, hmet, hentry, hhdm, hthread, if_true]

/-! ### Interleave sets and mirror pairs (R332 to R336) -/

theorem Mach.mirFail_of_not_failed {k i : Nat} (h : (m.mirPair k).st i ≠ .failed) :
    m.mirFail k i = ({ m with mir := SMap.set {} m.mir k ((m.mirPair k).setSt i .failed) }.raise DOM_EVENT_MIRROR_FAIL).error
      { cls := .corrected, block := 8, code := 1, port := some ((m.mirPair k).mem i).port } := if_neg h

theorem mirrorRepair_reissued {key b : Nat} {e : Trk} {x : Xlat} (hentry : m.entry key = some e) (hbad : e.badMember = some b)
    (hfirst : e.reissued = false) (hother : m.otherMember e.x = some x) :
    mirrorRepair key m =
      (m.setEntry key { e with x := { e.x with port := x.port, ld := x.ld, dpa := x.dpa, member := x.member }, reissued := true }).issue
        key e.req.kind.atDevice e.req.data e.req.mask e.req.poison false := by
  simp only [mirrorRepair, hentry, hbad, hfirst, hother]

section
variable {v : BitVec 32} {p : MirPair} (hpair : m.mirPair (m.rd CSM_MIR_SEL_PAIR) = p)
include hpair

/-- A write that spells both members' states writes READ_SEL alone. -/
theorem csmMirCtrlWrite_states (hst0 : v.toNat % 4 = p.st0.code) (hst1 : v.toNat / 4 % 4 = p.st1.code) :
    csmMirCtrlWrite v m = m.setMir (m.rd CSM_MIR_SEL_PAIR) { p with readSel := bit v.toNat 4 } := by
  subst hpair
  exact if_pos ⟨hst0, hst1⟩

/-- A write puts the failed second member to resynchronise from the first, from the start. -/
theorem csmMirCtrlWrite_resync (hst0 : p.st0 = .inSync) (hst1 : p.st1 = .failed) (hv0 : v.toNat % 4 = 0) (hv1 : v.toNat / 4 % 4 = 2) :
    csmMirCtrlWrite v m = m.setMir (m.rd CSM_MIR_SEL_PAIR) { p with readSel := bit v.toNat 4, st1 := .resync, cursor := 0 } := by
  simp [csmMirCtrlWrite, hpair, hst0, hst1, hv0, hv1, MirState.code]

end

theorem mirrorCursorAdvance_resync {k : Fin 512} (h : (m.mirPair k).st0 = .resync ∨ (m.mirPair k).st1 = .resync) :
    mirrorCursorAdvance k m = m.mirCursor k ((m.mirPair k).cursor + 1) := by
  simp only [mirrorCursorAdvance, Bool.or_eq_true, decide_eq_true_eq, h, if_true]

theorem csmSetWrite_ilvHdr {v : BitVec 32} (hfree : m.ilvRefs (m.rd CSM_ILV_SEL_SET) = 0) (hways : v.toNat % 8 ≤ 4)
    (hgran : v.toNat / 16 % 8 ≤ 6) :
    csmSetWrite (.ilvHdr v) m = { m with
      ilv := SMap.set {} m.ilv (m.rd CSM_ILV_SEL_SET)
        { m.ilvSet (m.rd CSM_ILV_SEL_SET) with ways := v.toNat % 8, gran := v.toNat / 16 % 8 } } := by
  simp only [csmSetWrite, hfree, gt_iff_lt, Nat.not_lt.mpr hways, Nat.not_lt.mpr hgran, Nat.lt_irrefl, decide_false, Bool.or_false,
    Bool.false_eq_true, if_false]

theorem csmSetWrite_mirSize {v : BitVec 64} (hfree : m.mirRefs (m.rd CSM_MIR_SEL_PAIR) = 0) :
    csmSetWrite (.mirSize v) m =
      m.setMir (m.rd CSM_MIR_SEL_PAIR) { m.mirPair (m.rd CSM_MIR_SEL_PAIR) with size := v.toNat / 4096 * 4096 } :=
  if_neg (Nat.not_lt.mpr hfree.le)

/-! ### Freezes (R361, R363) -/

section
variable {d : Dom} {h : HingeOp} (hfind : SMap.find m.hinges d = some h)
include hfind

/-- A drained freeze sweeps the member that it names; without one it is over. -/
theorem freezeDrainDone_drained (hop : h.op = 1) (hdrain : h.draining = true) (hdone : (m.freezeThreads d).domDrained d = true) :
    freezeDrainDone d m = h.sweep.elim ((m.freezeThreads d).freezeEnd d) fun _ =>
      (m.freezeThreads d).updHinge d fun h => { h with draining := false, sweeping := true } := by
  cases hsweep : h.sweep <;> simp [freezeDrainDone, hfind, hop, hdrain, hdone, hsweep]

/-- A sweep begins with the lines that the member holds, and ends the freeze once none of them is left to evict. -/
theorem hingeSweep_sweeping {hr i : Nat} (hsweeping : h.sweeping = true) (hsweep : h.sweep = some (hr, i)) :
    hingeSweep d m = h.todo.elim
      ({ m with toEvict := m.toEvict ++ (m.sweepLines d hr i).filter fun k => !m.toEvict.contains k }.updHinge d fun h =>
        { h with todo := some (m.sweepLines d hr i), lines := (m.sweepLines d hr i).length })
      fun l => if l.any m.toEvict.contains then m else m.freezeEnd d := by
  cases htodo : h.todo <;> simp only [hingeSweep, hfind, hsweeping, hsweep, htodo, Option.elim]

end
end

/-! ### The obligation -/

/-- Settles O23: each command answers the machine that its rule gives under the conditions of its clause. -/
theorem ruleAndMirrorCommandsComplete : Obligations.RuleAndMirrorCommandsComplete := by
  unfold Obligations.RuleAndMirrorCommandsComplete
  refine ⟨?commit, ?walk, ?fence, ?fail, ?repair, ?readSel, ?resync, ?cursor, ?ilvHdr, ?mirSize, ?violClr, ?fabric, ?drained,
    ?drainedSweep, ?sweep, ?swept⟩
  case commit =>
    exact fun s c rest d n new e u hchanges hwalk hslot hentry hu => act_eq_done (commitPoint_slot hchanges hslot hwalk hentry hu)
  case walk =>
    exact fun s c rest d n o new l hchanges hneed hslot hold hwalk hevicted =>
      act_eq_done (coverageRemovalWalk_done hchanges hslot hneed hold hwalk hevicted)
  case fence =>
    exact fun s i f e hfence hmet hentry hhdm hthread => act_eq_done (ruleFenceComplete_entry hfence hmet hentry hhdm hthread)
  case fail => exact fun s k i h => act_eq_done (congrArg Mach.mirRelease (Mach.mirFail_of_not_failed h))
  case repair => exact fun s key b e x hentry hbad hfirst hother => act_eq_done (mirrorRepair_reissued hentry hbad hfirst hother)
  case readSel => exact fun s v p hpair hst0 hst1 => act_eq_done (csmMirCtrlWrite_states hpair hst0 hst1)
  case resync => exact fun s v p hpair hst0 hst1 hv0 hv1 => act_eq_done (csmMirCtrlWrite_resync hpair hst0 hst1 hv0 hv1)
  case cursor => exact fun s k h => act_eq_done (mirrorCursorAdvance_resync h)
  case ilvHdr =>
    rintro s v _ rfl hfree hways hgran
    exact act_eq_done (csmSetWrite_ilvHdr hfree hways hgran)
  case mirSize =>
    rintro s v _ rfl hfree
    exact act_eq_done (csmSetWrite_mirSize hfree)
  case violClr => exact fun s v hbit => act_eq_done (if_pos hbit)
  case fabric => exact fun s f v => act_start (domFabricWrite f v) s
  case drained =>
    exact fun s d h hfind hop hdrain hdone hsweep =>
      act_eq_done ((freezeDrainDone_drained hfind hop hdrain hdone).trans (by rw [hsweep, Option.elim_none]))
  case drainedSweep =>
    exact fun s d h x hfind hop hdrain hdone hsweep =>
      act_eq_done ((freezeDrainDone_drained hfind hop hdrain hdone).trans (by rw [hsweep, Option.elim_some]))
  case sweep =>
    exact fun s d h hr i hfind hsweeping hsweep htodo =>
      act_eq_done ((hingeSweep_sweeping hfind hsweeping hsweep).trans (by rw [htodo, Option.elim_none]))
  case swept =>
    exact fun s d h x l hfind hsweeping hsweep htodo hevicted =>
      act_eq_done ((hingeSweep_sweeping hfind hsweeping hsweep).trans
        (by rw [htodo, Option.elim_some, if_neg (ne_true_of_eq_false hevicted)]))

end Sys2Proof.Machine
end

section
/-! SUPPORT. The proofs of the statements on the entries of the data opcodes and on the domain and Hinge commands. First what carrying out a
ready entry's row comes to and what it leaves unchanged, then each operation on the machine under the checks of its rule, then the
commands. -/
namespace Sys2Proof.Machine

section
variable {m : Mach} {e : EntryRef} {r : Run} {op : Nat}

/-! ### A ready entry (R415) -/

@[simp] theorem eref_dom (d : Dom) (q : Fin 64) (idx : BitVec 32) : (eref d q idx).dom = d := rfl

theorem Mach.onEntry_ready (h : m.ready e op r) (f : Mach → Run → Mach) : m.onEntry e [op] f = f m r := by
  obtain ⟨hrun, hfresh, hop, hgen⟩ := h
  simp [Mach.onEntry, hrun, hfresh, hop, hgen]

/-- On SQ 0 a command's row is carried out as any other. -/
theorem Mach.onAdmin_ready (h : m.ready e op r) (hq : e.q = 0) (f : Mach → Run → Mach) : m.onAdmin e [op] f = f m r :=
  (Mach.onEntry_ready h _).trans (if_neg (not_not_intro hq))

/-! ### The data opcodes (R416 to R421, R446) -/

/-- A data mover's entry gives its descriptor to the channel that it holds. -/
theorem Mach.loadCopy_ready (h : m.ready e op r) (kind : Nat) :
    m.loadCopy e op kind = { m with chans := m.chans.map fun (x : Nat × CopyChan) =>
      if x.2.entry = e then
        (x.1, { x.2 with kind := kind, a := bget r.bytes 0x10 8, b := bget r.bytes 0x18 8, len := bget r.bytes 0x20 8,
                         dflags := bget r.bytes 0x28 4, pattern := bget r.bytes 0x30 8, loaded := true, checking := true })
      else x }.setWork e .busy := Mach.onEntry_ready h _

theorem atomicEntry_asks (h : m.ready e 0x20 r) (hres : reservedSet r.bytes [(0x11, 15)] = false) (hlo : 1 ≤ bget r.bytes 0x10 1)
    (hhi : bget r.bytes 0x10 1 ≤ 7) (hlen : bget r.bytes 0x10 1 + 1 ≤ entLen r.bytes)
    (helems : elemsOk r.bytes (bget r.bytes 0x10 1) 8 0 = true) : atomicEntry e m = m.atomicAsk e r.bytes 0 0 [] := by
  have hentry := Mach.onEntry_ready h
  obtain ⟨hrun, hfresh, -, -⟩ := h
  simp only [atomicEntry, hrun, hfresh, hentry, hres, helems, Nat.ne_of_gt hlo, gt_iff_lt, Nat.not_lt.mpr hhi, Nat.not_lt.mpr hlen,
    decide_false, Bool.or_false, Bool.not_true, Bool.false_eq_true, if_false]

theorem runEntry_accepted (h : m.ready e 0x30 r) (hrun : m.runRefusal e.dom r.bytes = none) : runEntry e m = m.setWork e .busy := by
  simp only [runEntry, Mach.onEntry_ready h, hrun]

section
variable (h : m.ready e 0x40 r) (hbad : fenceBad r.bytes = false)
include h hbad

theorem fenceMem_ends (hkind : fenceKind r.bytes = 0) : fenceMem e m = m.endEntry e {} := by
  simp only [fenceMem, Mach.onEntry_ready h, hbad, hkind, Bool.false_eq_true, if_false, if_true]

/-- A fence of one domain takes the epochs of the domain that its body names and of that domain's function domains. -/
theorem Mach.fenceEntry_domain {kind : Nat} (hkind : fenceKind r.bytes = kind) (hone : bit (bget r.bytes 0x11 1) 0 = false)
    (hmay : m.mayQueue e.dom (bodyDom e r.bytes 0x12) = true) :
    m.fenceEntry e kind = (m.setWork e .busy).fence (some (bodyDom e r.bytes 0x12)) (some e) none := by
  simp [Mach.fenceEntry, Mach.onEntry_ready h, hbad, hkind, hone, hmay]

end
end

/-- Settles O26: a ready entry's row is carried out, and under the checks of its clause the operation is the one that it names. -/
theorem dataEntryCommandsComplete : Obligations.DataEntryCommandsComplete := by
  unfold Obligations.DataEntryCommandsComplete
  refine ⟨?nop, ?pad, ?copy, ?fill, ?verify, ?atomic, ?run, ?fenceMem, ?fenceRule, ?fenceAll⟩
  case nop => exact fun s d q idx r h => act_eq_done (Mach.onEntry_ready h _)
  case pad => exact fun s d q idx r h => act_eq_done (Mach.onEntry_ready h _)
  case copy => exact fun s d q idx r h => act_eq_done (Mach.loadCopy_ready h 0)
  case fill => exact fun s d q idx r h => act_eq_done (Mach.loadCopy_ready h 1)
  case verify => exact fun s d q idx r h => act_eq_done (Mach.loadCopy_ready h 2)
  case atomic => exact fun s d q idx r h hres hlo hhi hlen helems => act_eq_done (atomicEntry_asks h hres hlo hhi hlen helems)
  case run => exact fun s d q idx r h hrun => act_eq_done (runEntry_accepted h hrun)
  case fenceMem => exact fun s d q idx r h hbad hkind => act_eq_done (fenceMem_ends h hbad hkind)
  case fenceRule => exact fun s d q idx r h hbad hkind hone hmay => act_eq_done (Mach.fenceEntry_domain h hbad hkind hone hmay)
  case fenceAll => exact fun s d q idx r h hbad hkind hone hmay => act_eq_done (Mach.fenceEntry_domain h hbad hkind hone hmay)

/-! ### What the operations on entries, slices of DM and images leave unchanged -/

/-- A change of a queue changes no domain record and no port's domain. -/
theorem Mach.updSq_frame (m : Mach) (d q : Nat) (f : Sq → Sq) :
    (m.updSq d q f).doms = m.doms ∧ (m.updSq d q f).domPort = m.domPort := by
  unfold Mach.updSq
  split <;> exact ⟨rfl, rfl⟩

@[simp] theorem Mach.endEntry_doms (m : Mach) (e : EntryRef) (x : EntRes) : (m.endEntry e x).doms = m.doms :=
  (Mach.updSq_frame ..).1

@[simp] theorem Mach.endEntry_domPort (m : Mach) (e : EntryRef) (x : EntRes) : (m.endEntry e x).domPort = m.domPort :=
  (Mach.updSq_frame ..).2

/-- A new domain's slice of DM (R453) changes no domain record and no port's domain. -/
theorem Mach.giveSlice_frame (m : Mach) (d : Nat) : (m.giveSlice d).doms = m.doms ∧ (m.giveSlice d).domPort = m.domPort := by
  unfold Mach.giveSlice
  dsimp only
  split
  · split <;> exact ⟨rfl, rfl⟩
  · exact ⟨rfl, rfl⟩

@[simp] theorem Mach.updDom_hinges (m : Mach) (d : Nat) (f : DomRec → DomRec) : (m.updDom d f).hinges = m.hinges := rfl
@[simp] theorem Mach.updDom_sqs (m : Mach) (d : Nat) (f : DomRec → DomRec) : (m.updDom d f).sqs = m.sqs := rfl

/-- A domain that has no queue has none on a machine with the same queues. -/
theorem Mach.sqIds_eq_nil {u m : Mach} {t : Nat} (h : m.sqIds t = []) (hu : u.sqs = m.sqs) : u.sqIds t = [] := by
  rwa [Mach.sqIds, hu]

theorem Mach.dom_of_doms {u m : Mach} {d : Nat} (h : u.doms = m.doms) : u.dom d = m.dom d := by rw [Mach.dom, h, Mach.dom]

@[simp] theorem State.dom_done (s : State) (m : Mach) (d : Nat) : (s.done m).m.dom d = m.dom d := rfl

@[simp] theorem Mach.dom_setSpec (m : Mach) (k d : Nat) (off : Bool) : (m.setSpec k off).dom d = m.dom d := rfl

@[simp] theorem Mach.imgQueuesIn_nil (m : Mach) (d gen : Nat) (ovf : List Byte) : m.imgQueuesIn d gen [] ovf = m := rfl

@[simp] theorem Mach.dom_endEntry (m : Mach) (e : EntryRef) (x : EntRes) (d : Nat) : (m.endEntry e x).dom d = m.dom d :=
  Mach.dom_of_doms (m.endEntry_doms e x)

@[simp] theorem Mach.dom_giveSlice (m : Mach) (k d : Nat) : (m.giveSlice k).dom d = m.dom d :=
  Mach.dom_of_doms (m.giveSlice_frame k).1

/-- What every round of a fold keeps, the fold keeps. -/
theorem foldl_keeps {α β γ : Type} (p : β → γ) {f : β → α → β} (hf : ∀ b a, p (f b a) = p b) (l : List α) (b : β) :
    p (l.foldl f b) = p b := by
  induction l generalizing b with
  | nil => rfl
  | cons a l ih => exact (ih _).trans (hf b a)

theorem Mach.dom_foldl_setReg (m : Mach) (l : List Nat) (off : Nat → Nat) (v : Nat → Word) (d : Nat) :
    (l.foldl (fun m k => m.setReg (off k) (v k)) m).dom d = m.dom d :=
  foldl_keeps (Mach.dom · d) (fun u k => Mach.dom_of_doms (Mach.setReg_doms u (off k) (v k))) l m

/-! ### Domain commands (R342, R343, R348, R351, R353) -/

/-- The record of a host domain that DOMAIN_CREATE makes in place of a free one (R320, R348). -/
def DomRec.createdHost (old : DomRec) (dcfg : Nat) : DomRec :=
  { state := .active, kind := .host, qclass := dcfg % 16, cntAccess := bit dcfg 4, gen := (old.gen + 1) % 65536,
    ruleEpoch := old.ruleEpoch }

/-- DOMAIN_CREATE of a host domain n of port p: its record, its port, its counters cleared, its slice of DM. -/
def Mach.createHost (m : Mach) (n p dcfg : Nat) : Mach :=
  ({ m.setDom n ((m.dom n).createdHost dcfg) with domPort := SMap.ins m.domPort p n }.resetRegs
    (CNT_DOM n 0) (CNT_DOM n 0 + 0x80)).giveSlice n

theorem Mach.createHost_dom (m : Mach) (n p dcfg : Nat) : (m.createHost n p dcfg).dom n = (m.dom n).createdHost dcfg :=
  (Mach.dom_giveSlice _ _ _).trans
    ((Mach.dom_of_doms (m := m.setDom n ((m.dom n).createdHost dcfg)) rfl).trans (Mach.dom_setDom_same _ _ _))

theorem Mach.createHost_domPort (m : Mach) (n p dcfg : Nat) : SMap.find (m.createHost n p dcfg).domPort p = some n := by
  rw [Mach.createHost, (Mach.giveSlice_frame _ _).2]
  exact SMap.find_ins_same m.domPort p n

section
variable {m : Mach} {d : Dom} {idx : BitVec 32} {r : Run} {t : Nat}

/-- A host domain of one port takes the number and the port that its command names. -/
theorem domainCreate_host {n p : Nat} (hready : m.ready (eref 0 0 idx) 0x90 r) (hres : reservedSet r.bytes [(0x19, 7)] = false)
    (hkind : bget r.bytes 0x10 1 = 1) (hcfg : bget r.bytes 0x11 1 < 32) (hparent : bget r.bytes 0x14 2 = 0)
    (hvf : bget r.bytes 0x16 2 = 0) (hcount : bget r.bytes 0x18 1 = 1) (hnum : bget r.bytes 0x12 2 = n) (hport : bget r.bytes 0x20 2 = p)
    (hrest : ((List.range 16).any fun i => 1 ≤ i && bget r.bytes (0x20 + 2 * i) 2 != 0) = false) (hn : n ≠ 0) (hlt : n < 4096)
    (hfree : (m.dom n).state = .free) (hup : m.isUp p = true) (hunbound : m.portDom p = none) :
    domainCreate 0 0 idx m =
      (m.createHost n p (bget r.bytes 0x11 1)).endEntry (eref 0 0 idx) { result := n + 2 ^ 32 * (((m.dom n).gen + 1) % 65536) } := by
  refine (Mach.onAdmin_ready hready rfl _).trans ?_
  have hall : n ≠ 0xFFFF := by omega
  simp [hres, hkind, Nat.div_eq_of_lt hcfg, hparent, hvf, hcount, hnum, hport, hrest, hn, Nat.not_le.mpr hlt, hfree, hup,
    hunbound, hall, Mach.createHost, DomRec.createdHost]

section
variable (ht : t = bodyDom (eref d 0 idx) r.bytes 0x10) (hfree : m.domFree t = true)
include ht hfree

theorem domainReset_begins {u v : Mach} (hready : m.ready (eref d 0 idx) 0x91 r) (hres : reservedSet r.bytes [(0x13, 13)] = false)
    (hflag : bget r.bytes 0x12 1 < 2) (hmay : m.mayCommand d t = true)
    (hu : u = (m.resetSteps t .resetting).updDom t fun r' => { r' with thenDisable := bit (bget r.bytes 0x12 1) 0, viol := {} })
    (hv : v = (u.sqIds t).foldl (fun m q => m.sqClose t q) u) :
    domainReset d 0 idx m =
      ((v.sqIds t).foldl (fun m q => m.updSq t q fun s => { s with pendingDb := false }) v).setWork (eref d 0 idx) (.domain t false) := by
  refine (Mach.onAdmin_ready hready rfl _).trans ?_
  simp [← ht, hres, Nat.div_eq_of_lt hflag, hmay, hfree, hu, hv]

/-- Only a host domain has function domains that stand in its way. -/
theorem domainDestroy_begins {u : Mach} (hready : m.ready (eref d 0 idx) 0x92 r) (hres : reservedSet r.bytes [(0x12, 14)] = false)
    (hmay : m.mayCommand d t = true) (hchildren : m.children t = []) (hu : u = m.resetSteps t .destroying) :
    domainDestroy d 0 idx m = ((u.sqIds t).foldl (fun m q => m.sqClose t q) u).setWork (eref d 0 idx) (.domain t true) := by
  refine (Mach.onAdmin_ready hready rfl _).trans ?_
  simp [← ht, hres, hmay, hchildren, hfree, hu]

end

/-- A rule change that its checks accept waits alone for its commit point, behind a walk where it takes coverage away. -/
theorem setCasement_accepted {n : Nat} {b : CasBody} {new : Option Casement} (hready : m.ready (eref d 0 idx) 0x93 r)
    (ht : t = bodyDom (eref d 0 idx) r.bytes 0x10) (hn : n = bget r.bytes 0x12 1)
    (hb : b = { base := bget r.bytes 0x20 8, attr := bget r.bytes 0x28 4, owner := t % 4096, target := bget r.bytes 0x2E 2,
                offset := bget r.bytes 0x30 8, cohBase := bget r.bytes 0x38 8 })
    (hres : reservedSet r.bytes [(0x13, 13)] = false) (hlt : t < 4096) (hmay : m.mayRule d t = true) (hstate : (m.dom t).state ≠ .frozen)
    (hnone : m.changes = []) (hset : m.ruleSet d t n b = .ok new) :
    setCasement d 0 idx m =
      { m with changes := [{ change := .slot t n new, needWalk := takesCoverage (SMap.find (m.dom t).cas n) new,
                             entry := some (eref d 0 idx) }] }.setWork (eref d 0 idx) .busy := by
  refine (Mach.onAdmin_ready hready rfl _).trans ?_
  simp [← ht, ← hn, ← hb, hres, hlt, hmay, hstate, hnone, hset]

/-! ### Hinge commands (R361, R367, R369, R370) -/

section
variable (ht : t = bodyDom (eref d 0 idx) r.bytes 0x10) (hmay : m.mayCommand d t = true) (hfree : m.domFree t = true)
include ht hmay hfree

/-- A freeze without a sweep of a domain without queues. -/
theorem hingeFreeze_begins (hready : m.ready (eref d 0 idx) 0xA0 r)
    (hres : reservedSet r.bytes [(0x17, 1), (0x28, 24), (0x12, 2)] = false) (hflag : bget r.bytes 0x14 1 = 0)
    (hstate : (m.dom t).state = .active) (hsqs : m.sqIds t = []) :
    hingeFreeze d 0 idx m =
      ({ m.updDom t (fun r => { r with state := .frozen }) with
        hinges := SMap.ins m.hinges t { op := 1, draining := true, sweep := none } }.freezeThreads t).setWork (eref d 0 idx)
        (.freeze t) := by
  refine (Mach.onAdmin_ready hready rfl _).trans ?_
  have hnosweep : bit 0 0 = false := rfl
  simp [← ht, hres, hflag, hnosweep, hmay, hfree, hstate, Mach.sqIds_eq_nil hsqs]

/-- A function domain's image that fits is written line by line. -/
theorem hingeSave_begins {a : Nat} {img : List Byte} (hready : m.ready (eref d 0 idx) 0xA1 r) (ha : a = bget r.bytes 0x18 8)
    (himg : img = m.image t) (hres : reservedSet r.bytes [(0x17, 1), (0x28, 24), (0x12, 2), (0x14, 1)] = false)
    (hstate : (m.dom t).state = .frozen) (hkind : (m.dom t).kind = .func) (hlen : img.length ≤ bget r.bytes 0x20 8) :
    hingeSave d 0 idx m =
      ((cutLines a (img.length + 1) img).foldl (fun (m : Mach) (x : Nat × List Byte) =>
        m.agentLine (lineWrite (.hinge (eref d 0 idx)) x.1 x.2) d (d.val == 0) 3 x.2.length)
        { m with hinges := SMap.ins m.hinges t { op := 2 } }).setWork (eref d 0 idx) (.save t a img.length false) := by
  refine (Mach.onAdmin_ready hready rfl _).trans ?_
  simp [← ht, ← ha, ← himg, hres, hmay, hfree, hstate, hkind, Nat.not_lt.mpr hlen]

/-- A thaw of a domain without queues resumes its threads. -/
theorem hingeThaw_ends {u : Mach} (mems : List (Nat × QMem)) (hready : m.ready (eref d 0 idx) 0xA3 r)
    (hres : reservedSet r.bytes [(0x17, 1), (0x28, 24), (0x12, 2), (0x14, 1)] = false) (hstate : (m.dom t).state = .frozen)
    (hsqs : m.sqIds t = []) (hu : u = m.updDom t fun r => { r with state := .active }) :
    hingeThaw d 0 idx mems m =
      { u with frozen := u.frozen.map fun (x : Nat × FrozenThr) =>
        if x.1 / 64 = t then (x.1, { x.2 with resume := true }) else x }.endEntry (eref d 0 idx) {} := by
  refine (Mach.onAdmin_ready hready rfl _).trans ?_
  simp [← ht, hres, hmay, hfree, hstate, Mach.sqIds_eq_nil hsqs, hu]

end

/-- The record of a function domain that a restore makes of an image's domain section (R369). -/
def DomRec.restored (old : DomRec) (dom : List Byte) (parent vf epoch : Nat) : DomRec :=
  { state := .frozen, kind := .func, parent := parent, qclass := bget dom 0 1 % 16, cntAccess := bget dom 1 1 % 2 == 1,
    gen := (old.gen + 1) % 65536, vf := some vf, ruleEpoch := epoch, viol := violOfBytes (dom.drop 32) }

/-- An image without Casements, queues and threads is restored to the lowest free number. -/
theorem hingeRestore_dom {image : List Byte} {h n : Nat} {x : Xlat} {l : List ImgSec} (hready : m.ready (eref d 0 idx) 0xA2 r)
    (hh : h = bodyDom (eref d 0 idx) r.bytes 0x10) (hres : reservedSet r.bytes [(0x17, 1), (0x28, 24), (0x14, 1)] = false)
    (hmay : d.val = 0 ∨ d.val = h) (hh0 : h ≠ 0) (hlt : h < 4096) (hkind : (m.dom h).kind = .host) (hstate : (m.dom h).state ≠ .free)
    (hread : m.check d (d.val == 0) { rd := true } (bget r.bytes 0x18 8) (bget r.bytes 0x20 8) = .allow x)
    (hvf : ((m.domPorts h).any fun p => (m.vfRange p).1 ≤ bget r.bytes 0x12 2 &&
      bget r.bytes 0x12 2 < (m.vfRange p).1 + (m.vfRange p).2) = true)
    (hvfFree : (m.doms.any fun y => y.2.state != .free && y.2.vf == some (bget r.bytes 0x12 2)) = false)
    (himg : imgCheck (image.take (bget r.bytes 0x20 8)) = .ok l) (hcas : imgCount l 2 = 0) (hqueues : imgCount l 3 = 0)
    (hovf : (imgVal l 3).length = 0) (hthreads : imgCount l 6 = 0) (hpool : m.poolUsed ≤ 65536) (hsqs : m.sqs.length ≤ 65536)
    (hcqs : m.cqs.length ≤ 65536) (hn : ((List.range 4095).find? fun i => (m.dom (i + 1)).state == .free) = some n) :
    (hingeRestore d 0 idx image m).dom (n + 1) =
      (m.dom (n + 1)).restored (imgVal l 1) h (bget r.bytes 0x12 2) ((m.epoch + 1) % 2 ^ 32) := by
  refine (congrArg (Mach.dom · (n + 1)) (Mach.onAdmin_ready hready rfl _)).trans ?_
  have hauth : ((d.val == 0 || d.val == h) && decide (h < 4096) && (m.dom h).kind == .host && (m.dom h).state != .free &&
      h != 0) = true := by
    simpa [hlt, hkind, hstate, hh0] using hmay
  have hvfOk : (((m.domPorts h).all fun p => !(decide ((m.vfRange p).1 ≤ bget r.bytes 0x12 2) &&
      decide (bget r.bytes 0x12 2 < (m.vfRange p).1 + (m.vfRange p).2))) ||
      m.doms.any fun y => y.2.state != .free && y.2.vf == some (bget r.bytes 0x12 2)) = false := by
    rw [hvfFree, Bool.or_false, List.all_eq_not_any_not]
    simpa only [Bool.not_not, Bool.not_eq_false'] using hvf
  simp only [eref_dom, ← hh, hres, hauth, hread, hvfOk, himg, hn, Bool.not_true, Bool.false_eq_true, if_false]
  simp only [hcas, hqueues, hthreads, pieces, imgThreads, Mach.imgCasIn, List.filter_nil, List.length_nil, List.length_drop, hovf,
    List.any_nil, List.foldl_nil, Nat.add_zero, Nat.sub_zero, Nat.zero_sub, Nat.zero_div, gt_iff_lt, Nat.not_lt.mpr hpool,
    Nat.not_lt.mpr hsqs, Nat.not_lt.mpr hcqs, Nat.not_lt_zero, decide_false, Bool.or_false, Bool.false_eq_true, if_false,
    Mach.dom_endEntry]
  refine (foldl_keeps (fun x : Mach × Nat => x.1.dom (n + 1)) (fun x b => ?entry) _ _).trans ?_
  case entry => split <;> rfl
  rw [Mach.dom_foldl_setReg, Mach.dom_setSpec, Mach.imgQueuesIn_nil]
  exact (Mach.dom_of_doms rfl).trans ((Mach.dom_giveSlice _ _ _).trans (Mach.dom_setDom_same _ _ _))
end

/-- Settles O28: a ready command of SQ 0 passes the checks that its clause assumes, and what it begins is the next state. -/
theorem domainAndHingeCommandsComplete : Obligations.DomainAndHingeCommandsComplete := by
  unfold Obligations.DomainAndHingeCommandsComplete
  refine ⟨?create, ?reset, ?destroy, ?setCasement, ?freeze, ?save, ?restore, ?thaw⟩
  case create =>
    intro s idx r n p hready hres hkind hcfg hparent hvf hcount hnum hport hrest hn hlt hfree hup hunbound
    refine ⟨_, act_eq_done (domainCreate_host hready hres hkind hcfg hparent hvf hcount hnum hport hrest hn hlt hfree hup hunbound), ?_⟩
    simp only [State.dom_done, State.done_domPort, Mach.dom_endEntry, Mach.endEntry_domPort, Mach.createHost_dom]
    exact ⟨rfl, rfl, rfl, rfl, s.start.createHost_domPort n p _⟩
  case reset =>
    exact fun s d idx r t u v hready ht hres hflag hmay hfree hu hv =>
      act_eq_done (domainReset_begins ht hfree hready hres hflag hmay hu hv)
  case destroy =>
    exact fun s d idx r t u hready ht hres hmay hchildren hfree hu =>
      act_eq_done (domainDestroy_begins ht hfree hready hres hmay hchildren hu)
  case setCasement =>
    exact fun s d idx r t n b new hready ht hn hb hres hlt hmay hstate hnone hset =>
      act_eq_done (setCasement_accepted hready ht hn hb hres hlt hmay hstate hnone hset)
  case freeze =>
    exact fun s d idx r t hready ht hres hflag hmay hfree hstate hsqs =>
      act_eq_done (hingeFreeze_begins ht hmay hfree hready hres hflag hstate hsqs)
  case save =>
    exact fun s d idx r t a img hready ht ha himg hres hmay hfree hstate hkind hlen =>
      act_eq_done (hingeSave_begins ht hmay hfree hready ha himg hres hstate hkind hlen)
  case restore =>
    intro s d idx image r h n x l hready hh hres hmay hh0 hlt hkind hstate hread hvf hvfFree himg hcas hqueues hovf hthreads hpool
      hsqs hcqs hn
    refine ⟨_, act_start (hingeRestore d 0 idx image) s, ?_⟩
    have hdom := hingeRestore_dom hready hh hres hmay hh0 hlt hkind hstate hread hvf hvfFree himg hcas hqueues hovf hthreads
      hpool hsqs hcqs hn
    simp only [State.dom_done, hdom]
    exact ⟨rfl, rfl, rfl, rfl, rfl⟩
  case thaw =>
    exact fun s d idx mems r t u hready ht hres hmay hfree hstate hsqs hu =>
      act_eq_done (hingeThaw_ends ht hmay hfree mems hready hres hstate hsqs hu)

end Sys2Proof.Machine
end
